-- ==== Sys2Proof/Word.lean ====
section
/-! DEFINITION. The byte, the saturating and clamping arithmetic of the introduction (00, "Arithmetic conventions"),
and the four-lane record that the per-lane state uses. -/

namespace Sys2Proof

/-- One byte of a frame (R166). -/
abbrev Byte := BitVec 8

/-- A lane number (00, "Terms": lanes are numbered 0 to 3). -/
abbrev LaneId := Fin 4

/-- One of the two banks of a table group (chapter 9). -/
abbrev BankId := Fin 2

/-- Clamping (00): a value outside the range is the nearest bound of the range. -/
def clampTo (lo hi v : Nat) : Nat := max lo (min hi v)

/-- A saturating addition (00): the counter stops at its maximum. -/
def satAdd (limit a b : Nat) : Nat := min limit (a + b)

/-- The low 32 bits of a number, as the condition details carry it. -/
def low32 (v : Nat) : Nat := v % 2 ^ 32

/-- One value for each of the four lanes. -/
structure PerLane (α : Type) where
  l0 : α
  l1 : α
  l2 : α
  l3 : α
deriving DecidableEq, Repr, Inhabited

/-- The value of one lane. -/
def PerLane.get {α : Type} (x : PerLane α) (i : LaneId) : α :=
  match i with
  | 0 => x.l0
  | 1 => x.l1
  | 2 => x.l2
  | 3 => x.l3

/-- The record with one lane's value replaced. -/
def PerLane.set {α : Type} (x : PerLane α) (i : LaneId) (v : α) : PerLane α :=
  match i with
  | 0 => { x with l0 := v }
  | 1 => { x with l1 := v }
  | 2 => { x with l2 := v }
  | 3 => { x with l3 := v }

/-- The same value for every lane. -/
def PerLane.all {α : Type} (v : α) : PerLane α := ⟨v, v, v, v⟩

/-- A function applied to every lane's value. -/
def PerLane.map {α β : Type} (f : α → β) (x : PerLane α) : PerLane β := ⟨f x.l0, f x.l1, f x.l2, f x.l3⟩

/-- The four values in lane order. -/
def PerLane.toList {α : Type} (x : PerLane α) : List α := [x.l0, x.l1, x.l2, x.l3]

/-- The four lane numbers in order. -/
def laneIds : List LaneId := [0, 1, 2, 3]

end Sys2Proof
end

