-- ==== Sys2Proof/Config.lean ====
section
/-! DEFINITION. The capacities the part has (00, "Records and collections") and the free values: results the spec does
not state, held as constants without a body (log entry 7). -/

namespace Sys2Proof

/-- Slots of the trigger history (R9). -/
abbrev Config.historySlots : Nat := 256

/-- Entries the position schedule holds (R12). -/
abbrev Config.scheduleSlots : Nat := 64

/-- Columns of a background profile (R37). -/
abbrev Config.profileColumns : Nat := 4096

/-- Slots of an open blob table (4.1). -/
abbrev Config.blobSlots : Nat := 32

/-- Runs of one line that are kept (R49). -/
abbrev Config.runsKept : Nat := 64

/-- Records the flaw map holds (R75). -/
abbrev Config.mapRecords : Nat := 2048

/-- Plates the plate queue holds (R97). -/
abbrev Config.plateSlots : Nat := 128

/-- Requests that may wait (R168). -/
abbrev Config.requestSlots : Nat := 4

/-- Records the urgent queue holds (R171). -/
abbrev Config.urgentSlots : Nat := 32

/-- Records the flaw-record queue holds (R71). -/
abbrev Config.flawSlots : Nat := 128

/-- The number of positions a 48-bit field tells apart. -/
abbrev Config.positionRange : Nat := 2 ^ 48

/-- The largest value of a 32-bit saturating counter. -/
abbrev Config.max32 : Nat := 2 ^ 32 - 1

/-- FREE VALUE (log entry 7). What a 48-bit field holds when the sum put into it is 2^48 or more: the spec states no
result there. Applied to the sum. -/
opaque Config.positionAbove : Nat → Nat

/-- FREE VALUE (log entry 7). What a 48-bit field holds when the difference put into it is below zero: the spec states
no result there. Applied to the shortfall. -/
opaque Config.positionBelow : Nat → Nat

end Sys2Proof
end

