-- ==== Sys2Proof/Syntax.lean ====
section
/-! DEFINITION. The commands the part takes: one constructor for each row of spec/opcode_table.json, with the operands
that the rules give the row's event. -/

namespace Sys2Proof

/-- A frame as the line layer hands it to the part (R166): type byte, length field, body and CRC. -/
structure Frame where
  ftype : Byte
  len : BitVec 16
  body : List Byte
  crc : BitVec 16
deriving DecidableEq, Repr, Inhabited

/-- The input levels at the moment a power-on reset ends (R1: ENC_A, ENC_B; R103: CUTTER_FAULT; R104: CUT_ACK). -/
structure InputLevels where
  encA : Bool
  encB : Bool
  cutAck : Bool
  cutterFault : Bool
deriving DecidableEq, Repr, Inhabited

/-- The commands of the part, in the order of the opcode table. The request rows carry the tag and the argument bytes of
the request they execute (R168, "Request and response header"). -/
inductive Instr where
  /-- POWER_ON_RESET (R175): power is applied, or PWR_RST. -/
  | powerOnReset (levels : InputLevels)
  /-- ENCODER_INCREMENT (R2): the new levels of ENC_A and ENC_B. -/
  | encoderIncrement (a b : Bool)
  /-- STALL_TIMER_EXPIRY (R5). -/
  | stallTimerExpiry
  /-- SILENCE_TIMER_EXPIRY (R30) of a lane. -/
  | silenceTimerExpiry (lane : LaneId)
  /-- SHIFT_TIMER_EXPIRY (R162). -/
  | shiftTimerExpiry
  /-- CUT_ACK_RISE (R108) with the level of CUT_ACK_SEQ at the edge. -/
  | cutAckRise (seq : Bool)
  /-- CUT_ACK_FALL (R106). -/
  | cutAckFall
  /-- CUTTER_FAULT_RISE (R111). -/
  | cutterFaultRise
  /-- CUTTER_FAULT_FALL (R111). -/
  | cutterFaultFall
  /-- LINE_FRAME (R20) on a lane link. -/
  | lineFrame (lane : LaneId) (frame : Frame)
  /-- HEAD_REPLY_FRAME (R170) on a lane link. -/
  | headReplyFrame (lane : LaneId) (frame : Frame)
  /-- LANE_LINK_DOWN (R30). -/
  | laneLinkDown (lane : LaneId)
  /-- LANE_LINK_UP (R30). -/
  | laneLinkUp (lane : LaneId)
  /-- HEAD_COMMAND_SENT (R170): the head command of a lane link has been sent. -/
  | headCommandSent (lane : LaneId)
  /-- TRUNK_FRAME (R167). -/
  | trunkFrame (frame : Frame)
  /-- TRUNK_LINK_DOWN (R167). -/
  | trunkLinkDown
  /-- TRUNK_LINK_UP (R167). -/
  | trunkLinkUp
  /-- TRUNK_SEND_DONE (R172). -/
  | trunkSendDone
  /-- STATUS_GET (R176). -/
  | statusGet (tag : Byte) (args : List Byte)
  /-- TABLE_WRITE (R133). -/
  | tableWrite (tag : Byte) (args : List Byte)
  /-- TABLE_READ (R134). -/
  | tableRead (tag : Byte) (args : List Byte)
  /-- BANK_COMMIT (R135). -/
  | bankCommit (tag : Byte) (args : List Byte)
  /-- SETUP_WRITE (R142). -/
  | setupWrite (tag : Byte) (args : List Byte)
  /-- SETUP_READ (R142). -/
  | setupRead (tag : Byte) (args : List Byte)
  /-- RUN_START (R143, R173). -/
  | runStart (tag : Byte) (args : List Byte)
  /-- RUN_STOP (R174). -/
  | runStop (tag : Byte) (args : List Byte)
  /-- LANE_CONTROL (R33). -/
  | laneControl (tag : Byte) (args : List Byte)
  /-- CUTTER_HOLD (R110). -/
  | cutterHold (tag : Byte) (args : List Byte)
  /-- CUTTER_RELEASE (R110). -/
  | cutterRelease (tag : Byte) (args : List Byte)
  /-- SHIFT_CLOSE (R161). -/
  | shiftClose (tag : Byte) (args : List Byte)
  /-- REPORT_GET (R163). -/
  | reportGet (tag : Byte) (args : List Byte)
  /-- CONDITION_GET (R154). -/
  | conditionGet (tag : Byte) (args : List Byte)
  /-- CONDITION_CLEAR (R155). -/
  | conditionClear (tag : Byte) (args : List Byte)
  /-- OUTPUT_SET (R116). -/
  | outputSet (tag : Byte) (args : List Byte)
  /-- OUTPUT_OWNER (R116). -/
  | outputOwner (tag : Byte) (args : List Byte)
  /-- PART_RESET (R175). -/
  | partReset (tag : Byte) (args : List Byte)
  /-- HEAD_FRAME_OTHER_TYPE (R170): a frame from a head that is neither a LINE frame nor a head reply. -/
  | headFrameOtherType (lane : LaneId) (frame : Frame)
deriving DecidableEq, Repr

end Sys2Proof
end

