-- ==== Sys2Proof/WellFormed.lean ====
section
/-! DEFINITION. Which commands a sender can send: what the line layers and the request format (R166, R167, R177) make
possible. -/

namespace Sys2Proof

/-- A frame on a lane link is handed whole, so its body is as long as its length field says (R166). -/
def Frame.whole (f : Frame) : Bool := f.body.length == f.len.toNat

/-- A request's body (tag, kind and arguments) is at most 8192 bytes (R167). -/
def argsFit (args : List Byte) : Bool := decide (args.length + 2 ≤ 8192)

/-- The command is one that a sender can send: LINE frames are of type 32, head replies of type 34, other frames of a
head of neither (R177), lane frames are whole, and a request fits its frame. A TRUNK_FRAME may be any frame: R167 checks
its shape. -/
def Instr.wellFormed : Instr → Bool
  | .powerOnReset _ => true
  | .encoderIncrement _ _ => true
  | .stallTimerExpiry => true
  | .silenceTimerExpiry _ => true
  | .shiftTimerExpiry => true
  | .cutAckRise _ => true
  | .cutAckFall => true
  | .cutterFaultRise => true
  | .cutterFaultFall => true
  | .lineFrame _ f => f.ftype == 32 && f.whole
  | .headReplyFrame _ f => f.ftype == 34 && f.whole
  | .laneLinkDown _ => true
  | .laneLinkUp _ => true
  | .headCommandSent _ => true
  | .trunkFrame _ => true
  | .trunkLinkDown => true
  | .trunkLinkUp => true
  | .trunkSendDone => true
  | .statusGet _ args => argsFit args
  | .tableWrite _ args => argsFit args
  | .tableRead _ args => argsFit args
  | .bankCommit _ args => argsFit args
  | .setupWrite _ args => argsFit args
  | .setupRead _ args => argsFit args
  | .runStart _ args => argsFit args
  | .runStop _ args => argsFit args
  | .laneControl _ args => argsFit args
  | .cutterHold _ args => argsFit args
  | .cutterRelease _ args => argsFit args
  | .shiftClose _ args => argsFit args
  | .reportGet _ args => argsFit args
  | .conditionGet _ args => argsFit args
  | .conditionClear _ args => argsFit args
  | .outputSet _ args => argsFit args
  | .outputOwner _ args => argsFit args
  | .partReset _ args => argsFit args
  | .headFrameOtherType _ f => f.ftype != 32 && f.ftype != 34 && f.whole

end Sys2Proof
end

