-- ==== Sys2Proof/Decode.lean ====
section
/-! DEFINITION. Reading commands. No row of spec/opcode_table.json gives bits, so no word spells a command; a request's
kind byte (R169) does name its row, and that numbering is here with its inverse. -/

namespace Sys2Proof

/-- The command a word spells by the table's bits: none, since no row of the table gives bits (log entry 26). -/
def decodeTableWord (_nbits _w : Nat) : Option Instr := none

/-- A request as it waits in the request queue: tag, kind and arguments (R168, R177). -/
structure Request where
  tag : Byte
  kind : Byte
  args : List Byte
deriving DecidableEq, Repr, Inhabited

/-- The command that executes a request: the kind number is the place in the list of R169, from 1. None for an unknown
kind. -/
def Instr.ofRequest (r : Request) : Option Instr :=
  match r.kind.toNat with
  | 1 => some (.statusGet r.tag r.args)
  | 2 => some (.tableWrite r.tag r.args)
  | 3 => some (.tableRead r.tag r.args)
  | 4 => some (.bankCommit r.tag r.args)
  | 5 => some (.setupWrite r.tag r.args)
  | 6 => some (.setupRead r.tag r.args)
  | 7 => some (.runStart r.tag r.args)
  | 8 => some (.runStop r.tag r.args)
  | 9 => some (.laneControl r.tag r.args)
  | 10 => some (.cutterHold r.tag r.args)
  | 11 => some (.cutterRelease r.tag r.args)
  | 12 => some (.shiftClose r.tag r.args)
  | 13 => some (.reportGet r.tag r.args)
  | 14 => some (.conditionGet r.tag r.args)
  | 15 => some (.conditionClear r.tag r.args)
  | 16 => some (.outputSet r.tag r.args)
  | 17 => some (.outputOwner r.tag r.args)
  | 18 => some (.partReset r.tag r.args)
  | _ => none

/-- The request that a request command executes; none for a command that is no request. -/
def Instr.request? : Instr → Option Request
  | .statusGet t a => some ⟨t, 1, a⟩
  | .tableWrite t a => some ⟨t, 2, a⟩
  | .tableRead t a => some ⟨t, 3, a⟩
  | .bankCommit t a => some ⟨t, 4, a⟩
  | .setupWrite t a => some ⟨t, 5, a⟩
  | .setupRead t a => some ⟨t, 6, a⟩
  | .runStart t a => some ⟨t, 7, a⟩
  | .runStop t a => some ⟨t, 8, a⟩
  | .laneControl t a => some ⟨t, 9, a⟩
  | .cutterHold t a => some ⟨t, 10, a⟩
  | .cutterRelease t a => some ⟨t, 11, a⟩
  | .shiftClose t a => some ⟨t, 12, a⟩
  | .reportGet t a => some ⟨t, 13, a⟩
  | .conditionGet t a => some ⟨t, 14, a⟩
  | .conditionClear t a => some ⟨t, 15, a⟩
  | .outputSet t a => some ⟨t, 16, a⟩
  | .outputOwner t a => some ⟨t, 17, a⟩
  | .partReset t a => some ⟨t, 18, a⟩
  | .powerOnReset _ | .encoderIncrement _ _ | .stallTimerExpiry | .silenceTimerExpiry _ | .shiftTimerExpiry
  | .cutAckRise _ | .cutAckFall | .cutterFaultRise | .cutterFaultFall | .lineFrame _ _ | .headReplyFrame _ _
  | .laneLinkDown _ | .laneLinkUp _ | .headCommandSent _ | .trunkFrame _ | .trunkLinkDown | .trunkLinkUp
  | .trunkSendDone | .headFrameOtherType _ _ => none

end Sys2Proof
end

