-- ==== Sys2Proof/Machine/State.lean ====
section
/-! DEFINITION. The state of the part, block by block, as plain data, with every block's reset value; the reasons a step
can stop. INVENTORY.md lists every field with the rule that names it. -/

namespace Sys2Proof.Machine

/-! ### Position Unit (chapter 1) -/

/-- The kinds of schedule entry (R12). -/
inductive EntryKind where
  | cut
  | issueLimit
  | confirmDeadline
  | divert
deriving DecidableEq, Repr, Inhabited

/-- A schedule entry (R12). -/
structure Entry where
  fire : Nat
  kind : EntryKind
  plate : Nat
deriving DecidableEq, Repr, Inhabited

/-- A valid slot of the trigger history (R9). -/
structure HistorySlot where
  trigger : Nat
  position : Nat
deriving DecidableEq, Repr, Inhabited

/-- The Position Unit's state (1.1). `firing` is the part of a firing list that has left the schedule and has not yet
been handed (R13, R15); it is empty between commands. -/
structure PositionUnit where
  p : Nat
  debt : Nat
  excursion : Option Nat
  reverseArmed : Bool
  encA : Bool
  encB : Bool
  stallTimer : Nat
  stallArmed : Bool
  phase : Nat
  trigger : Nat
  triggerSeen : Bool
  history : List (Option HistorySlot)
  schedule : List Entry
  firing : List Entry
deriving DecidableEq, Repr, Inhabited

/-- R1's table; the quadrature state is the pair of levels as the reset ends. -/
def PositionUnit.reset (a b : Bool) : PositionUnit where
  p := 0
  debt := 0
  excursion := none
  reverseArmed := true
  encA := a
  encB := b
  stallTimer := 0
  stallArmed := true
  phase := 0
  trigger := 0
  triggerSeen := false
  history := List.replicate Config.historySlots none
  schedule := []
  firing := []

/-- The pulses put on TRIG0..TRIG3 (together, R7) and on CUT_REQ (R105) since power-on: the model's own counts, since a
pulse has no other trace in the state (log entry 15). -/
structure Pulses where
  trig : Nat
  cutReq : Nat
deriving DecidableEq, Repr, Inhabited

/-! ### Lanes (chapters 2 to 4) -/

/-- Link state as the line layer reports it (R19, R165). -/
inductive LinkState where
  | up
  | down
deriving DecidableEq, Repr, Inhabited

/-- Lane states (2.3). -/
inductive LaneState where
  | disabled
  | idle
  | waiting
  | running
  | silent
deriving DecidableEq, Repr, Inhabited

/-- Forward modes (R35). -/
inductive ForwardMode where
  | off
  | all
  | hits
deriving DecidableEq, Repr, Inhabited

/-- A line in a forward slot (R35): the pixels as the LINE frame packs them. -/
structure ForwardLine where
  lane : LaneId
  trigger : Nat
  position : Option Nat
  pixelCount : Nat
  flags : Byte
  payload : List Byte
deriving DecidableEq, Repr, Inhabited

/-- A Lane Receiver's state (2.1), with the lane's line binding (9.2), its link state and the head command it is still
sending (R170). `inHand` is the position of a line that the lane has taken and not yet handled whole (R81); it is absent
between commands. `lastGapStart` is the model's own (log entry 30): the start of the record that the flaw map took for the last
closed gap, absent where it refused or floored that gap (R76). -/
structure Receiver where
  link : LinkState
  state : LaneState
  forward : ForwardMode
  lastTrigger : Option Nat
  lastPosition : Option Nat
  seeded : Bool
  silenceTimer : Nat
  silentSince : Option Nat
  satRun : Nat
  openGap : Option Nat
  lastClosedGap : Option Nat
  lastGapStart : Option Nat
  slot : Option ForwardLine
  malformed : Nat
  stale : Nat
  outOfOrder : Nat
  forwardDropped : Nat
  missing : Nat
  inHand : Option Nat
  lineBinding : Option BankId
  headSending : Option (List Byte)
deriving DecidableEq, Repr, Inhabited

/-- R19's values; the link state and a head command being sent are not the reset's to change. -/
def Receiver.reset (link : LinkState) (headSending : Option (List Byte)) : Receiver where
  link := link
  state := .disabled
  forward := .off
  lastTrigger := none
  lastPosition := none
  seeded := false
  silenceTimer := 0
  silentSince := none
  satRun := 0
  openGap := none
  lastClosedGap := none
  lastGapStart := none
  slot := none
  malformed := 0
  stale := 0
  outOfOrder := 0
  forwardDropped := 0
  missing := 0
  inHand := none
  lineBinding := none
  headSending := headSending

/-- One column of a background profile (3.1): B[c] in sixty-fourths and the seeded mark. -/
structure Column where
  b : Nat
  seeded : Bool
deriving DecidableEq, Repr, Inhabited

/-- Polarity of a run, blob or flaw. -/
inductive Polarity where
  | dark
  | bright
deriving DecidableEq, Repr, Inhabited

/-- A span of columns, lowest and highest. -/
structure Span where
  lo : Nat
  hi : Nat
deriving DecidableEq, Repr, Inhabited

/-- An open blob (4.1). -/
structure Blob where
  polarity : Polarity
  lead : Nat
  lastJoined : Nat
  idle : Nat
  colMin : Nat
  colMax : Nat
  lastSpan : Span
  pendingSpan : Option Span
  pixels : Nat
  peak : Nat
  sat : Bool
  lines : Nat
  continues : Bool
  tag : BankId
  openedNow : Bool
deriving DecidableEq, Repr, Inhabited

/-- What remains of a blob closed for length (4.1). -/
structure Continuation where
  polarity : Polarity
  lastSpan : Span
  idle : Nat
  idleLimit : Nat
deriving DecidableEq, Repr, Inhabited

/-- A slot of the open blob table (4.1). -/
inductive Slot where
  | free
  | blob (b : Blob)
  | continuation (c : Continuation)
deriving DecidableEq, Repr, Inhabited

/-- A lane's tracker: its 32 slots and the age order, oldest first, of those that are not FREE. -/
structure Tracker where
  slots : List Slot
  age : List Nat
deriving DecidableEq, Repr, Inhabited

/-- R52: every slot FREE, the age order empty. -/
def Tracker.empty : Tracker where
  slots := List.replicate Config.blobSlots .free
  age := []

/-- One lane: receiver, background profile, tracker. -/
structure Lane where
  rx : Receiver
  profile : List Column
  tracker : Tracker
deriving DecidableEq, Repr, Inhabited

/-- R37: every background 0, every seeded mark clear. -/
def blankProfile : List Column := List.replicate Config.profileColumns ⟨0, false⟩

/-- A lane after a reset (R19, R37, R52). -/
def Lane.reset (link : LinkState) (headSending : Option (List Byte)) : Lane where
  rx := Receiver.reset link headSending
  profile := blankProfile
  tracker := Tracker.empty

/-- A FLAW record (R70). -/
structure FlawRecord where
  id : Nat
  lane : LaneId
  cls : Nat
  polarity : Polarity
  lead : Nat
  trail : Nat
  centre : Nat
  width : Nat
  length : Nat
  peak : Nat
  pixels : Nat
  sat : Bool
  cont : Bool
  continues : Bool
  bank : BankId
deriving DecidableEq, Repr, Inhabited

/-! ### Flaw Map (chapter 5) -/

/-- A record of the flaw map (5.1). A gap's end is absent while it is open. -/
inductive MapRecord where
  | flaw (r : FlawRecord)
  | gap (lane : LaneId) (start : Nat) (stop : Option Nat)
deriving DecidableEq, Repr, Inhabited

/-- The overflow mark (5.1). -/
structure OverflowMark where
  lo : Nat
  hi : Nat
  openLanes : PerLane Bool
deriving DecidableEq, Repr, Inhabited

/-- The flaw map and the horizon (5.1). -/
structure FlawMap where
  records : List MapRecord
  mark : Option OverflowMark
  h : Nat
deriving DecidableEq, Repr, Inhabited

/-- R73. -/
def FlawMap.reset : FlawMap where
  records := []
  mark := none
  h := 0

/-! ### Cut Planner (chapter 6) -/

/-- Boundary statuses (R96). -/
inductive BoundaryStatus where
  | planned
  | pending
  | requested
  | confirmed
  | deviated
  | missed
  | skipped
deriving DecidableEq, Repr, Inhabited

/-- Grades: the seven final grades in the order of 9.1, and FATAL, which stands as an evaluation and a predicted grade
only (R123, R125). -/
inductive Grade where
  | a
  | b
  | c
  | reject
  | uninspected
  | cullet
  | skipped
  | fatal
deriving DecidableEq, Repr, Inhabited

/-- Where the gate sends a plate (7.6). -/
inductive Destination where
  | stack0
  | stack1
  | stack2
  | stack3
  | reject
deriving DecidableEq, Repr, Inhabited

/-- Plate kinds: ORDER, and CULLET with its sub-reason (R96). -/
inductive PlateKind where
  | order
  | avoid
  | late
  | tail
deriving DecidableEq, Repr, Inhabited

/-- A plate record (R96). -/
structure Plate where
  number : Nat
  kind : PlateKind
  spec : Option Nat
  bank : BankId
  plannedStart : Nat
  plannedEnd : Nat
  leadStatus : BoundaryStatus
  trailStatus : BoundaryStatus
  trailSeq : Option Bool
  trailCaptured : Option Nat
  trailDeviation : Option Int
  actualStart : Nat
  actualEnd : Nat
  predicted : Grade
  finalGrade : Option Grade
  destination : Option Destination
  flawTotal : Nat
  uninspected : Bool
  fatal : Bool
  late : Bool
  overflow : Bool
deriving DecidableEq, Repr, Inhabited

/-- The start cut record (R99). -/
structure StartCut where
  position : Nat
  status : BoundaryStatus
  seq : Option Bool
  captured : Option Nat
  deviation : Option Int
deriving DecidableEq, Repr, Inhabited

/-- The trailing boundary (R98). -/
structure TrailingBoundary where
  status : BoundaryStatus
  actual : Nat
deriving DecidableEq, Repr, Inhabited

/-- The planner's wait state (R90). -/
inductive WaitState where
  | none
  | horizon
  | queue
  | schedule
deriving DecidableEq, Repr, Inhabited

/-- The Cut Planner's state with the plate queue (6.1). -/
structure Planner where
  cLast : Nat
  cursor : Nat
  nextPlate : Nat
  startCut : Option StartCut
  trailing : TrailingBoundary
  wait : WaitState
  complete : Bool
  queue : List Plate
deriving DecidableEq, Repr, Inhabited

/-- R85. -/
def Planner.reset : Planner where
  cLast := 0
  cursor := 0
  nextPlate := 1
  startCut := none
  trailing := ⟨.planned, 0⟩
  wait := .none
  complete := false
  queue := []

/-! ### Cutter Interface, Divert Unit, outputs, Grader (chapters 7 and 8) -/

/-- The outstanding cut (7.2). -/
structure Outstanding where
  plate : Nat
  c : Nat
  seq : Bool
deriving DecidableEq, Repr, Inhabited

/-- The pending cut (7.2). -/
structure PendingCut where
  plate : Nat
  c : Nat
deriving DecidableEq, Repr, Inhabited

/-- Outcome of a capture (7.2). -/
inductive CaptureOutcome where
  | confirmed
  | deviated
  | stale
deriving DecidableEq, Repr, Inhabited

/-- The last capture (7.2). -/
structure Capture where
  pc : Nat
  bit : Bool
  outcome : CaptureOutcome
deriving DecidableEq, Repr, Inhabited

/-- The Cutter Interface's state (7.2), with the level of CUT_ACK (R104). -/
structure Cutter where
  outstanding : Option Outstanding
  pendingCut : Option PendingCut
  seqLevel : Bool
  requestedHold : Bool
  faultHigh : Bool
  ackHigh : Bool
  lastCapture : Option Capture
deriving DecidableEq, Repr, Inhabited

/-- R103; the fault level and the level of CUT_ACK are the inputs' as the reset ends. -/
def Cutter.reset (fault ack : Bool) : Cutter where
  outstanding := none
  pendingCut := none
  seqLevel := false
  requestedHold := false
  faultHigh := fault
  ackHigh := ack
  lastCapture := none

/-- The Divert Unit's state (7.6). The last divert position is a whole number: actual start + `d_div` − `divert_lead` is
formed at a width at which it cannot overflow (00), and lies below zero for glass near the ribbon's zero (R113). -/
structure Divert where
  gate : Destination
  last : Option Int
deriving DecidableEq, Repr, Inhabited

/-- R113, R114. -/
def Divert.reset : Divert where
  gate := .reject
  last := none

/-- A graded plate whose DIVERT entry was refused (8.1). -/
structure DivertWait where
  plate : Nat
  fire : Nat
deriving DecidableEq, Repr, Inhabited

/-- The Grader's state (8.1). The grading point is computed (R119). -/
structure Grader where
  wait : Option DivertWait
  waitReported : Bool
  lastGraded : Option Nat
deriving DecidableEq, Repr, Inhabited

/-- R118. -/
def Grader.reset : Grader where
  wait := none
  waitReported := false
  lastGraded := none

/-- Owner of an output (R115). -/
inductive Owner where
  | function
  | manual
deriving DecidableEq, Repr, Inhabited

/-- The manual latch and the owner bit of an output (R115). -/
structure OutputControl where
  latch : Bool
  owner : Owner
deriving DecidableEq, Repr, Inhabited

/-- The six discrete outputs that have a latch and an owner (7.7). -/
structure Outputs where
  cutReq : OutputControl
  cutSeq : OutputControl
  div0 : OutputControl
  div1 : OutputControl
  reject : OutputControl
  alarm : OutputControl
deriving DecidableEq, Repr, Inhabited

/-- R115: at power-on every latch is 0 and every owner bit is MANUAL. -/
def Outputs.reset : Outputs :=
  ⟨⟨false, .manual⟩, ⟨false, .manual⟩, ⟨false, .manual⟩, ⟨false, .manual⟩, ⟨false, .manual⟩, ⟨false, .manual⟩⟩

/-! ### Table Store (chapter 9) -/

/-- One lane's entry of the LANE table (3.9, 4.9). -/
structure LaneEntry where
  pixelCount : Nat
  winLo : Nat
  winHi : Nat
  k : Nat
  g : Nat
  satLimit : Nat
  idleLines : Nat
  maxBlobLines : Nat
  x0 : Nat
  pitchUm : Nat
  ownLo : Nat
  ownHi : Nat
deriving DecidableEq, Repr, Inhabited

/-- A zone's thresholds in grey (3.9). -/
structure Threshold where
  td : Nat
  tb : Nat
deriving DecidableEq, Repr, Inhabited

/-- Polarity selector of a class rule (4.9). -/
inductive PolaritySelector where
  | dark
  | bright
  | either
deriving DecidableEq, Repr, Inhabited

/-- SAT selector of a class rule (4.9). -/
inductive SatSelector where
  | any
  | satOnly
  | noSat
deriving DecidableEq, Repr, Inhabited

/-- A class rule (4.9). -/
structure ClassRule where
  polarity : PolaritySelector
  lengthMin : Nat
  lengthMax : Nat
  widthMin : Nat
  widthMax : Nat
  peakMin : Nat
  sat : SatSelector
  code : Nat
  enable : Bool
deriving DecidableEq, Repr, Inhabited

/-- The tables of a DETECT bank (9.1): boundaries at lane · 15 + (z − 1), thresholds at lane · 16 + z. -/
structure DetectTables where
  lanes : PerLane LaneEntry
  boundaries : List Nat
  thresholds : List Threshold
  classes : List ClassRule
deriving DecidableEq, Repr, Inhabited

/-- The clamped zeros of a DETECT bank (R51, R68). -/
def DetectTables.powerOn : DetectTables where
  lanes := PerLane.all ⟨0, 0, 0, 2, 0, 0, 0, 1, 0, 10, 0, 0⟩
  boundaries := List.replicate 60 0
  thresholds := List.replicate 64 ⟨1, 1⟩
  classes := List.replicate 16 ⟨.dark, 0, 0, 0, 0, 0, .any, 0, false⟩

/-- Minimum grade of an order spec (6.2). -/
inductive MinGrade where
  | a
  | b
  | c
deriving DecidableEq, Repr, Inhabited

/-- An order spec (6.2). -/
structure OrderSpec where
  length : Nat
  minGrade : MinGrade
  enable : Bool
deriving DecidableEq, Repr, Inhabited

/-- A ranged zone, relative to `net_lo` (8.6). -/
structure Zone where
  lo : Nat
  hi : Nat
deriving DecidableEq, Repr, Inhabited

/-- The tables of a GRADE bank (9.1): limits at g · 64 + k · 4 + z, the divert table in the order of the final grades. -/
structure GradeTables where
  zones : List Zone
  limits : List Nat
  fatal : List Bool
  divert : List Destination
  specs : List OrderSpec
  avoidMargin : Nat
  minPiece : Nat
deriving DecidableEq, Repr, Inhabited

/-- The clamped zeros of a GRADE bank (R86, R124). -/
def GradeTables.powerOn : GradeTables where
  zones := List.replicate 3 ⟨0, 0⟩
  limits := List.replicate 192 0
  fatal := List.replicate 16 false
  divert := List.replicate 7 .stack0
  specs := List.replicate 8 ⟨1, .a, false⟩
  avoidMargin := 0
  minPiece := 1

/-- Bank states (9.2). -/
inductive BankState where
  | empty
  | loaded
  | active
  | committing
  | retiring
deriving DecidableEq, Repr, Inhabited

/-- A bank: its state and its tables. -/
structure Bank (α : Type) where
  state : BankState
  tables : α
deriving DecidableEq, Repr, Inhabited

/-- A table group: its two banks. -/
structure Group (α : Type) where
  bank0 : Bank α
  bank1 : Bank α
deriving DecidableEq, Repr, Inhabited

/-- The setup parameters (9.7). -/
structure Setup where
  countNm : Nat
  linePitch : Nat
  startOffset : Nat
  dCut : Nat
  cutLead : Nat
  confirmWindow : Nat
  cutTolerance : Nat
  dDiv : Nat
  divertLead : Nat
  netLo : Nat
  netHi : Nat
  stallMs : Nat
  silentMs : Nat
  reseedMs : Nat
  shiftPeriodS : Nat
  delegGantry : Nat
  delegLocal : Nat
deriving DecidableEq, Repr, Inhabited

/-- The power-on values of 9.7. -/
def Setup.powerOn : Setup where
  countNm := 20000
  linePitch := 5
  startOffset := 1000
  dCut := 50000
  cutLead := 400
  confirmWindow := 500
  cutTolerance := 100
  dDiv := 150000
  divertLead := 1000
  netLo := 0
  netHi := 8000000
  stallMs := 500
  silentMs := 50
  reseedMs := 2000
  shiftPeriodS := 0
  delegGantry := 0
  delegLocal := 0

/-- The Table Store (9.2). The shadow and the binding counts are computed (R132, R140, R141); the line bindings stand in
the lanes. -/
structure TableStore where
  detect : Group DetectTables
  grade : Group GradeTables
  tSw : Option Nat
  setup : Setup
deriving DecidableEq, Repr, Inhabited

/-- R132, R142: both banks of both groups EMPTY with clamped zeros, T_sw absent, setup at its power-on values. -/
def TableStore.powerOn : TableStore where
  detect := ⟨⟨.empty, DetectTables.powerOn⟩, ⟨.empty, DetectTables.powerOn⟩⟩
  grade := ⟨⟨.empty, GradeTables.powerOn⟩, ⟨.empty, GradeTables.powerOn⟩⟩
  tSw := none
  setup := Setup.powerOn

/-! ### Condition Unit (chapter 10) -/

/-- The seventeen condition kinds, in the order of their codes (10.1). -/
inductive CondKind where
  | laneSilent
  | laneSequence
  | laneStale
  | laneSaturated
  | runOverflow
  | blobTableFull
  | flawMapFull
  | encoderReverse
  | ribbonStalled
  | planLate
  | scheduleFull
  | cutMissed
  | cutDeviation
  | confirmStale
  | divertLate
  | cutterFault
  | trunkOverrun
deriving DecidableEq, Repr, Inhabited

/-- The levels that hold a record (10.2). -/
inductive CondLevel where
  | gantry
  | line
deriving DecidableEq, Repr, Inhabited

/-- A condition record (10.2). -/
structure CondRecord where
  kind : CondKind
  level : CondLevel
  lane : Option LaneId
  position : Nat
  time : Nat
  detail1 : Nat
  detail2 : Nat
  further : Nat
  escalated : Bool
deriving DecidableEq, Repr, Inhabited

/-- The Condition Unit (10.2); the delegation masks are setup parameters. -/
structure ConditionUnit where
  gantry : Option CondRecord
  line : Option CondRecord
  counters : List Nat
deriving DecidableEq, Repr, Inhabited

/-- R145. -/
def ConditionUnit.reset : ConditionUnit where
  gantry := none
  line := none
  counters := List.replicate 17 0

/-! ### Report Unit (chapter 11) -/

/-- What opened a report (11.1). -/
inductive OpenCause where
  | powerOn
  | request
  | timer
  | reset
deriving DecidableEq, Repr, Inhabited

/-- What closed a report (11.1). -/
inductive CloseCause where
  | request
  | timer
  | reset
deriving DecidableEq, Repr, Inhabited

/-- A report (11.1). -/
structure Report where
  shift : Nat
  openedBy : OpenCause
  closedBy : Option CloseCause
  openP : Nat
  closeP : Option Nat
  openMs : Nat
  closeMs : Option Nat
  linesInspected : PerLane Nat
  behindHorizon : Nat
  runsOverflowed : Nat
  blobsRefused : Nat
  overlapDrops : Nat
  edgeDrops : Nat
  noiseDrops : Nat
  beforePlan : Nat
  flawsByClass : List Nat
  platesByGrade : List Nat
  lengthByGrade : List Nat
  cutsRequested : Nat
  cutsConfirmed : Nat
  cutsDeviated : Nat
  cutsMissed : Nat
  cutsSkipped : Nat
  staleConfirms : Nat
  conditions : List Nat
  gapLength : PerLane Nat
  overwrote : Bool
deriving DecidableEq, Repr, Inhabited

/-- A report as it opens (R157, R160 step 5). -/
def Report.opened (shift : Nat) (by_ : OpenCause) (openP openMs : Nat) : Report where
  shift := shift
  openedBy := by_
  closedBy := none
  openP := openP
  closeP := none
  openMs := openMs
  closeMs := none
  linesInspected := PerLane.all 0
  behindHorizon := 0
  runsOverflowed := 0
  blobsRefused := 0
  overlapDrops := 0
  edgeDrops := 0
  noiseDrops := 0
  beforePlan := 0
  flawsByClass := List.replicate 16 0
  platesByGrade := List.replicate 7 0
  lengthByGrade := List.replicate 7 0
  cutsRequested := 0
  cutsConfirmed := 0
  cutsDeviated := 0
  cutsMissed := 0
  cutsSkipped := 0
  staleConfirms := 0
  conditions := List.replicate 17 0
  gapLength := PerLane.all 0
  overwrote := false

/-- The Report Unit (11.1). -/
structure ReportUnit where
  current : Report
  closed : Option Report
  unread : Bool
  shiftTimer : Nat
  secondPhase : Nat
deriving DecidableEq, Repr, Inhabited

/-- R157 at power-on: shift 0 open, the closed slot empty, the timer standing at 0. -/
def ReportUnit.powerOn : ReportUnit where
  current := Report.opened 0 .powerOn 0 0
  closed := none
  unread := false
  shiftTimer := 0
  secondPhase := 0

/-! ### Trunk Interface (chapter 12) -/

/-- Run states (12.6). -/
inductive RunState where
  | standby
  | inspect
  | stopping
deriving DecidableEq, Repr, Inhabited

/-- Response statuses (R169, coded in R177's header table). -/
inductive Status where
  | ok
  | malformed
  | notNow
  | invalid
  | busy
deriving DecidableEq, Repr, Inhabited

/-- The reset a STARTED record names (R175). -/
inductive ResetKind where
  | powerOn
  | soft
deriving DecidableEq, Repr, Inhabited

/-- Records of the urgent queue (R171). A PLATE record carries the plate and its sixteen class sums (R128). -/
inductive Urgent where
  | response (tag kind : Byte) (status : Status) (body : List Byte)
  | cond (r : CondRecord)
  | plate (p : Plate) (classSums : List Nat)
  | report (r : Report)
  | headReply (lane : LaneId) (body : List Byte)
  | started (kind : ResetKind) (time discarded : Nat)
deriving DecidableEq, Repr, Inhabited

/-- What the transmitter can be sending (R172). -/
inductive Outbound where
  | urgent (r : Urgent)
  | flaw (r : FlawRecord)
  | line (l : ForwardLine)
deriving DecidableEq, Repr, Inhabited

/-- The Trunk Interface (12.1). -/
structure Trunk where
  run : RunState
  stopEnd : Option Nat
  link : LinkState
  requests : List Request
  executing : Option Request
  urgent : List Urgent
  flaws : List FlawRecord
  lastLane : LaneId
  sending : Option Outbound
  crcErrors : Nat
  badFrames : Nat
  headDrops : Nat
  flawDrops : Nat
  urgentDrops : Nat
  sendAborts : Nat
deriving DecidableEq, Repr, Inhabited

/-- R165, with the records that the reset queues (R175); the link state is not the reset's to change. -/
def Trunk.reset (link : LinkState) (urgent : List Urgent) : Trunk where
  run := .standby
  stopEnd := none
  link := link
  requests := []
  executing := none
  urgent := urgent
  flaws := []
  lastLane := 3
  sending := none
  crcErrors := 0
  badFrames := 0
  headDrops := 0
  flawDrops := 0
  urgentDrops := 0
  sendAborts := 0

end Sys2Proof.Machine

namespace Sys2Proof.Machine

/-- The whole part, and the queue of commands that wait (first in, first out). -/
structure State where
  pos : PositionUnit
  pulses : Pulses
  lanes : PerLane Lane
  flawId : Nat
  map : FlawMap
  plan : Planner
  cutter : Cutter
  divert : Divert
  grader : Grader
  outputs : Outputs
  store : TableStore
  cond : ConditionUnit
  report : ReportUnit
  trunk : Trunk
  msTime : Nat
  pending : List Instr
deriving DecidableEq, Repr

/-- Why the part stops: never. The spec gives the part no fault; what goes wrong is a condition, a counter or a response
status. The type has no constructor, so no step can fault (safe). -/
inductive Fault where
deriving DecidableEq, Repr

/-- Why the model gives a command no meaning. -/
inductive Refusal where
  /-- The command has no meaning in the model yet. Raised by `exec` alone; every command has its meaning, so none raises
  it. Safe: the model stops where the part goes on. -/
  | notModelled (mnemonic : String)
deriving DecidableEq, Repr

/-- The part after a power-on reset (R175, R1, R19, R37, R52, R73, R85, R103, R113 to R115, R118, R132, R142, R145,
R157, R165) with one STARTED record queued; the inputs low and the links DOWN until they are reported (log entry 8). -/
def State.reset : State where
  pos := PositionUnit.reset false false
  pulses := ⟨0, 0⟩
  lanes := PerLane.all (Lane.reset .down none)
  flawId := 0
  map := FlawMap.reset
  plan := Planner.reset
  cutter := Cutter.reset false false
  divert := Divert.reset
  grader := Grader.reset
  outputs := Outputs.reset
  store := TableStore.powerOn
  cond := ConditionUnit.reset
  report := ReportUnit.powerOn
  trunk := Trunk.reset .down [.started .powerOn 0 0]
  msTime := 0
  pending := []

/-! One setter for each component of State: every operation changes the state through these. -/

/-- The state with the Position Unit replaced. -/
def State.withPos (s : State) (x : PositionUnit) : State := { s with pos := x }
/-- The state with the pulse counts replaced. -/
def State.withPulses (s : State) (x : Pulses) : State := { s with pulses := x }
/-- The state with the lanes replaced. -/
def State.withLanes (s : State) (x : PerLane Lane) : State := { s with lanes := x }
/-- The state with the flaw id counter replaced. -/
def State.withFlawId (s : State) (x : Nat) : State := { s with flawId := x }
/-- The state with the Flaw Map replaced. -/
def State.withMap (s : State) (x : FlawMap) : State := { s with map := x }
/-- The state with the Cut Planner replaced. -/
def State.withPlan (s : State) (x : Planner) : State := { s with plan := x }
/-- The state with the Cutter Interface replaced. -/
def State.withCutter (s : State) (x : Cutter) : State := { s with cutter := x }
/-- The state with the Divert Unit replaced. -/
def State.withDivert (s : State) (x : Divert) : State := { s with divert := x }
/-- The state with the Grader replaced. -/
def State.withGrader (s : State) (x : Grader) : State := { s with grader := x }
/-- The state with the output controls replaced. -/
def State.withOutputs (s : State) (x : Outputs) : State := { s with outputs := x }
/-- The state with the Table Store replaced. -/
def State.withStore (s : State) (x : TableStore) : State := { s with store := x }
/-- The state with the Condition Unit replaced. -/
def State.withCond (s : State) (x : ConditionUnit) : State := { s with cond := x }
/-- The state with the Report Unit replaced. -/
def State.withReport (s : State) (x : ReportUnit) : State := { s with report := x }
/-- The state with the Trunk Interface replaced. -/
def State.withTrunk (s : State) (x : Trunk) : State := { s with trunk := x }
/-- The state with the millisecond time replaced. -/
def State.withMsTime (s : State) (x : Nat) : State := { s with msTime := x }
/-- The state with the command queue replaced. -/
def State.withPending (s : State) (x : List Instr) : State := { s with pending := x }

end Sys2Proof.Machine
end

