-- ==== Sys2Proof/Machine/Bits.lean ====
section
/-! DEFINITION. Bytes and bits of frames (R166, R177): numbers low byte first, the CRC, presence bytes, packed pixels; and
how a 48-bit field holds a sum or a difference. -/

namespace Sys2Proof.Machine

/-- A sum put into a 48-bit position field. Where it is 2^48 or more the spec states no result: a free value (log entry
7). -/
def heldSum (v : Nat) : Nat :=
  if v < Config.positionRange then v else Config.positionAbove v % Config.positionRange

/-- A whole number put into a 48-bit position field. Where it is below zero, or 2^48 or more, the spec states no result: a
free value (log entry 7). -/
def heldInt (z : Int) : Nat :=
  if 0 ≤ z then heldSum z.toNat else Config.positionBelow (-z).toNat % Config.positionRange

/-- The difference a − b put into a 48-bit position field (log entry 7). -/
def heldDiff (a b : Nat) : Nat := heldInt ((a : Int) - b)

/-- The low 32 bits of a whole number, in two's complement where it is below zero (log entry 7). -/
def low32Int (z : Int) : Nat := (z % 2 ^ 32).toNat

/-- A number in `n` bytes, low byte first (R177). -/
def leBytes : Nat → Nat → List Byte
  | 0, _ => []
  | n + 1, v => BitVec.ofNat 8 v :: leBytes n (v / 256)

/-- The number that bytes spell, low byte first (R177). -/
def ofLE : List Byte → Nat
  | [] => 0
  | b :: bs => b.toNat + 256 * ofLE bs

/-- A signed number in `n` bytes, two's complement, low byte first (R177). -/
def leBytesInt (n : Nat) (z : Int) : List Byte := leBytes n (z % ((256 : Int) ^ n)).toNat

/-- One byte (R177: codes and small numbers). -/
def byte (v : Nat) : List Byte := leBytes 1 v

/-- A two-valued mark in one byte, 1 for set (log entry 9). -/
def flag (b : Bool) : List Byte := byte (if b then 1 else 0)

/-- An optional field (R177): a presence byte, then the value's bytes, all 0 when it is absent. `n` is the value's
length. -/
def optBytes {α : Type} (n : Nat) (enc : α → List Byte) : Option α → List Byte
  | none => List.replicate (n + 1) 0
  | some a => 1 :: enc a

/-- One bit step of the CRC with generator x^16 + x^12 + x^5 + 1, most significant bit first (R166). -/
def crcShift (c : BitVec 16) : BitVec 16 :=
  if c.msb then (c <<< 1) ^^^ 0x1021#16 else c <<< 1

/-- The CRC carried over one byte (R166). -/
def crcByte (c : BitVec 16) (b : Byte) : BitVec 16 :=
  crcShift (crcShift (crcShift (crcShift (crcShift (crcShift (crcShift (crcShift
    (c ^^^ ((b.setWidth 16) <<< 8)))))))))

/-- The CRC of a string of bytes, starting value 65535, no final inversion (R166). -/
def crc16 (bytes : List Byte) : BitVec 16 := bytes.foldl crcByte 0xFFFF#16

/-- The bytes the CRC of a frame covers: type, length and body (R166). -/
def crcCover (ftype : Byte) (len : BitVec 16) (body : List Byte) : List Byte :=
  ftype :: leBytes 2 len.toNat ++ body

/-- The frame's CRC holds (R166). -/
def crcHolds (f : Frame) : Bool := crc16 (crcCover f.ftype f.len f.body) == f.crc

/-- The bytes of a frame in the order in which it is sent (R166): the type byte, the length low byte first (R177), the body,
the CRC low byte first. -/
def frameBytes (f : Frame) : List Byte := crcCover f.ftype f.len f.body ++ leBytes 2 f.crc.toNat

/-- The frame that bytes spell in that order (R166), where they are as many as its length says; none where they are not. -/
def frameOfBytes? : List Byte → Option Frame
  | t :: l0 :: l1 :: rest =>
    let n := ofLE [l0, l1]
    if rest.length = n + 2 then
      some ⟨t, BitVec.ofNat 16 n, rest.take n, BitVec.ofNat 16 (ofLE (rest.drop n))⟩
    else none
  | _ => none

/-- A frame of the given type and body, with its length and CRC (R166). MODEL'S CHOICE (log entry 27): a body of 65536 bytes
or more does not fit the two bytes of the length field, and the spec gives no such frame; the field then holds the length
modulo 2^16. -/
def frameOf (ftype : Nat) (body : List Byte) : Frame :=
  let t : Byte := BitVec.ofNat 8 ftype
  let l : BitVec 16 := BitVec.ofNat 16 body.length
  ⟨t, l, body, crc16 (crcCover t l body)⟩

/-- The four 10-bit pixels of one group of five bytes (R177). -/
def groupPixels (v : Nat) : List Nat :=
  [v % 1024, v / 1024 % 1024, v / 1024 ^ 2 % 1024, v / 1024 ^ 3 % 1024]

/-- The pixels of a payload, four from each five bytes (R177). -/
def unpackPixels : List Byte → List Nat
  | a :: b :: c :: d :: e :: rest => groupPixels (ofLE [a, b, c, d, e]) ++ unpackPixels rest
  | _ => []

/-- A LINE frame as the receiver reads it (R177, "LINE frame body"). -/
structure Line where
  trigger : Nat
  pixelCount : Nat
  flags : Byte
  payload : List Byte
deriving DecidableEq, Repr, Inhabited

/-- ILLUM_OK is the lowest head flag (R177). -/
def Line.illumOk (l : Line) : Bool := l.flags.getLsbD 0

/-- The line's pixels in column order. -/
def Line.pixels (l : Line) : List Nat := unpackPixels l.payload

/-- Reads a LINE frame, none where the frame fails a check of R20 that needs no bank: its CRC fails, or its payload is not
five bytes for every four pixels. A body too short for its header, or not as long as its length field, has no such payload
(log entry 17). -/
def parseLine (f : Frame) : Option Line :=
  match f.body with
  | t0 :: t1 :: n0 :: n1 :: flags :: payload =>
    let count := ofLE [n0, n1]
    if crcHolds f && f.body.length == f.len.toNat && count % 4 == 0 && payload.length == 5 * (count / 4) then
      some ⟨ofLE [t0, t1], count, flags, payload⟩
    else none
  | _ => none

end Sys2Proof.Machine
end

