-- ==== Sys2Proof/Machine/Codes.lean ====
section
/-! DEFINITION. The codes of named values: each counts from 0 in the order its rule or table lists the values (R169, R177),
unless the rule gives its own codes. -/

namespace Sys2Proof.Machine

/-- Condition kinds, codes 1 to 17 (10.1, R148). -/
def CondKind.code : CondKind → Nat
  | .laneSilent => 1
  | .laneSequence => 2
  | .laneStale => 3
  | .laneSaturated => 4
  | .runOverflow => 5
  | .blobTableFull => 6
  | .flawMapFull => 7
  | .encoderReverse => 8
  | .ribbonStalled => 9
  | .planLate => 10
  | .scheduleFull => 11
  | .cutMissed => 12
  | .cutDeviation => 13
  | .confirmStale => 14
  | .divertLate => 15
  | .cutterFault => 16
  | .trunkOverrun => 17

/-- The levels GANTRY, LINE (10.2). -/
def CondLevel.code : CondLevel → Nat
  | .gantry => 0
  | .line => 1

/-- Statuses (R177): OK 0, MALFORMED 1, NOT_NOW 2, INVALID 3, BUSY 4. -/
def Status.code : Status → Nat
  | .ok => 0
  | .malformed => 1
  | .notNow => 2
  | .invalid => 3
  | .busy => 4

/-- Grades (R177): A 0 to SKIPPED 6, FATAL 7. -/
def Grade.code : Grade → Nat
  | .a => 0
  | .b => 1
  | .c => 2
  | .reject => 3
  | .uninspected => 4
  | .cullet => 5
  | .skipped => 6
  | .fatal => 7

/-- Boundary statuses (R177): PLANNED 0 to SKIPPED 6. -/
def BoundaryStatus.code : BoundaryStatus → Nat
  | .planned => 0
  | .pending => 1
  | .requested => 2
  | .confirmed => 3
  | .deviated => 4
  | .missed => 5
  | .skipped => 6

/-- Plate kinds (R177): ORDER 0, CULLET AVOID 1, LATE 2, TAIL 3. -/
def PlateKind.code : PlateKind → Nat
  | .order => 0
  | .avoid => 1
  | .late => 2
  | .tail => 3

/-- Destinations (R124, R177): STACK0 to STACK3 as 0 to 3, REJECT 4. -/
def Destination.code : Destination → Nat
  | .stack0 => 0
  | .stack1 => 1
  | .stack2 => 2
  | .stack3 => 3
  | .reject => 4

/-- The destination of a written code; a code above 4 is REJECT (R124). -/
def Destination.ofCode (v : Nat) : Destination :=
  match v with
  | 0 => .stack0
  | 1 => .stack1
  | 2 => .stack2
  | 3 => .stack3
  | _ => .reject

/-- Minimum grades (R86): A 0, B 1, C 2. -/
def MinGrade.code : MinGrade → Nat
  | .a => 0
  | .b => 1
  | .c => 2

/-- The minimum grade of a written code; a code above 2 is C (R86). -/
def MinGrade.ofCode (v : Nat) : MinGrade :=
  match v with
  | 0 => .a
  | 1 => .b
  | _ => .c

/-- Polarity selectors (R68): DARK, BRIGHT, EITHER. -/
def PolaritySelector.code : PolaritySelector → Nat
  | .dark => 0
  | .bright => 1
  | .either => 2

/-- The polarity selector of a written code; beyond the last it is EITHER (R68). -/
def PolaritySelector.ofCode (v : Nat) : PolaritySelector :=
  match v with
  | 0 => .dark
  | 1 => .bright
  | _ => .either

/-- SAT selectors (R68): ANY, SAT_ONLY, NO_SAT. -/
def SatSelector.code : SatSelector → Nat
  | .any => 0
  | .satOnly => 1
  | .noSat => 2

/-- The SAT selector of a written code; beyond the last it is NO_SAT (R68). -/
def SatSelector.ofCode (v : Nat) : SatSelector :=
  match v with
  | 0 => .any
  | 1 => .satOnly
  | _ => .noSat

/-- Polarities (R177): DARK 0, BRIGHT 1. -/
def Polarity.code : Polarity → Nat
  | .dark => 0
  | .bright => 1

/-- Bank states, in the order of the range that the state table of 9.2 gives. MODEL'S CHOICE (log entry 9): the table of
meanings in 9.2 lists COMMITTING before ACTIVE. -/
def BankState.code : BankState → Nat
  | .empty => 0
  | .loaded => 1
  | .active => 2
  | .committing => 3
  | .retiring => 4

/-- Lane states, in the order of 2.1. -/
def LaneState.code : LaneState → Nat
  | .disabled => 0
  | .idle => 1
  | .waiting => 2
  | .running => 3
  | .silent => 4

/-- Forward modes OFF, ALL, HITS (2.1). -/
def ForwardMode.code : ForwardMode → Nat
  | .off => 0
  | .all => 1
  | .hits => 2

/-- The forward mode of a request's code; none for an unknown mode (R33). -/
def ForwardMode.ofCode? (v : Nat) : Option ForwardMode :=
  match v with
  | 0 => some .off
  | 1 => some .all
  | 2 => some .hits
  | _ => none

/-- Link states UP, DOWN (12.1). -/
def LinkState.code : LinkState → Nat
  | .up => 0
  | .down => 1

/-- Run states STANDBY, INSPECT, STOPPING (12.1). -/
def RunState.code : RunState → Nat
  | .standby => 0
  | .inspect => 1
  | .stopping => 2

/-- Wait states NONE, HORIZON, QUEUE, SCHEDULE (6.1). -/
def WaitState.code : WaitState → Nat
  | .none => 0
  | .horizon => 1
  | .queue => 2
  | .schedule => 3

/-- Capture outcomes CONFIRMED, DEVIATED, STALE (7.2). -/
def CaptureOutcome.code : CaptureOutcome → Nat
  | .confirmed => 0
  | .deviated => 1
  | .stale => 2

/-- Owners (R116): FUNCTION 0, MANUAL 1. -/
def Owner.code : Owner → Nat
  | .function => 0
  | .manual => 1

/-- What opened a report: POWER_ON, REQUEST, TIMER, RESET (11.1). -/
def OpenCause.code : OpenCause → Nat
  | .powerOn => 0
  | .request => 1
  | .timer => 2
  | .reset => 3

/-- What closed a report: REQUEST, TIMER, RESET (11.1). -/
def CloseCause.code : CloseCause → Nat
  | .request => 0
  | .timer => 1
  | .reset => 2

/-- The cause that opens the next report is the one that closed the last (R160). -/
def CloseCause.opens : CloseCause → OpenCause
  | .request => .request
  | .timer => .timer
  | .reset => .reset

/-- The reset kind of a STARTED record: POWER_ON 0, SOFT 1 (R175). -/
def ResetKind.code : ResetKind → Nat
  | .powerOn => 0
  | .soft => 1

/-- Type bytes of the urgent records (R177): RESPONSE 1 to STARTED 6. -/
def Urgent.typeCode : Urgent → Nat
  | .response _ _ _ _ => 1
  | .cond _ => 2
  | .plate _ _ => 3
  | .report _ => 4
  | .headReply _ _ => 5
  | .started _ _ _ => 6

end Sys2Proof.Machine
end

