-- ==== Sys2Proof/Machine/Ops.lean ====
section
/-! DEFINITION. The operations every block uses: access to a lane, counting into the current report, handing a record to
the urgent queue, and raising a condition (chapters 10 to 12). -/

namespace Sys2Proof.Machine

/-! ### Lanes -/

/-- One lane of the part. -/
def State.lane (s : State) (i : LaneId) : Lane := s.lanes.get i

/-- One lane's receiver. -/
def State.rx (s : State) (i : LaneId) : Receiver := (s.lane i).rx

/-- The state with one lane replaced. -/
def State.setLane (s : State) (i : LaneId) (l : Lane) : State := s.withLanes (s.lanes.set i l)

/-- The state with one lane's receiver changed. -/
def State.modRx (s : State) (i : LaneId) (f : Receiver → Receiver) : State :=
  s.setLane i { s.lane i with rx := f (s.rx i) }

/-- The state with one lane's tracker replaced. -/
def State.setTracker (s : State) (i : LaneId) (t : Tracker) : State := s.setLane i { s.lane i with tracker := t }

/-- The state with one lane's background profile replaced. -/
def State.setProfile (s : State) (i : LaneId) (p : List Column) : State := s.setLane i { s.lane i with profile := p }

/-- The setup parameters in force (9.7). -/
abbrev State.setup (s : State) : Setup := s.store.setup

/-! ### Counting (chapter 11) -/

/-- One more on a 32-bit saturating counter. -/
def bump32 (n : Nat) : Nat := satAdd Config.max32 n 1

/-- A number added to one cell of a list of saturating counters. -/
def addAt (limit i n : Nat) (xs : List Nat) : List Nat := xs.set i (satAdd limit (xs.getD i 0) n)

/-- The current report changed (R158: each count goes to the report that is current). -/
def State.count (s : State) (f : Report → Report) : State :=
  s.withReport { s.report with current := f s.report.current }

/-- A lane's gap length for the glass [start, stop), clipped to the current shift (R159). -/
def State.countGap (s : State) (i : LaneId) (start stop : Nat) : State :=
  s.count fun r => { r with
    gapLength := r.gapLength.set i (satAdd Config.max32 (r.gapLength.get i) (stop - max start r.openP)) }

/-! ### The urgent queue (R171) -/

/-- The detail2 of TRUNK_OVERRUN for a dropped record (R171). -/
def Urgent.overrunDetail : Urgent → Nat
  | .response tag _ _ _ => tag.toNat
  | .cond r => r.kind.code
  | .plate p _ => p.number
  | .report r => r.shift
  | .headReply lane _ => lane.val
  | .started _ _ _ => 0

/-- A record handed to the urgent queue: it joins the end, or is dropped and counted at a full queue (R171). The answer
says whether it was dropped. -/
def handUrgent (r : Urgent) (s : State) : State × Bool :=
  if s.trunk.urgent.length < Config.urgentSlots then
    (s.withTrunk { s.trunk with urgent := s.trunk.urgent ++ [r] }, false)
  else
    (s.withTrunk { s.trunk with urgentDrops := bump32 s.trunk.urgentDrops }, true)

/-! ### Conditions (chapter 10) -/

/-- Where the masks send a raise (R149). -/
inductive Route where
  | localOnly
  | gantry
  | line
deriving DecidableEq, Repr, Inhabited

/-- The level of a kind by its bit in each mask (R149). -/
def routeOf (p : Setup) (k : CondKind) : Route :=
  if !p.delegGantry.testBit (k.code - 1) then .line
  else if p.delegLocal.testBit (k.code - 1) then .localOnly
  else .gantry

/-- A later raise counted against a record that stands (R150, R151). -/
def CondRecord.addFurther (r : CondRecord) : CondRecord := { r with further := satAdd 255 r.further 1 }

/-- A record as it is filled from a raise (R150): P and the millisecond time as they stand. -/
def condRecord (s : State) (k : CondKind) (lane : Option LaneId) (d1 d2 : Nat) (level : CondLevel) (escalated : Bool) :
    CondRecord :=
  ⟨k, level, lane, s.pos.p, s.msTime, d1, d2, 0, escalated⟩

/-- A raise handled at LINE (R151): it fills a vacant record and sends its notice, or counts against the record that
stands. The answer says whether a notice was dropped. -/
def handleLine (k : CondKind) (lane : Option LaneId) (d1 d2 : Nat) (escalated : Bool) (s : State) : State × Bool :=
  match s.cond.line with
  | none =>
    let r := condRecord s k lane d1 d2 .line escalated
    handUrgent (.cond r) (s.withCond { s.cond with line := some r })
  | some r => (s.withCond { s.cond with line := some r.addFurther }, false)

/-- A raise routed to GANTRY (R150): it fills a vacant record and sends its notice, or counts against the record that
stands and escalates to LINE. -/
def handleGantry (k : CondKind) (lane : Option LaneId) (d1 d2 : Nat) (s : State) : State × Bool :=
  match s.cond.gantry with
  | none =>
    let r := condRecord s k lane d1 d2 .gantry false
    handUrgent (.cond r) (s.withCond { s.cond with gantry := some r })
  | some r => handleLine k lane d1 d2 true (s.withCond { s.cond with gantry := some r.addFurther })

/-- Steps 1 and 2 of a raise: the per-kind counter and the current report's count (R146, R147). -/
def countRaise (k : CondKind) (s : State) : State :=
  (s.withCond { s.cond with counters := addAt 65535 (k.code - 1) 1 s.cond.counters }).count fun r =>
    { r with conditions := addAt 65535 (k.code - 1) 1 r.conditions }

/-- One raise, handled whole in the order of R146. The answer says whether its COND notice was dropped. -/
def raiseOnce (k : CondKind) (lane : Option LaneId) (d1 d2 : Nat) (s : State) : State × Bool :=
  let s1 := countRaise k s
  match routeOf s.setup k with
  | .localOnly => (s1, false)
  | .gantry => handleGantry k lane d1 d2 s1
  | .line => handleLine k lane d1 d2 false s1

/-- A raise, and after it is complete the TRUNK_OVERRUN of a notice it dropped at a full urgent queue (R146, R152); a
dropped notice of kind TRUNK_OVERRUN raises nothing further. -/
def raise (k : CondKind) (lane : Option LaneId) (d1 d2 : Nat) (s : State) : State :=
  let r := raiseOnce k lane d1 d2 s
  if r.2 && k != .trunkOverrun then (raiseOnce .trunkOverrun none 2 k.code r.1).1 else r.1

/-- TRUNK_OVERRUN for a record dropped at a full urgent queue (R171). -/
def raiseOverrun (r : Urgent) (s : State) : State := raise .trunkOverrun none r.typeCode r.overrunDetail s

/-- A record handed to the urgent queue by a handling that ends with it: a drop raises TRUNK_OVERRUN at once (R171). -/
def handRecord (r : Urgent) (s : State) : State :=
  let h := handUrgent r s
  if h.2 then raiseOverrun r h.1 else h.1

/-! ### The trunk arbiter (R172) -/

/-- The lane whose forward slot the arbiter takes: the first that is not empty, from the lane after the last served
(R172). -/
def nextForward (s : State) : Option (LaneId × ForwardLine) :=
  let try_ (i : LaneId) (rest : Option (LaneId × ForwardLine)) : Option (LaneId × ForwardLine) :=
    match (s.rx i).slot with
    | some l => some (i, l)
    | none => rest
  let l := s.trunk.lastLane
  try_ (l + 1) (try_ (l + 2) (try_ (l + 3) (try_ l none)))

/-- The arbiter's take (R172): while the link is UP and nothing is sending, the oldest urgent record, else the oldest FLAW
record, else a forwarded line. Every command ends with it (log entry 5). -/
def arbiter (s : State) : State :=
  if s.trunk.link == .up && s.trunk.sending.isNone then
    match s.trunk.urgent with
    | r :: rest => s.withTrunk { s.trunk with urgent := rest, sending := some (.urgent r) }
    | [] =>
      match s.trunk.flaws with
      | r :: rest => s.withTrunk { s.trunk with flaws := rest, sending := some (.flaw r) }
      | [] =>
        match nextForward s with
        | some (i, l) =>
          (s.modRx i fun x => { x with slot := none }).withTrunk
            { s.trunk with lastLane := i, sending := some (.line l) }
        | none => s
  else s

/-- A command's outcome: the next state, once the arbiter has taken what it can. -/
def done (s : State) : Host.Outcome State Fault Refusal := .next (arbiter s)

/-! ### The millisecond time (00) -/

/-- The 32-bit millisecond counter after one more millisecond; it wraps. -/
def nextMs (t : Nat) : Nat := (t + 1) % 2 ^ 32

end Sys2Proof.Machine
end

