-- ==== Sys2Proof/Machine/Banks.lean ====
section
/-! DEFINITION. Bank states, switches, bindings and retiring (9.2, R132, R136 to R141). -/

namespace Sys2Proof.Machine

/-! ### Banks of a group -/

/-- One bank of a group. -/
def Group.get {α : Type} (g : Group α) (b : BankId) : Bank α :=
  match b with
  | 0 => g.bank0
  | 1 => g.bank1

/-- The group with one bank replaced. -/
def Group.set {α : Type} (g : Group α) (b : BankId) (x : Bank α) : Group α :=
  match b with
  | 0 => { g with bank0 := x }
  | 1 => { g with bank1 := x }

/-- The other bank. -/
def otherBank (b : BankId) : BankId :=
  match b with
  | 0 => 1
  | 1 => 0

/-- The bank in a given state: bank 0 first. -/
def Group.find {α : Type} (g : Group α) (st : BankState) : Option BankId :=
  if g.bank0.state == st then some 0 else if g.bank1.state == st then some 1 else none

/-- The ACTIVE bank of a group (R139: never more than one). -/
def Group.active {α : Type} (g : Group α) : Option BankId := g.find .active

/-- The shadow: the bank that is not ACTIVE, bank 0 when neither is (R132). -/
def Group.shadow {α : Type} (g : Group α) : BankId := if g.bank0.state == .active then 1 else 0

/-- The tables of the ACTIVE bank; those of bank 0 where neither is ACTIVE, which no running part sees (log entry 18). -/
def Group.activeTables {α : Type} (g : Group α) : α := (g.get (g.active.getD 0)).tables

/-- The group with one bank's state replaced. -/
def Group.setState {α : Type} (g : Group α) (b : BankId) (st : BankState) : Group α :=
  g.set b { g.get b with state := st }

/-- The state with the DETECT group replaced. -/
def State.withDetect (s : State) (g : Group DetectTables) : State := s.withStore { s.store with detect := g }

/-- The state with the GRADE group replaced. -/
def State.withGrade (s : State) (g : Group GradeTables) : State := s.withStore { s.store with grade := g }

/-! ### Bindings (R140, R141) -/

/-- Whether a slot is an OPEN blob tagged with the bank. -/
def Slot.tagged (b : BankId) : Slot → Bool
  | .blob x => x.tag == b
  | .free => false
  | .continuation _ => false

/-- The binding count of a DETECT bank (R140): OPEN slots tagged with it, and lanes that hold a line binding on it. -/
def detectBindings (s : State) (b : BankId) : Nat :=
  (laneIds.map fun i => (s.lane i).tracker.slots.countP (Slot.tagged b)).sum
    + laneIds.countP fun i => (s.rx i).lineBinding == some b

/-- The binding count of a GRADE bank (R141): plates in the queue bound to it and not yet graded. -/
def gradeBindings (s : State) (b : BankId) : Nat :=
  s.plan.queue.countP fun p => p.bank == b && p.finalGrade.isNone

/-- A RETIRING DETECT bank whose count is 0 becomes LOADED, and T_sw becomes absent (R141). Every release of a binding
ends with it. -/
def settleDetect (s : State) : State :=
  match s.store.detect.find .retiring with
  | some b =>
    if detectBindings s b == 0 then
      s.withStore { s.store with detect := s.store.detect.setState b .loaded, tSw := none }
    else s
  | none => s

/-- A RETIRING GRADE bank whose count is 0 becomes LOADED (R141). -/
def settleGrade (s : State) : State :=
  match s.store.grade.find .retiring with
  | some b => if gradeBindings s b == 0 then s.withGrade (s.store.grade.setState b .loaded) else s
  | none => s

/-- A lane releases its line binding (R140: a good line at or after T_sw, or leaving RUNNING). -/
def releaseLineBinding (i : LaneId) (s : State) : State :=
  settleDetect (s.modRx i fun x => { x with lineBinding := none })

/-! ### Switches (R139) -/

/-- The states after a switch: the COMMITTING bank ACTIVE, the old ACTIVE bank RETIRING while anything is bound to it and
LOADED otherwise. -/
def Group.switch {α : Type} (g : Group α) (new : BankId) (old : Option BankId) (bound : Bool) : Group α :=
  let g := match old with
    | some o => g.setState o (if bound then .retiring else .loaded)
    | none => g
  g.setState new .active

/-- Line bindings on the old bank for every RUNNING lane, given at a DETECT switch in INSPECT or STOPPING (R139). -/
def giveLineBindings (old : BankId) (s : State) : State :=
  if s.trunk.run == .standby then s
  else s.withLanes (s.lanes.map fun l =>
    if l.rx.state == .running then { l with rx := { l.rx with lineBinding := some old } } else l)

/-- A DETECT switch, at a trigger or at once (R136, R137, R139). T_sw is the trigger while the old bank is RETIRING. -/
def switchDetect (trigger : Option Nat) (s : State) : State :=
  match s.store.detect.find .committing with
  | none => s
  | some new =>
    match s.store.detect.active with
    | none => s.withStore { s.store with detect := s.store.detect.switch new none false, tSw := none }
    | some old =>
      let s := giveLineBindings old s
      let bound := decide (0 < detectBindings s old)
      s.withStore { s.store with
        detect := s.store.detect.switch new (some old) bound
        tSw := if bound then trigger else none }

/-- A GRADE switch (R136, R138, R139); the order cursor is the planner's to move. -/
def switchGrade (s : State) : State :=
  match s.store.grade.find .committing with
  | none => s
  | some new =>
    match s.store.grade.active with
    | none => s.withGrade (s.store.grade.switch new none false)
    | some old => s.withGrade (s.store.grade.switch new (some old) (decide (0 < gradeBindings s old)))

/-- A bank after a soft reset or an entry to STANDBY: the given state becomes LOADED (R132). -/
def Group.toLoaded {α : Type} (g : Group α) (st : BankState) : Group α :=
  let f (b : Bank α) : Bank α := if b.state == st then { b with state := .loaded } else b
  ⟨f g.bank0, f g.bank1⟩

/-- Every line binding released (R132). -/
def dropLineBindings (s : State) : State :=
  s.withLanes (s.lanes.map fun l => { l with rx := { l.rx with lineBinding := none } })

/-- The Table Store at entry to STANDBY (R132, R136): COMMITTING banks switch, then RETIRING banks become LOADED, T_sw
absent, line bindings released. -/
def banksAtStandby (s : State) : State :=
  let s := dropLineBindings (switchGrade (switchDetect none s))
  s.withStore { s.store with
    detect := s.store.detect.toLoaded .retiring
    grade := s.store.grade.toLoaded .retiring
    tSw := none }

/-- The Table Store at a soft reset (R132): contents kept, COMMITTING and RETIRING banks LOADED, T_sw absent. -/
def TableStore.softReset (t : TableStore) : TableStore :=
  { t with
    detect := (t.detect.toLoaded .committing).toLoaded .retiring
    grade := (t.grade.toLoaded .committing).toLoaded .retiring
    tSw := none }

/-! ### The DETECT bank in effect for a line (R137) -/

/-- A trigger number is at or after T_sw (R137). -/
def atOrAfter (t tSw : Nat) : Bool := decide ((t + 65536 - tSw % 65536) % 65536 < 32768)

/-- The DETECT bank in effect for a line of a lane (R137); none when the group has no ACTIVE bank. -/
def bankInEffect (s : State) (i : LaneId) (t : Nat) : Option BankId :=
  match s.store.detect.active with
  | none => none
  | some b =>
    match s.store.tSw, (s.rx i).lineBinding with
    | some sw, some old => if atOrAfter t sw then some b else some old
    | _, _ => some b

/-- A DETECT bank's tables. -/
def State.detectTables (s : State) (b : BankId) : DetectTables := (s.store.detect.get b).tables

/-- A DETECT bank's entry for a lane. -/
def State.laneEntry (s : State) (b : BankId) (i : LaneId) : LaneEntry := (s.detectTables b).lanes.get i

end Sys2Proof.Machine
end

