-- ==== Sys2Proof/Machine/Schedule.lean ====
section
/-! DEFINITION. The position schedule (R12 to R15): order, room, insertion and removal. -/

namespace Sys2Proof.Machine

/-- An entry placed after every entry whose fire position is at or below its own (R12). -/
def placeEntry (e : Entry) : List Entry → List Entry
  | [] => [e]
  | x :: xs => if x.fire ≤ e.fire then x :: placeEntry e xs else e :: x :: xs

/-- Whether an entry of the kind is accepted while the schedule holds `n` entries (R14). -/
def roomFor (k : EntryKind) (n : Nat) : Bool :=
  match k with
  | .cut => decide (n ≤ 62)
  | .divert => decide (n ≤ 62)
  | .issueLimit => decide (n ≤ 63)
  | .confirmDeadline => decide (n ≤ 63)

/-- The entry is the one that a kind and a plate number name (R12, R15). -/
def Entry.named (k : EntryKind) (n : Nat) (e : Entry) : Bool := e.kind == k && e.plate == n

/-- What an insertion comes to (R13, R14): held in the schedule, handed at once because it is due, or refused. -/
inductive Insertion where
  | held (s : State)
  | atOnce
  | refused

/-- An insertion of an entry (R13, R14). Fire positions are compared at full width (log entry 7). -/
def insertEntry (e : Entry) (s : State) : Insertion :=
  if e.fire ≤ s.pos.p then .atOnce
  else if roomFor e.kind s.pos.schedule.length then
    .held (s.withPos { s.pos with schedule := placeEntry e s.pos.schedule })
  else .refused

/-- Whether the schedule holds the entry that a kind and a plate number name. -/
def holdsEntry (k : EntryKind) (n : Nat) (s : State) : Bool := s.pos.schedule.any (Entry.named k n)

/-- A removal by the owner (R15): the entry leaves the schedule without firing, or is withdrawn from the firing list; where
it is in neither, nothing happens. -/
def removeEntry (k : EntryKind) (n : Nat) (s : State) : State :=
  s.withPos { s.pos with
    schedule := s.pos.schedule.filter fun e => !e.named k n
    firing := s.pos.firing.filter fun e => !e.named k n }

/-- The schedule emptied without firing (R16). MODEL'S CHOICE (log entry 31): what of a firing list has not been handed is
dropped with it. -/
def emptySchedule (s : State) : State := s.withPos { s.pos with schedule := [], firing := [] }

end Sys2Proof.Machine
end

