-- ==== Sys2Proof/Machine/FlawMapOps.lean ====
section
/-! DEFINITION. The flaw map: order, entry, refusal, gaps, removal and what overlaps a range (R74 to R80), and the gap rules
of the Lane Receiver (R32). -/

namespace Sys2Proof.Machine

/-- The lead of a record: a gap's is its start (R74). -/
def MapRecord.lead : MapRecord → Nat
  | .flaw r => r.lead
  | .gap _ start _ => start

/-- A record placed after every record whose lead is at or below its own (R74). -/
def placeRecord (r : MapRecord) : List MapRecord → List MapRecord
  | [] => [r]
  | x :: xs => if x.lead ≤ r.lead then x :: placeRecord r xs else r :: x :: xs

/-- The state with the map's records replaced. -/
def State.withRecords (s : State) (rs : List MapRecord) : State := s.withMap { s.map with records := rs }

/-- The state with the overflow mark replaced. -/
def State.withMark (s : State) (m : Option OverflowMark) : State := s.withMap { s.map with mark := m }

/-- The plan floor F: the planned start of the oldest plate in the queue, or C_last (R75). -/
def planFloor (s : State) : Nat :=
  match s.plan.queue with
  | p :: _ => p.plannedStart
  | [] => s.plan.cLast

/-! ### Refusal for capacity (R77) -/

/-- The mark extended over [lo, hi] (R77). -/
def mergeExtent (lo hi : Nat) : Option OverflowMark → OverflowMark
  | none => ⟨lo, hi, PerLane.all false⟩
  | some m => ⟨min m.lo lo, max m.hi hi, m.openLanes⟩

/-- The mark extended from an open gap of a lane (R77). -/
def mergeOpen (lane : LaneId) (start : Nat) : Option OverflowMark → OverflowMark
  | none => ⟨start, start, (PerLane.all false).set lane true⟩
  | some m => ⟨min m.lo start, m.hi, m.openLanes.set lane true⟩

/-- A FLAW record refused for capacity (R77). -/
def refuseFlaw (r : FlawRecord) (s : State) : State :=
  raise .flawMapFull (some r.lane) (low32 r.lead) r.id
    (s.withMark (some (mergeExtent r.lead r.trail s.map.mark)))

/-- A closed GAP record [start, stop) refused for capacity (R77). -/
def refuseClosedGap (lane : LaneId) (start stop : Nat) (s : State) : State :=
  raise .flawMapFull (some lane) (low32 start) (low32 stop)
    (s.withMark (some (mergeExtent start (heldSum (stop - 1)) s.map.mark)))

/-- An open GAP record refused for capacity (R77); detail2 is 2^32 − 1. -/
def refuseOpenGap (lane : LaneId) (start : Nat) (s : State) : State :=
  raise .flawMapFull (some lane) (low32 start) Config.max32
    (s.withMark (some (mergeOpen lane start s.map.mark)))

/-! ### Entry (R75, R76) -/

/-- A FLAW record handed to the map (R75): floor, then capacity, then entry. -/
def enterFlaw (r : FlawRecord) (s : State) : State :=
  if r.trail < planFloor s then s.count fun x => { x with beforePlan := bump32 x.beforePlan }
  else if Config.mapRecords ≤ s.map.records.length then refuseFlaw r s
  else s.withRecords (placeRecord (.flaw r) s.map.records)

/-- An open GAP record handed to the map (R76). -/
def enterOpenGap (lane : LaneId) (start : Nat) (s : State) : State :=
  if s.map.records.length < Config.mapRecords then
    s.withRecords (placeRecord (.gap lane start none) s.map.records)
  else refuseOpenGap lane start s

/-- The record is the lane's open gap. -/
def MapRecord.isOpenGapOf (lane : LaneId) : MapRecord → Bool
  | .gap l _ none => l == lane
  | .gap _ _ (some _) => false
  | .flaw _ => false

/-- The record is the closed gap [start, stop) of the lane. -/
def MapRecord.isClosedGap (lane : LaneId) (start stop : Nat) : MapRecord → Bool
  | .gap l b (some e) => l == lane && b == start && e == stop
  | .gap _ _ none => false
  | .flaw _ => false

/-- A gap's end moved to a position; a FLAW record stays. -/
def MapRecord.withStop (stop : Nat) : MapRecord → MapRecord
  | .gap l start _ => .gap l start (some stop)
  | .flaw r => .flaw r

/-- The last record that satisfies a test, changed. -/
def changeLast (test : MapRecord → Bool) (f : MapRecord → MapRecord) (rs : List MapRecord) : List MapRecord :=
  let rec go : List MapRecord → List MapRecord
    | [] => []
    | x :: xs => if test x then f x :: xs else x :: go xs
  (go rs.reverse).reverse

/-- The start of the record that a closed gap from a position extends: the record of the lane's last closed gap, where that
gap ended there and the map took it and still holds it (R32, R76; log entry 30). -/
def extendable (lane : LaneId) (start : Nat) (s : State) : Option Nat :=
  if (s.rx lane).lastClosedGap = some start then
    (s.rx lane).lastGapStart.filter fun b => s.map.records.any (MapRecord.isClosedGap lane b start)
  else none

/-- A closed coverage gap [start, stop) handed to the map (R76, with the extension of R32): floored, extended, entered or
refused, with the start of the record that now holds it. The end is compared at full width, and a record takes it as a
48-bit field holds it (log entry 7). -/
def enterClosedGap (lane : LaneId) (start stop : Nat) (s : State) : State × Option Nat :=
  if stop ≤ planFloor s then (s, none)
  else
    match extendable lane start s with
    | some b =>
      (s.withRecords (changeLast (MapRecord.isClosedGap lane b start) (MapRecord.withStop (heldSum stop)) s.map.records),
        some b)
    | none =>
      if s.map.records.length < Config.mapRecords then
        (s.withRecords (placeRecord (.gap lane start (some (heldSum stop))) s.map.records), some start)
      else (refuseClosedGap lane start stop s, none)

/-- The map's part in the close of a lane's open gap (R76): the record ends or is withdrawn; where it was refused, the lane
leaves the mark's open lanes and the mark may reach further. -/
def closeMapGap (lane : LaneId) (start stop : Nat) (s : State) : State :=
  if s.map.records.any (MapRecord.isOpenGapOf lane) then
    if start < stop then
      s.withRecords (s.map.records.map fun r => if r.isOpenGapOf lane then r.withStop (heldSum stop) else r)
    else s.withRecords (s.map.records.filter fun r => !r.isOpenGapOf lane)
  else
    match s.map.mark with
    | none => s
    | some m =>
      let m := { m with openLanes := m.openLanes.set lane false }
      s.withMark (some (if start < stop then { m with hi := max m.hi (heldSum (stop - 1)) } else m))

/-! ### The Lane Receiver's gaps (R32) -/

/-- Opening a gap (R32): the record is entered with its start and no end. -/
def openGap (lane : LaneId) (start : Nat) (s : State) : State :=
  (enterOpenGap lane start s).modRx lane fun x => { x with openGap := some start }

/-- Opening a gap where the lane has none (R22, R29). -/
def openGapIfNone (lane : LaneId) (start : Nat) (s : State) : State :=
  match (s.rx lane).openGap with
  | some _ => s
  | none => openGap lane start s

/-- Closing the lane's open gap at a position (R32): nothing where it has none. The length goes to the report; a gap that
would be empty is withdrawn and leaves the last closed gap as it was (log entry 13). The length is formed at full width, and
the last closed gap is the position as a 48-bit field holds it (log entry 7), with its record where the map took it. -/
def closeGap (lane : LaneId) (stop : Nat) (s : State) : State :=
  match (s.rx lane).openGap with
  | none => s
  | some start =>
    let record := if s.map.records.any (MapRecord.isOpenGapOf lane) then some start else none
    let s := closeMapGap lane start stop s
    if start < stop then
      (s.modRx lane fun x => { x with
        openGap := none, lastClosedGap := some (heldSum stop), lastGapStart := record }).countGap lane start stop
    else s.modRx lane fun x => { x with openGap := none }

/-- A closed gap of R25 or R26 (R32): an extension where the last closed gap equals its start and its record stands, else a
record of its own.
The length goes to the report whatever the map does with the record; an interval that holds no glass is not entered (log
entry 13). -/
def closedGap (lane : LaneId) (start stop : Nat) (s : State) : State :=
  if start < stop then
    let r := enterClosedGap lane start stop s
    (r.1.modRx lane fun x => { x with lastClosedGap := some (heldSum stop), lastGapStart := r.2 }).countGap lane start stop
  else s

/-! ### Reading and removal (R78 to R80) -/

/-- A FLAW record overlaps [a, b) (00, "Intervals"). -/
def FlawRecord.overlaps (a b : Nat) (r : FlawRecord) : Bool := decide (r.lead < b) && decide (a ≤ r.trail)

/-- The FLAW records that overlap [a, b), in map order (R80). -/
def flawsOver (a b : Nat) (s : State) : List FlawRecord :=
  s.map.records.filterMap fun r =>
    match r with
    | .flaw f => if f.overlaps a b then some f else none
    | .gap _ _ _ => none

/-- A gap record overlaps [a, b); an open gap reaches every position from its start (5.1, R80). -/
def MapRecord.gapOverlaps (a b : Nat) : MapRecord → Bool
  | .flaw _ => false
  | .gap _ start none => decide (start < b)
  | .gap _ start (some stop) => decide (start < b) && decide (a < stop)

/-- Whether a GAP record overlaps [a, b) (R80). -/
def gapOver (a b : Nat) (s : State) : Bool := s.map.records.any (MapRecord.gapOverlaps a b)

/-- Whether the mark's set of open lanes is empty. -/
def OverflowMark.noOpenLanes (m : OverflowMark) : Bool := m.openLanes.toList.all fun b => !b

/-- Whether the overflow mark overlaps [a, b) (R80): it reaches every position from lo while a lane is open in it. -/
def markOver (a b : Nat) (s : State) : Bool :=
  match s.map.mark with
  | none => false
  | some m => decide (m.lo < b) && (!m.noOpenLanes || decide (a ≤ m.hi))

/-- The record lies behind the actual end of a graded plate (R79). -/
def MapRecord.behind (a : Nat) : MapRecord → Bool
  | .flaw r => decide (r.trail < a)
  | .gap _ _ none => false
  | .gap _ _ (some stop) => decide (stop < a)

/-- The removals behind a graded plate, then the test of the overflow mark (R79, R78). -/
def removeBehind (a : Nat) (s : State) : State :=
  let s := s.withRecords (s.map.records.filter fun r => !r.behind a)
  match s.map.mark with
  | none => s
  | some m => if m.noOpenLanes && decide (m.hi < a) then s.withMark none else s

/-- The map at entry to STANDBY: no records, no mark; H keeps its value (R73). -/
def emptyMap (s : State) : State := s.withMap { s.map with records := [], mark := none }

/-- The end of the glass of a line at a position, position + `line_pitch`, at full width (00, "Arithmetic conventions"). -/
def glassEnd (s : State) (position : Nat) : Nat := position + s.setup.linePitch

end Sys2Proof.Machine
end

