-- ==== Sys2Proof/Machine/Evaluate.lean ====
section
/-! DEFINITION. The evaluation of a range with a GRADE bank (R121 to R123), used by the planner's prediction and the
Grader's grade, and the running grade of the culprit search (R93). -/

namespace Sys2Proof.Machine

/-- r is in a ranged zone [lo, hi) (R121). -/
def Zone.holds (z : Zone) (r : Nat) : Bool := decide (z.lo ≤ r) && decide (r < z.hi)

/-- The grade zone of a cross position relative to `net_lo`: the first ranged zone that holds it, else 3 (R121). -/
def gradeZone (t : GradeTables) (r : Nat) : Nat :=
  if (t.zones.getD 0 default).holds r then 0
  else if (t.zones.getD 1 default).holds r then 1
  else if (t.zones.getD 2 default).holds r then 2
  else 3

/-- The tally, sixteen classes by four zones at class · 4 + zone (R122). -/
abbrev Tally := List Nat

/-- The tally in which every cell is 0. -/
def Tally.zero : Tally := List.replicate 64 0

/-- One flaw added to its cell, saturating at 255 (R122). -/
def tallyFlaw (t : GradeTables) (netLo : Nat) (tally : Tally) (f : FlawRecord) : Tally :=
  addAt 255 (f.cls * 4 + gradeZone t (f.centre - netLo)) 1 tally

/-- The tally of a list of flaws (R122). -/
def tallyOf (t : GradeTables) (netLo : Nat) (fs : List FlawRecord) : Tally :=
  fs.foldl (tallyFlaw t netLo) Tally.zero

/-- The tally's cell of a class and a zone. -/
def Tally.cell (tally : Tally) (k z : Nat) : Nat := tally.getD (k * 4 + z) 0

/-- The sum of a class's four cells, saturating at 255 (R128). -/
def Tally.classSum (tally : Tally) (k : Nat) : Nat :=
  min 255 (tally.cell k 0 + tally.cell k 1 + tally.cell k 2 + tally.cell k 3)

/-- The unsaturated sum of a class's four cells (R129). -/
def Tally.classTotal (tally : Tally) (k : Nat) : Nat :=
  tally.cell k 0 + tally.cell k 1 + tally.cell k 2 + tally.cell k 3

/-- A tallied class is in the fatal mask (R123). -/
def Tally.fatal (t : GradeTables) (tally : Tally) : Bool :=
  (List.range 16).any fun k => t.fatal.getD k false && decide (0 < tally.classTotal k)

/-- The limits of grade `g` (A, B, C as 0, 1, 2) hold every cell of the tally (R123). -/
def Tally.within (t : GradeTables) (tally : Tally) (g : Nat) : Bool :=
  (List.range 64).all fun c => decide (tally.getD c 0 ≤ t.limits.getD (g * 64 + c) 0)

/-- The best of A, B, C whose limits hold the tally, else REJECT (R123 steps 3 and 4). -/
def limitGrade (t : GradeTables) (tally : Tally) : Grade :=
  if tally.within t 0 then .a else if tally.within t 1 then .b else if tally.within t 2 then .c else .reject

/-- The running grade of a tally: the evaluation's grade without coverage (R93). -/
def runningGrade (t : GradeTables) (tally : Tally) : Grade :=
  if tally.fatal t then .fatal else limitGrade t tally

/-- What an evaluation finds (R122, R123). -/
structure Evaluation where
  tally : Tally
  total : Nat
  uninspected : Bool
  overflow : Bool
  fatal : Bool
  grade : Grade
deriving DecidableEq, Repr, Inhabited

/-- The evaluation from its flaws and its coverage (R122, R123). -/
def evaluation (t : GradeTables) (netLo : Nat) (fs : List FlawRecord) (gap mark : Bool) : Evaluation :=
  let tally := tallyOf t netLo fs
  let uncovered := gap || mark
  let fatal := tally.fatal t
  ⟨tally, fs.length, uncovered, mark, fatal,
    if fatal then .fatal else if uncovered then .uninspected else limitGrade t tally⟩

/-- The evaluation of [a, b) (R122): an empty range holds no glass and asks the map nothing. -/
def evaluate (t : GradeTables) (a b : Nat) (s : State) : Evaluation :=
  if b ≤ a then evaluation t s.setup.netLo [] false false
  else evaluation t s.setup.netLo (flawsOver a b s) (gapOver a b s) (markOver a b s)

/-- The rank of a grade against a minimum: A, B, C, then all others below them (R91). -/
def Grade.rank : Grade → Nat
  | .a => 0
  | .b => 1
  | .c => 2
  | .reject => 3
  | .uninspected => 3
  | .cullet => 3
  | .skipped => 3
  | .fatal => 3

/-- The grade is worse than an order's minimum (R91, R93). -/
def Grade.worseThan (g : Grade) (m : MinGrade) : Bool := decide (m.code < g.rank)

/-- A candidate is accepted: UNINSPECTED, or A, B or C at least as good as the minimum (R91). -/
def accepts (g : Grade) (m : MinGrade) : Bool := g == .uninspected || !g.worseThan m

/-- The culprit: the first flaw after which the running grade is worse than the minimum (R93). -/
def culprit (t : GradeTables) (netLo : Nat) (m : MinGrade) : Tally → List FlawRecord → Option FlawRecord
  | _, [] => none
  | tally, f :: fs =>
    let tally := tallyFlaw t netLo tally f
    if (runningGrade t tally).worseThan m then some f else culprit t netLo m tally fs

end Sys2Proof.Machine
end

