-- ==== Sys2Proof/Machine/PlannerOps.lean ====
section
/-! DEFINITION. Boundaries (R98), planning attempts, commits and late plans (R87 to R95, R100), the horizon (R81, R82) and
the entry to STANDBY (R101, R112, R174). -/

namespace Sys2Proof.Machine

/-! ### Boundaries (R98) -/

/-- What a change writes into a boundary: its status, and where it has been requested or captured, those fields. -/
structure BoundaryChange where
  status : BoundaryStatus
  seq : Option Bool
  captured : Option Nat
  deviation : Option Int
  actual : Option Nat
deriving DecidableEq, Repr, Inhabited

/-- A change of status alone. -/
def BoundaryChange.statusOnly (st : BoundaryStatus) : BoundaryChange := ⟨st, none, none, none, none⟩

/-- A value replaced where the change gives one. -/
def orKeep {α : Type} (new old : Option α) : Option α :=
  match new with
  | some x => some x
  | none => old

/-- The change written into the trail boundary of its plate. -/
def Plate.changeTrail (c : BoundaryChange) (p : Plate) : Plate :=
  { p with
    trailStatus := c.status
    trailSeq := orKeep c.seq p.trailSeq
    trailCaptured := orKeep c.captured p.trailCaptured
    trailDeviation := orKeep c.deviation p.trailDeviation
    actualEnd := c.actual.getD p.actualEnd }

/-- The change written into the lead boundary of the next plate. -/
def Plate.changeLead (c : BoundaryChange) (p : Plate) : Plate :=
  { p with leadStatus := c.status, actualStart := c.actual.getD p.actualStart }

/-- The change written into the start cut record (R99). -/
def StartCut.change (c : BoundaryChange) (x : StartCut) : StartCut :=
  { x with
    status := c.status
    seq := orKeep c.seq x.seq
    captured := orKeep c.captured x.captured
    deviation := orKeep c.deviation x.deviation }

/-- The change written into the trailing boundary. -/
def TrailingBoundary.change (c : BoundaryChange) (x : TrailingBoundary) : TrailingBoundary :=
  ⟨c.status, c.actual.getD x.actual⟩

/-- The change of plate `n`'s trail boundary in the queue, with the lead boundary of the plate after it; the answer says
whether the plate was the newest, so that the trailing boundary takes the change. -/
def changeInQueue (n : Nat) (c : BoundaryChange) : List Plate → List Plate × Bool
  | [] => ([], false)
  | p :: rest =>
    if p.number == n then
      match rest with
      | [] => ([p.changeTrail c], true)
      | q :: more => (p.changeTrail c :: q.changeLead c :: more, false)
    else
      let r := changeInQueue n c rest
      (p :: r.1, r.2)

/-- A boundary changed by the Cutter Interface (R98): plate number 0 names the start cut, whose next plate is the first of
the run; the other end of the cut is kept in agreement through the next plate or the trailing boundary. -/
def changeBoundary (n : Nat) (c : BoundaryChange) (s : State) : State :=
  if n == 0 then
    let p := { s.plan with startCut := s.plan.startCut.map (StartCut.change c) }
    match p.queue with
    | [] => s.withPlan { p with trailing := p.trailing.change c }
    | q :: more => s.withPlan { p with queue := q.changeLead c :: more }
  else
    let r := changeInQueue n c s.plan.queue
    s.withPlan { s.plan with
      queue := r.1
      trailing := if r.2 then s.plan.trailing.change c else s.plan.trailing }

/-- The cut position of the boundary a plate number names: S0 for the start cut, else the plate's planned end (7.1). None
where the number names neither (log entry 18). -/
def cutPosition (n : Nat) (s : State) : Option Nat :=
  if n == 0 then s.plan.startCut.map StartCut.position
  else (s.plan.queue.find? fun p => p.number == n).map Plate.plannedEnd

/-- Resolved statuses (R96). -/
def BoundaryStatus.resolved : BoundaryStatus → Bool
  | .confirmed => true
  | .deviated => true
  | .missed => true
  | .skipped => true
  | .planned => false
  | .pending => false
  | .requested => false

/-! ### The order cursor (R87) -/

/-- The lowest-numbered enabled spec of a bank; 0 where none is enabled, which no committed bank has (R86). -/
def firstEnabled (t : GradeTables) : Nat :=
  ((List.range 8).find? fun i => (t.specs.getD i default).enable).getD 0

/-- The next enabled spec after one in index order, returning to the lowest (R87). -/
def nextEnabled (t : GradeTables) (cur : Nat) : Nat :=
  ((List.range 8).find? fun i => decide (cur < i) && (t.specs.getD i default).enable).getD (firstEnabled t)

/-- The spec under the order cursor. -/
def currentSpec (s : State) : OrderSpec := s.store.grade.activeTables.specs.getD s.plan.cursor default

/-- The planner's wait state set. -/
def setWait (w : WaitState) (s : State) : State := s.withPlan { s.plan with wait := w }

/-- The wait for schedule room (R90): SCHEDULE_FULL is raised once per wait, with the waiting plate's number and C_last. -/
def waitForSchedule (s : State) : State :=
  if s.plan.wait == .schedule then s
  else setWait .schedule (raise .scheduleFull none s.plan.nextPlate (low32 s.plan.cLast) s)

/-! ### Commit (R94 to R96) -/

/-- The CUT fire position of a cut at c (R94). -/
def cutFire (p : Setup) (c : Nat) : Nat := c + p.dCut - p.cutLead

/-- The earliest cut that can still be made (R95). -/
def latestCut (p : Setup) (position : Nat) : Nat := position + p.cutLead + 1 - p.dCut

/-- The number after a plate number (R94). -/
def plateAfter (n : Nat) : Nat := if n + 1 < 2 ^ 32 then n + 1 else 1

/-- The plate record at a commit (R96): its lead boundary is the trailing boundary as it stands, and its end c as a 48-bit
field holds it. -/
def newPlate (kind : PlateKind) (spec : Option Nat) (predicted : Grade) (c : Nat) (late : Bool) (s : State) : Plate where
  number := s.plan.nextPlate
  kind := kind
  spec := spec
  bank := s.store.grade.active.getD 0
  plannedStart := s.plan.cLast
  plannedEnd := heldSum c
  leadStatus := s.plan.trailing.status
  trailStatus := .planned
  trailSeq := none
  trailCaptured := none
  trailDeviation := none
  actualStart := s.plan.trailing.actual
  actualEnd := heldSum c
  predicted := predicted
  finalGrade := none
  destination := none
  flawTotal := 0
  uninspected := false
  fatal := false
  late := late
  overflow := false

/-- Steps 3 to 8 of a commit (R94) at its end c with fire position f: none where the schedule refuses the CUT entry. The end
is formed at full width and stored as a 48-bit field holds it (log entry 7). -/
def placePlate (kind : PlateKind) (spec : Option Nat) (predicted : Grade) (c f : Nat) (late : Bool) (s : State) :
    Option State :=
  match insertEntry ⟨f, .cut, s.plan.nextPlate⟩ s with
  | .held s1 =>
    some (s1.withPlan { s1.plan with
      queue := s1.plan.queue ++ [newPlate kind spec predicted c late s1]
      cLast := heldSum c
      nextPlate := plateAfter s1.plan.nextPlate
      trailing := ⟨.planned, heldSum c⟩
      cursor := if kind == .order then nextEnabled s1.store.grade.activeTables s1.plan.cursor else s1.plan.cursor
      wait := .none })
  | .atOnce => none
  | .refused => none

/-- A commit of a plate of end c (R94), made late by R95 where its CUT entry could not fire with its full lead. None where
the schedule refuses it. -/
def commitPlate (kind : PlateKind) (spec : Option Nat) (predicted : Grade) (c : Nat) (s : State) : Option State :=
  let f := cutFire s.setup c
  if f ≤ s.pos.p then
    let kind' : PlateKind := if kind == .tail then .tail else .late
    (placePlate kind' none predicted (latestCut s.setup s.pos.p) (s.pos.p + 1) true s).map fun s1 =>
      raise .planLate none s.plan.nextPlate (low32 c) s1
  else placePlate kind spec predicted c f false s

/-! ### Planning attempts (R89 to R93, R100) -/

/-- What an attempt finds next: a test that fails, nothing more to plan, or a plate to commit. -/
inductive PlanStep where
  | wait (w : WaitState)
  | nothingMore
  | commit (kind : PlateKind) (spec : Option Nat) (predicted : Grade) (c : Nat)
deriving DecidableEq, Repr, Inhabited

/-- The candidate evaluated (R91 to R93): accepted as ORDER, or culled just past the culprit. A culled candidate always has
a culprit (R93); where there were none the piece would be `min_piece` long (log entry 18). -/
def evaluateCandidate (s : State) : PlanStep :=
  let t := s.store.grade.activeTables
  let spec := currentSpec s
  let stop := s.plan.cLast + spec.length
  let e := evaluate t s.plan.cLast stop s
  if accepts e.grade spec.minGrade then .commit .order (some s.plan.cursor) e.grade stop
  else
    let least := s.plan.cLast + t.minPiece
    let c := match culprit t s.setup.netLo spec.minGrade Tally.zero (flawsOver s.plan.cLast stop s) with
      | some f => max (f.trail + 1 + t.avoidMargin) least
      | none => least
    .commit .avoid none e.grade c

/-- The queue and schedule tests in front of a plate to commit (R89 tests 2 and 3). -/
def withRoom (s : State) (next : PlanStep) : PlanStep :=
  if Config.plateSlots ≤ s.plan.queue.length then .wait .queue
  else if 62 < s.pos.schedule.length then .wait .schedule
  else next

/-- What an attempt finds in INSPECT (R89): the horizon test against H. -/
def inspectStep (s : State) : PlanStep :=
  if s.plan.cLast + (currentSpec s).length ≤ s.map.h then withRoom s (evaluateCandidate s) else .wait .horizon

/-- What an attempt finds in STOPPING (R100): plan on, tail, or nothing more. -/
def stoppingStep (stopEnd : Nat) (s : State) : PlanStep :=
  if s.plan.cLast + (currentSpec s).length ≤ stopEnd then withRoom s (evaluateCandidate s)
  else if s.plan.cLast < stopEnd then
    withRoom s (.commit .tail none (evaluate s.store.grade.activeTables s.plan.cLast stopEnd s).grade stopEnd)
  else .nothingMore

/-- What an attempt finds next, by the run state. -/
def planStep (s : State) : PlanStep :=
  match s.trunk.run, s.trunk.stopEnd with
  | .inspect, _ => inspectStep s
  | .stopping, some e => stoppingStep e s
  | .stopping, none => .nothingMore
  | .standby, _ => .nothingMore

/-- A wait that ends an attempt (R90). -/
def endInWait (w : WaitState) (s : State) : State :=
  match w with
  | .schedule => waitForSchedule s
  | .none => setWait .none s
  | .horizon => setWait .horizon s
  | .queue => setWait .queue s

/-- The tests and commits of an attempt (R89), at most `n` of them: the plate queue's capacity ends it before 129. -/
def planLoop : Nat → State → State
  | 0, s => s
  | n + 1, s =>
    match planStep s with
    | .wait w => endInWait w s
    | .nothingMore => s.withPlan { s.plan with complete := true, wait := .none }
    | .commit kind spec predicted c =>
      match commitPlate kind spec predicted c s with
      | none => waitForSchedule s
      | some s1 =>
        if kind == .tail then s1.withPlan { s1.plan with complete := true } else planLoop n s1

/-- A waiting GRADE switch taken at the start of an attempt, with the order cursor (R87, R138). -/
def takeGradeSwitch (s : State) : State :=
  match s.store.grade.find .committing with
  | none => s
  | some _ =>
    let s := switchGrade s
    s.withPlan { s.plan with cursor := firstEnabled s.store.grade.activeTables }

/-! ### The end of a stop (R101, R174) -/

/-- A start cut still outstanding or pending at entry to STANDBY (R112): MISSED, CUT_MISSED detail2 4, counted. -/
def abandonCut (n : Option Nat) (s : State) : State :=
  match n with
  | none => s
  | some n =>
    raise .cutMissed none 0 4
      ((changeBoundary n (.statusOnly .missed) s).count fun r => { r with cutsMissed := bump32 r.cutsMissed })

/-- Entry to STANDBY (R174): the run state, then the blocks. -/
def enterStandby (s : State) : State :=
  let out := s.cutter.outstanding.map Outstanding.plate
  let pend := s.cutter.pendingCut.map PendingCut.plate
  let s := emptySchedule (s.withTrunk { s.trunk with run := .standby })
  let s := abandonCut pend (abandonCut out (s.withCutter { s.cutter with outstanding := none, pendingCut := none }))
  setWait .none (banksAtStandby (emptyMap s))

/-- The stop ends when plan complete is set and the plate queue is empty, whichever comes last (R101). -/
def checkStopEnd (s : State) : State :=
  if s.trunk.run == .stopping && s.plan.complete && s.plan.queue.isEmpty then enterStandby s else s

/-- A planning attempt (R89): none in STANDBY. -/
def planningAttempt (s : State) : State :=
  if s.trunk.run == .standby then s
  else
    let s := takeGradeSwitch s
    checkStopEnd (if s.plan.complete then s else planLoop (Config.plateSlots + 1) s)

/-! ### The horizon (R81, R82) -/

/-- The lowest lead among a lane's OPEN slots. -/
def lowestLead (t : Tracker) : Option Nat :=
  t.slots.foldl (fun m x =>
    match x with
    | .blob b => some (match m with | some v => min v b.lead | none => b.lead)
    | .free => m
    | .continuation _ => m) none

/-- S0, the position of the start cut (R88). -/
def startPosition (s : State) : Nat := (s.plan.startCut.map StartCut.position).getD 0

/-- The lane horizon by its table (R81), at full width: none for a lane that is not considered. -/
def tableHorizon (s : State) (i : LaneId) : Option Nat :=
  let l := s.lane i
  let byLine := match l.rx.lastPosition with
    | some x => glassEnd s x
    | none => startPosition s
  match l.rx.state with
  | .running => some ((lowestLead l.tracker).getD byLine)
  | .waiting => some byLine
  | .silent => none
  | .disabled => none
  | .idle => none

/-- The lane horizon (R81): while a line of the lane is in handling, at most that line's position. -/
def laneHorizon (s : State) (i : LaneId) : Option Nat :=
  (tableHorizon s i).map fun h =>
    match (s.rx i).inHand with
    | some x => min h x
    | none => h

/-- The lowest lane horizon among the considered lanes; none when no lane is considered. -/
def lowestHorizon (s : State) : Option Nat :=
  (laneIds.filterMap (laneHorizon s)).foldl (fun m h => some (match m with | some v => min v h | none => h)) none

/-- A recomputation of H in INSPECT (R82): the larger of H and the lowest lane horizon, or of H and P when no lane is
considered, compared at full width. One that raises H makes a planning attempt (R89). Where the horizon does not fit H's 48
bits, H takes the free value of log entry 7, or stays where that is lower, since H never decreases (R82). -/
def recomputeH (s : State) : State :=
  if s.trunk.run == .inspect then
    let m := (lowestHorizon s).getD s.pos.p
    if s.map.h < m then planningAttempt (s.withMap { s.map with h := max s.map.h (heldSum m) }) else s
  else s

end Sys2Proof.Machine
end

