-- ==== Sys2Proof/Machine/GraderOps.lean ====
section
/-! DEFINITION. The Divert Unit's firing and scheduling (R113, R114) and the Grader (R119 to R130). -/

namespace Sys2Proof.Machine

/-! ### Divert (R113, R114) -/

/-- A DIVERT entry fires (R114): the gate takes the plate's destination, the plate leaves the queue, the planner makes an
attempt and the stop may end. A number that names no plate has no effect (log entry 18). -/
def fireDivert (n : Nat) (s : State) : State :=
  match s.plan.queue.find? fun p => p.number == n with
  | none => s
  | some p =>
    let s := s.withDivert { s.divert with gate := p.destination.getD s.divert.gate }
    planningAttempt (s.withPlan { s.plan with queue := s.plan.queue.filter fun q => q.number != n })

/-- The plate's divert point and the last divert position, the larger of the two, at full width (R113). -/
def divertPosition (actualStart : Nat) (s : State) : Int :=
  let own : Int := (actualStart : Int) + s.setup.dDiv - s.setup.divertLead
  match s.divert.last with
  | some l => max own l
  | none => own

/-- The Divert Unit's last divert position set (R113). -/
def setLastDivert (f : Int) (s : State) : State := s.withDivert { s.divert with last := some f }

/-- A divert whose fire position is not above P (R113): DIVERT_LATE, and the entry fires at once. -/
def divertAtOnce (n : Nat) (f : Int) (s : State) : State :=
  fireDivert n (setLastDivert f (raise .divertLate none n (low32Int f) s))

/-- A divert wait begins (R130): SCHEDULE_FULL is raised once for the wait. -/
def beginDivertWait (n f : Nat) (s : State) : State :=
  let s1 := if s.grader.waitReported then s else raise .scheduleFull none n (low32 f) s
  s1.withGrader { s1.grader with wait := some ⟨n, f⟩, waitReported := true }

/-- A graded plate's divert scheduled (R113, R130). A fire position below zero is below P, and fires at once. -/
def scheduleDivert (n actualStart : Nat) (s : State) : State :=
  let f := divertPosition actualStart s
  match insertEntry ⟨f.toNat, .divert, n⟩ s with
  | .held s1 => setLastDivert f s1
  | .atOnce => divertAtOnce n f s
  | .refused => beginDivertWait n f.toNat s

/-! ### Grading (R125 to R129) -/

/-- Either boundary has the status. -/
def Plate.eitherIs (p : Plate) (st : BoundaryStatus) : Bool := p.leadStatus == st || p.trailStatus == st

/-- The final grade, the first step of R125 that applies. -/
def settledGrade (p : Plate) (e : Evaluation) : Grade :=
  if p.eitherIs .skipped then .skipped
  else if p.kind != .order then .cullet
  else if p.eitherIs .missed then .reject
  else if p.eitherIs .deviated then .reject
  else if e.fatal then .reject
  else if e.uninspected then .uninspected
  else e.grade

/-- The destination: the divert table's entry for the final grade (R126). -/
def destinationOf (t : GradeTables) (g : Grade) : Destination := t.divert.getD g.code default

/-- The plate record once graded (R125, R126). -/
def Plate.graded (p : Plate) (t : GradeTables) (e : Evaluation) : Plate :=
  let g := settledGrade p e
  { p with
    flawTotal := e.total
    uninspected := e.uninspected
    fatal := e.fatal
    overflow := e.overflow
    finalGrade := some g
    destination := some (destinationOf t g) }

/-- The graded plate counted into the current report (R129). -/
def countPlate (p : Plate) (g : Grade) (tally : Tally) (s : State) : State :=
  s.count fun r => { r with
    platesByGrade := addAt Config.max32 g.code 1 r.platesByGrade
    lengthByGrade := addAt (Config.positionRange - 1) g.code (p.actualEnd - p.actualStart) r.lengthByGrade
    flawsByClass := (List.range 16).map fun k =>
      satAdd Config.max32 (r.flawsByClass.getD k 0) (tally.classTotal k) }

/-- The plate record replaced in the queue by number. -/
def replacePlate (p : Plate) (s : State) : State :=
  s.withPlan { s.plan with queue := s.plan.queue.map fun q => if q.number == p.number then p else q }

/-- One grading (R125 to R127): the record, the removals behind the actual end, the PLATE record, the report, the binding,
the divert. TRUNK_OVERRUN for a dropped PLATE record is raised when the grading is complete (R146, R171). -/
def gradePlate (p : Plate) (s : State) : State :=
  let t := (s.store.grade.get p.bank).tables
  let e := evaluate t p.actualStart p.actualEnd s
  let q := p.graded t e
  let record : Urgent := .plate q ((List.range 16).map e.tally.classSum)
  let s := removeBehind q.actualEnd (replacePlate q s)
  let h := handUrgent record s
  let s := settleGrade (countPlate q (settledGrade p e) e.tally h.1)
  let s := scheduleDivert q.number q.actualStart (s.withGrader { s.grader with lastGraded := some q.number })
  if h.2 then raiseOverrun record s else s

/-- The grading point: the oldest plate in the queue without a final grade (R119). -/
def gradingPoint (s : State) : Option Plate := s.plan.queue.find? fun p => p.finalGrade.isNone

/-- The Grader's test (R119), made again after each grading that leaves no divert wait; at most `n` gradings. -/
def gradeLoop : Nat → State → State
  | 0, s => s
  | n + 1, s =>
    match gradingPoint s with
    | none => s
    | some p =>
      if p.leadStatus.resolved && p.trailStatus.resolved && s.grader.wait.isNone then gradeLoop n (gradePlate p s)
      else s

/-- The Grader tests the grading point (R119): the plates in the queue bound the gradings that can follow. -/
def gradeTest (s : State) : State := gradeLoop s.plan.queue.length s

/-! ### The divert wait (R130) -/

/-- The divert wait ends (R130). -/
def endDivertWait (s : State) : State := s.withGrader { s.grader with wait := none, waitReported := false }

/-- The Grader retries a refused DIVERT insertion with the same fire position (R130). -/
def retryDivert (s : State) : State :=
  match s.grader.wait with
  | none => s
  | some w =>
    match insertEntry ⟨w.fire, .divert, w.plate⟩ s with
    | .held s1 => gradeTest (endDivertWait (setLastDivert w.fire s1))
    | .atOnce => gradeTest (divertAtOnce w.plate w.fire (endDivertWait s))
    | .refused => s

/-- What follows an entry's leaving the schedule by firing or by removal: the Grader's retry (R130), then a planning
attempt (R89). Made once, after the handling in which entries left (log entry 4). -/
def afterDeparture (s : State) : State := planningAttempt (retryDivert s)

end Sys2Proof.Machine
end

