-- ==== Sys2Proof/Machine/CutterOps.lean ====
section
/-! DEFINITION. The Cutter Interface: issuing, pending and displaced cuts, deadlines, confirmation, hold and fault (R104 to
R111), and the handing of fired entries to their owners (R13). -/

namespace Sys2Proof.Machine

/-- A hold is in force (R104). -/
def Cutter.holdInForce (c : Cutter) : Bool := c.requestedHold || c.faultHigh

/-- The cutter is busy (R104). -/
def Cutter.busy (c : Cutter) : Bool := c.outstanding.isSome || c.ackHigh

/-- A boundary that resolves MISSED: counted, and CUT_MISSED raised with the plate number and the reason (R106, R107,
R109). -/
def missBoundary (n reason : Nat) (s : State) : State :=
  raise .cutMissed none n reason
    ((changeBoundary n (.statusOnly .missed) s).count fun r => { r with cutsMissed := bump32 r.cutsMissed })

/-- A boundary that resolves SKIPPED: counted, no condition (R104, R110). -/
def skipBoundary (n : Nat) (s : State) : State :=
  (changeBoundary n (.statusOnly .skipped) s).count fun r => { r with cutsSkipped := bump32 r.cutsSkipped }

/-- The pending cut made absent. -/
def clearPendingCut (s : State) : State := s.withCutter { s.cutter with pendingCut := none }

/-- The outstanding cut made absent. -/
def clearOutstanding (s : State) : State := s.withCutter { s.cutter with outstanding := none }

/-- Steps 1 to 4 of an issue (R105): the sequence level, the pulse, REQUESTED, the outstanding cut. -/
def requestCut (n c : Nat) (s : State) : State :=
  let bit := !s.cutter.seqLevel
  let s := s.withPulses { s.pulses with cutReq := s.pulses.cutReq + 1 }
  let s := changeBoundary n ⟨.requested, some bit, none, none, none⟩ s
  s.withCutter { s.cutter with seqLevel := bit, outstanding := some ⟨n, c, bit⟩ }

/-- The outstanding cut is missed at its deadline (R109 steps 1 to 3), and the Grader tests. -/
def missOutstanding (n : Nat) (s : State) : State := gradeTest (clearOutstanding (missBoundary n 1 s))

/-- SCHEDULE_FULL for a refused insertion of the Cutter Interface, after its firing (R14). -/
def raiseRefused (e : Entry) (s : State) : State := raise .scheduleFull none e.plate (low32 e.fire) s

/-- Issuing a cut (R105). A deadline that is refused, or due, is missed within the issue (R14, R109), and a pending cut is
then issued if the cutter is idle (R106); that second issue finds no pending cut, so a depth of two is enough. -/
def issueCut : Nat → Nat → Nat → State → State
  | 0, _, _, s => s
  | depth + 1, n, c, s =>
    let s := requestCut n c s
    let e : Entry := ⟨c + s.setup.dCut + s.setup.confirmWindow, .confirmDeadline, n⟩
    let missed (s : State) : State :=
      let s := missOutstanding n s
      match s.cutter.pendingCut with
      | none => s
      | some p =>
        if s.cutter.busy then s
        else issueCut depth p.plate p.c (removeEntry .issueLimit p.plate (clearPendingCut s))
    let s := match insertEntry e s with
      | .held s1 => s1
      | .atOnce => missed s
      | .refused => raiseRefused e (missed s)
    s.count fun r => { r with cutsRequested := bump32 r.cutsRequested }

/-- The pending cut issued when the cutter is idle (R106): its ISSUE_LIMIT entry is removed first. -/
def issuePending (s : State) : State :=
  match s.cutter.pendingCut with
  | none => s
  | some p =>
    if s.cutter.busy then s
    else issueCut 2 p.plate p.c (removeEntry .issueLimit p.plate (clearPendingCut s))

/-- The ISSUE_LIMIT entry of the pending cut fires (R106): MISSED, not issued. For any other plate it has no effect. -/
def fireIssueLimit (n : Nat) (s : State) : State :=
  match s.cutter.pendingCut with
  | none => s
  | some p => if p.plate == n then gradeTest (clearPendingCut (missBoundary n 2 s)) else s

/-- The CONFIRM_DEADLINE entry fires (R109): the outstanding cut is missed, and a pending cut is issued if CUT_ACK is low.
For any other plate it has no effect. -/
def fireDeadline (n : Nat) (s : State) : State :=
  match s.cutter.outstanding with
  | none => s
  | some o => if o.plate == n then issuePending (missOutstanding n s) else s

/-- A cut that finds the cutter busy becomes the pending cut (R106), with its ISSUE_LIMIT entry at c + `d_cut`. -/
def makePending (n c : Nat) (s : State) : State :=
  let s := changeBoundary n (.statusOnly .pending) s
  let s := s.withCutter { s.cutter with pendingCut := some ⟨n, c⟩ }
  let e : Entry := ⟨c + s.setup.dCut, .issueLimit, n⟩
  match insertEntry e s with
  | .held s1 => s1
  | .atOnce => fireIssueLimit n s
  | .refused => raiseRefused e (fireIssueLimit n s)

/-- The older pending cut displaced by a newer one (R107). -/
def displacePending (s : State) : State :=
  match s.cutter.pendingCut with
  | none => s
  | some p => gradeTest (missBoundary p.plate 3 (clearPendingCut (removeEntry .issueLimit p.plate s)))

/-- A CUT entry fires (R104): skipped under a hold, issued if the cutter is idle, else pending. -/
def fireCut (n : Nat) (s : State) : State :=
  match cutPosition n s with
  | none => s
  | some c =>
    if s.cutter.holdInForce then gradeTest (skipBoundary n s)
    else if s.cutter.busy then makePending n c (displacePending s)
    else issueCut 2 n c s

/-- A fired entry handed to its owner (R12's table). -/
def handEntry (e : Entry) (s : State) : State :=
  match e.kind with
  | .cut => fireCut e.plate s
  | .issueLimit => fireIssueLimit e.plate s
  | .confirmDeadline => fireDeadline e.plate s
  | .divert => fireDivert e.plate s

/-- The entries of the firing list handed one after another (R13), at most `n` of them. An entry withdrawn meanwhile is not
handed (R15). -/
def handFiring : Nat → State → State
  | 0, s => s
  | n + 1, s =>
    match s.pos.firing with
    | [] => s
    | e :: rest => handFiring n (handEntry e (s.withPos { s.pos with firing := rest }))

/-! ### Confirmation (R108) -/

/-- The state with the last capture set. -/
def setCapture (pc : Nat) (bit : Bool) (o : CaptureOutcome) (s : State) : State :=
  s.withCutter { s.cutter with lastCapture := some ⟨pc, bit, o⟩ }

/-- The signed deviation of a captured position from the position at which the cut is expected (R108). -/
def deviationOf (pc c dCut : Nat) : Int := (pc : Int) - ((c : Int) + (dCut : Int))

/-- The edge confirms the outstanding cut (R108 steps 1 to 6); then the Grader tests, and what follows the deadline's
removal. -/
def confirmCut (o : Outstanding) (pc : Nat) (bit : Bool) (s : State) : State :=
  let dev := deviationOf pc o.c s.setup.dCut
  let within := decide (dev.natAbs ≤ s.setup.cutTolerance)
  let st : BoundaryStatus := if within then .confirmed else .deviated
  let held := holdsEntry .confirmDeadline o.plate s
  let expected := low32 (o.c + s.setup.dCut)
  let s := changeBoundary o.plate ⟨st, none, some pc, some dev, some (heldDiff pc s.setup.dCut)⟩ s
  let s := if within then s else raise .cutDeviation none expected (low32 pc) s
  let s := clearOutstanding (removeEntry .confirmDeadline o.plate s)
  let s := setCapture pc bit (if within then .confirmed else .deviated) s
  let s := s.count fun r =>
    if within then { r with cutsConfirmed := bump32 r.cutsConfirmed }
    else { r with cutsDeviated := bump32 r.cutsDeviated }
  let s := gradeTest s
  if held then afterDeparture s else s

/-- The edge is stale (R108). -/
def staleEdge (pc : Nat) (bit : Bool) (s : State) : State :=
  let s := raise .confirmStale none (low32 pc) (if bit then 1 else 0) s
  (setCapture pc bit .stale s).count fun r => { r with staleConfirms := bump32 r.staleConfirms }

/-- A rising edge of CUT_ACK with the sampled bit (R17, R108): Pc is P at the edge. -/
def ackRise (bit : Bool) (s : State) : State :=
  let s := s.withCutter { s.cutter with ackHigh := true }
  match s.cutter.outstanding with
  | none => staleEdge s.pos.p bit s
  | some o => if o.seq == bit then confirmCut o s.pos.p bit s else staleEdge s.pos.p bit s

/-- The falling edge of CUT_ACK (R106): the pending cut is issued when no cut is outstanding. -/
def ackFall (s : State) : State :=
  let s := s.withCutter { s.cutter with ackHigh := false }
  match s.cutter.pendingCut with
  | none => s
  | some p =>
    if s.cutter.busy then s
    else
      let held := holdsEntry .issueLimit p.plate s
      let s := issuePending s
      if held then afterDeparture s else s

/-! ### Hold and fault (R110, R111) -/

/-- A hold comes into force (R110): the pending cut becomes SKIPPED, the outstanding cut is not affected. -/
def holdOnset (s : State) : State :=
  match s.cutter.pendingCut with
  | none => s
  | some p =>
    let held := holdsEntry .issueLimit p.plate s
    let s := gradeTest (clearPendingCut (skipBoundary p.plate (removeEntry .issueLimit p.plate s)))
    if held then afterDeparture s else s

/-- CUTTER_HOLD's effect (R110). -/
def requestHold (s : State) : State :=
  let was := s.cutter.holdInForce
  let s := s.withCutter { s.cutter with requestedHold := true }
  if was then s else holdOnset s

/-- CUTTER_RELEASE's effect (R110): nothing is issued at once. -/
def releaseHold (s : State) : State := s.withCutter { s.cutter with requestedHold := false }

/-- The rising edge of CUTTER_FAULT (R111). -/
def faultRise (s : State) : State :=
  let was := s.cutter.holdInForce
  let s := s.withCutter { s.cutter with faultHigh := true }
  let d1 := if s.cutter.outstanding.isSome then 1 else 0
  let d2 := (s.cutter.outstanding.map Outstanding.plate).getD 0
  let s := raise .cutterFault none d1 d2 s
  if was then s else holdOnset s

/-- The falling edge of CUTTER_FAULT (R111): nothing is raised. -/
def faultFall (s : State) : State := s.withCutter { s.cutter with faultHigh := false }

end Sys2Proof.Machine
end

