-- ==== Sys2Proof/Machine/PositionOps.lean ====
section
/-! DEFINITION. The Position Unit: increments, P advances, triggers, firing lists, trigger lookups and the stall report
(R2 to R13). -/

namespace Sys2Proof.Machine

/-! ### Quadrature (R2) -/

/-- The place of an input pair (ENC_A, ENC_B) in the forward cycle (0,0), (1,0), (1,1), (0,1). -/
def cyclePlace (a b : Bool) : Nat :=
  match a, b with
  | false, false => 0
  | true, false => 1
  | true, true => 2
  | false, true => 3

/-- What a change of the input pair is. -/
inductive Increment where
  | forward
  | reverse
  | neither
deriving DecidableEq, Repr, Inhabited

/-- The increment from one pair to another (R2): forward to the next pair of the cycle, reverse to the one before it,
neither when both inputs changed or none did. -/
def incrementOf (oldA oldB newA newB : Bool) : Increment :=
  match (cyclePlace newA newB + 4 - cyclePlace oldA oldB) % 4 with
  | 1 => .forward
  | 3 => .reverse
  | _ => .neither

/-! ### Triggers (R7 to R10) -/

/-- The trigger history with the slot of a trigger written (R9). -/
def writeHistory (t p : Nat) (h : List (Option HistorySlot)) : List (Option HistorySlot) :=
  h.set (t % Config.historySlots) (some ⟨t, p⟩)

/-- A line trigger issued (R7, R8): the pulses, the number, the history, trigger seen, then the Table Store's switch. -/
def issueTrigger (s : State) : State :=
  let t := (s.pos.trigger + 1) % 65536
  let s := s.withPulses { s.pulses with trig := s.pulses.trig + 1 }
  let s := s.withPos { s.pos with
    phase := 0, trigger := t, history := writeHistory t s.pos.p s.pos.history, triggerSeen := true }
  switchDetect (some t) s

/-- A P advance's part in the trigger phase (R7). -/
def advancePhase (s : State) : State :=
  let phase := s.pos.phase + 1
  if s.setup.linePitch ≤ phase then issueTrigger s else s.withPos { s.pos with phase := phase }

/-- A trigger lookup (R10): the position, or none when the number is stale. -/
def lookupTrigger (t : Nat) (s : State) : Option Nat :=
  if s.pos.triggerSeen && decide ((s.pos.trigger + 65536 - t % 65536) % 65536 < Config.historySlots) then
    match s.pos.history.getD (t % Config.historySlots) none with
    | some x => if x.trigger == t then some x.position else none
    | none => none
  else none

/-! ### Advances of P (R3, R13) -/

/-- The firing list of an advance taken out of the schedule (R13). -/
def takeFiring (s : State) : State :=
  s.withPos { s.pos with
    schedule := s.pos.schedule.filter fun e => decide (s.pos.p < e.fire)
    firing := s.pos.firing ++ s.pos.schedule.filter fun e => decide (e.fire ≤ s.pos.p) }

/-- The divert wait's fire position is P (R130). -/
def waitReached (s : State) : Bool :=
  match s.grader.wait with
  | some w => w.fire == s.pos.p
  | none => false

/-- The schedule's part in a P advance: the firing list is handed, then what follows its departure (R13, R89, R130; log
entry 4). -/
def fireSchedule (s : State) : State :=
  let s1 := takeFiring s
  let n := s1.pos.firing.length
  let s2 := handFiring n s1
  if n = 0 then (if waitReached s2 then retryDivert s2 else s2) else afterDeparture s2

/-- Whether any lane is considered for H (R81). -/
def anyConsidered (s : State) : Bool := (lowestHorizon s).isSome

/-- A P advance (R3, R5, R7, R13, R82). -/
def advanceP (s : State) : State :=
  let s := s.withPos { s.pos with p := s.pos.p + 1, stallTimer := 0, stallArmed := true }
  let s := fireSchedule (advancePhase s)
  if anyConsidered s then s else recomputeH s

/-- A forward increment (R3): the debt is paid first; at the upper bound P holds. -/
def forwardIncrement (s : State) : State :=
  if s.pos.debt = 0 then
    if s.pos.p < Config.positionRange - 1 then advanceP s else s
  else if s.pos.debt = 1 then s.withPos { s.pos with debt := 0, excursion := none, reverseArmed := true }
  else s.withPos { s.pos with debt := s.pos.debt - 1 }

/-- A reverse increment (R4); at a debt of 255 ENCODER_REVERSE is raised once per excursion. -/
def reverseIncrement (s : State) : State :=
  if s.pos.debt = 0 then s.withPos { s.pos with debt := 1, excursion := some s.pos.p }
  else if s.pos.debt < 255 then s.withPos { s.pos with debt := s.pos.debt + 1 }
  else if s.pos.reverseArmed then
    raise .encoderReverse none (low32 (s.pos.excursion.getD 0)) 0 (s.withPos { s.pos with reverseArmed := false })
  else s

/-- A change of the encoder inputs (R2): the quadrature state takes the new pair. -/
def encoderChange (a b : Bool) (s : State) : State :=
  let i := incrementOf s.pos.encA s.pos.encB a b
  let s := s.withPos { s.pos with encA := a, encB := b }
  match i with
  | .forward => forwardIncrement s
  | .reverse => reverseIncrement s
  | .neither => s

/-! ### The stall report (R5, R6) -/

/-- The stall timer has reached `stall_ms` with the report armed. -/
def stallDue (s : State) : Bool := s.pos.stallArmed && decide (s.setup.stallMs ≤ s.pos.stallTimer)

/-- The expiry of the stall timer (R5): RIBBON_STALLED is raised and the report disarmed, where it is due. -/
def stallExpiry (s : State) : State :=
  if stallDue s then
    raise .ribbonStalled none s.setup.stallMs s.pos.debt (s.withPos { s.pos with stallArmed := false })
  else s

end Sys2Proof.Machine
end

