-- ==== Sys2Proof/Machine/Detector.lean ====
section
/-! DEFINITION. The Detector datapath: window, zones, deviations, hits, background, seeding and runs (R38 to R50). -/

namespace Sys2Proof.Machine

/-- The column is inside the window of a lane's entry (R39). -/
def LaneEntry.inWindow (e : LaneEntry) (c : Nat) : Bool := decide (e.winLo ≤ c) && decide (c ≤ e.winHi)

/-- A lane's fifteen zone boundaries b1 to b15 in a DETECT bank. -/
def laneBoundaries (t : DetectTables) (i : LaneId) : List Nat := (t.boundaries.drop (i.val * 15)).take 15

/-- A lane's sixteen threshold pairs in a DETECT bank. -/
def laneThresholds (t : DetectTables) (i : LaneId) : List Threshold := (t.thresholds.drop (i.val * 16)).take 16

/-- The zone of a column: the largest z with b_z ≤ c, zone 0 beginning at `win_lo` (R40). -/
def zoneOf (boundaries : List Nat) (c : Nat) : Nat :=
  (boundaries.zipIdx 1).foldl (fun z b => if b.1 ≤ c then b.2 else z) 0

/-- A pixel value is saturated (00: 0 and 1023). -/
def saturated (p : Nat) : Bool := p == 0 || p == 1023

/-- A hit (R42, R43): its column, polarity, deviation magnitude and SAT mark. -/
structure Hit where
  column : Nat
  polarity : Polarity
  magnitude : Nat
  sat : Bool
deriving DecidableEq, Repr, Inhabited

/-- The deviation 64·p − B (R41). -/
def deviation (p b : Nat) : Int := 64 * (p : Int) - (b : Int)

/-- The polarity of a deviation that is a hit under a zone's thresholds (R42). -/
def hitPolarity (t : Threshold) (d : Int) : Option Polarity :=
  if d ≤ -(64 * (t.td : Int)) then some .dark
  else if 64 * (t.tb : Int) ≤ d then some .bright
  else none

/-- The background after a non-hit: B + floor((64·p − B) / 2^k) (R44). -/
def adapt (k p b : Nat) : Nat := ((b : Int) + deviation p b / (2 ^ k : Int)).toNat

/-- One column inside the window on a detected line (R41 to R46): the column after it, and its hit. -/
def detectColumn (t : Threshold) (k c p : Nat) (x : Column) : Column × Option Hit :=
  if x.seeded then
    let d := deviation p x.b
    match hitPolarity t d with
    | some pol => (x, some ⟨c, pol, d.natAbs, saturated p⟩)
    | none => (⟨adapt k p x.b, true⟩, none)
  else (⟨64 * p, true⟩, none)

/-- A column outside the window, or not present in the line (R39): B kept, the mark cleared. -/
def Column.unmark (x : Column) : Column := ⟨x.b, false⟩

/-- The columns of a detected line from column `c` on (R39 to R46): the profile after it, and the hits in column order. -/
def detectColumns (e : LaneEntry) (bs : List Nat) (ts : List Threshold) :
    Nat → List Nat → List Column → List Column × List Hit
  | _, _, [] => ([], [])
  | _, [], x :: xs => ((x :: xs).map Column.unmark, [])
  | c, p :: ps, x :: xs =>
    let r := detectColumns e bs ts (c + 1) ps xs
    if e.inWindow c then
      let y := detectColumn (ts.getD (zoneOf bs c) default) e.k c p x
      (y.1 :: r.1, y.2.toList ++ r.2)
    else (x.unmark :: r.1, r.2)

/-- The profile after a seed line from column `c` on (R39, R45). -/
def seedColumns (e : LaneEntry) : Nat → List Nat → List Column → List Column
  | _, _, [] => []
  | _, [], x :: xs => (x :: xs).map Column.unmark
  | c, p :: ps, x :: xs =>
    (if e.inWindow c then ⟨64 * p, true⟩ else x.unmark) :: seedColumns e (c + 1) ps xs

/-- A run (R48). -/
structure Run where
  first : Nat
  last : Nat
  polarity : Polarity
  pixels : Nat
  peak : Nat
  sat : Bool
deriving DecidableEq, Repr, Inhabited

/-- The run of a single hit. -/
def Run.ofHit (h : Hit) : Run := ⟨h.column, h.column, h.polarity, 1, h.magnitude, h.sat⟩

/-- A run with a hit put in front of it. -/
def Run.consHit (h : Hit) (r : Run) : Run := ⟨h.column, r.last, r.polarity, r.pixels + 1, max h.magnitude r.peak, h.sat || r.sat⟩

/-- The hits gathered into runs (R47): a hit joins the run after it when they share a polarity and at most G non-hit columns
lie between them. -/
def formRuns (g : Nat) : List Hit → List Run
  | [] => []
  | h :: hs =>
    match formRuns g hs with
    | [] => [Run.ofHit h]
    | r :: rs =>
      if r.polarity == h.polarity && decide (r.first ≤ h.column + 1 + g) then Run.consHit h r :: rs
      else Run.ofHit h :: r :: rs

/-- The saturated pixels of a line inside the window (R23, R28). -/
def satCount (e : LaneEntry) (pixels : List Nat) : Nat :=
  ((pixels.take (e.winHi + 1)).drop e.winLo).countP saturated

/-- A seed line or re-seed line handed to the datapath (R38, R45). -/
def seedLine (i : LaneId) (b : BankId) (l : Line) (s : State) : State :=
  s.setProfile i (seedColumns (s.laneEntry b i) 0 l.pixels (s.lane i).profile)

/-- The runs dropped past the 64th: RUN_OVERFLOW and the report's count (R49). -/
def overflowRuns (i : LaneId) (dropped trigger : Nat) (s : State) : State :=
  if dropped = 0 then s
  else (raise .runOverflow (some i) dropped trigger s).count fun r =>
    { r with runsOverflowed := satAdd Config.max32 r.runsOverflowed dropped }

/-- A detected line handed to the datapath (R38 to R50): the state with the profile updated and the kept runs. -/
def detectLine (i : LaneId) (b : BankId) (l : Line) (s : State) : State × List Run :=
  let t := s.detectTables b
  let e := s.laneEntry b i
  let r := detectColumns e (laneBoundaries t i) (laneThresholds t i) 0 l.pixels (s.lane i).profile
  let runs := formRuns e.g r.2
  (overflowRuns i (runs.length - Config.runsKept) l.trigger (s.setProfile i r.1), runs.take Config.runsKept)

end Sys2Proof.Machine
end

