-- ==== Sys2Proof/Machine/TrackerOps.lean ====
section
/-! DEFINITION. The Blob Tracker: candidates, opening, joining, merging, ageing, closing, measurement, placement,
classification and FLAW records (R52 to R71). -/

namespace Sys2Proof.Machine

/-! ### Slots and age order -/

/-- One slot of the table. -/
def Tracker.slot (t : Tracker) (j : Nat) : Slot := t.slots.getD j .free

/-- A slot replaced, its place in age order kept. -/
def Tracker.setSlot (t : Tracker) (j : Nat) (x : Slot) : Tracker := { t with slots := t.slots.set j x }

/-- A slot made FREE: it leaves the age order. -/
def Tracker.free (t : Tracker) (j : Nat) : Tracker := ⟨t.slots.set j .free, t.age.filter (· != j)⟩

/-- A slot made OPEN or CONTINUATION: it takes the youngest place (4.1). -/
def Tracker.enter (t : Tracker) (j : Nat) (x : Slot) : Tracker := ⟨t.slots.set j x, t.age.filter (· != j) ++ [j]⟩

/-- Several slots made FREE. -/
def Tracker.freeAll (t : Tracker) (js : List Nat) : Tracker := js.foldl Tracker.free t

/-- The slot is FREE. -/
def Slot.isFree : Slot → Bool
  | .free => true
  | .blob _ => false
  | .continuation _ => false

/-- The slot is OPEN. -/
def Slot.isOpen : Slot → Bool
  | .free => false
  | .blob _ => true
  | .continuation _ => false

/-- The slot is CONTINUATION. -/
def Slot.isContinuation : Slot → Bool
  | .free => false
  | .blob _ => false
  | .continuation _ => true

/-! ### Candidates (R54) -/

/-- A span overlaps the columns [first − 1, last + 1] of a run (R54). -/
def Span.touches (x : Span) (r : Run) : Bool := decide (r.first ≤ x.hi + 1) && decide (x.lo ≤ r.last + 1)

/-- The union of two spans. -/
def Span.union (x y : Span) : Span := ⟨min x.lo y.lo, max x.hi y.hi⟩

/-- A run's columns. -/
def Run.span (r : Run) : Span := ⟨r.first, r.last⟩

/-- The slot is a candidate of a run (R54); `lim` gives the L of a bank tag. -/
def Slot.candidate (lim : BankId → Nat) (r : Run) : Slot → Bool
  | .blob b => b.polarity == r.polarity && decide (b.idle ≤ lim b.tag) && b.lastSpan.touches r && !b.openedNow
  | .free => false
  | .continuation _ => false

/-- The slot is a continuation match of a run (R54). -/
def Slot.continuationMatch (r : Run) : Slot → Bool
  | .continuation c => c.polarity == r.polarity && decide (c.idle ≤ c.idleLimit) && c.lastSpan.touches r
  | .free => false
  | .blob _ => false

/-- A run's candidates in age order. -/
def Tracker.candidates (t : Tracker) (lim : BankId → Nat) (r : Run) : List Nat :=
  t.age.filter fun j => (t.slot j).candidate lim r

/-- A run's continuation matches in age order. -/
def Tracker.continuationMatches (t : Tracker) (r : Run) : List Nat :=
  t.age.filter fun j => (t.slot j).continuationMatch r

/-! ### Opening, joining, merging (R55 to R58) -/

/-- The blob a run opens (R55). -/
def Blob.opened (r : Run) (position : Nat) (tag : BankId) (continues : Bool) : Blob where
  polarity := r.polarity
  lead := position
  lastJoined := position
  idle := 0
  colMin := r.first
  colMax := r.last
  lastSpan := r.span
  pendingSpan := some r.span
  pixels := min 65535 r.pixels
  peak := r.peak
  sat := r.sat
  lines := 1
  continues := continues
  tag := tag
  openedNow := true

/-- The union of two spans that may be absent. -/
def unionPending (x y : Option Span) : Option Span :=
  match x, y with
  | some a, some b => some (a.union b)
  | some a, none => some a
  | none, b => b

/-- A run joined to a blob (R56). -/
def Blob.join (r : Run) (continued : Bool) (b : Blob) : Blob :=
  { b with
    colMin := min b.colMin r.first
    colMax := max b.colMax r.last
    pixels := satAdd 65535 b.pixels r.pixels
    peak := max b.peak r.peak
    sat := b.sat || r.sat
    pendingSpan := unionPending b.pendingSpan (some r.span)
    continues := b.continues || continued }

/-- Another candidate folded into the survivor (R58). -/
def Blob.fold (b x : Blob) : Blob :=
  { b with
    lead := min b.lead x.lead
    colMin := min b.colMin x.colMin
    colMax := max b.colMax x.colMax
    pixels := satAdd 65535 b.pixels x.pixels
    peak := max b.peak x.peak
    sat := b.sat || x.sat
    continues := b.continues || x.continues
    pendingSpan := unionPending b.pendingSpan x.pendingSpan }

/-- The lead of an OPEN slot; 0 for another. -/
def Slot.leadOf : Slot → Nat
  | .blob b => b.lead
  | .free => 0
  | .continuation _ => 0

/-- The survivor among candidates in age order: the lowest lead, the earliest of equals (R58). -/
def Tracker.survivor (t : Tracker) : List Nat → Option Nat
  | [] => none
  | j :: js =>
    match t.survivor js with
    | none => some j
    | some m => if (t.slot j).leadOf ≤ (t.slot m).leadOf then some j else some m

/-- The candidate in slot `x` folded into the blob in slot `m`, its own slot FREE (R58). -/
def Tracker.foldInto (m : Nat) (t : Tracker) (x : Nat) : Tracker :=
  match t.slot m, t.slot x with
  | .blob b, .blob c => (t.setSlot m (.blob (b.fold c))).free x
  | _, _ => t

/-- The run joined to its only candidate, or to the survivor with the others folded in (R56, R58). -/
def Tracker.joinRun (t : Tracker) (r : Run) (m : Nat) (cands conts : List Nat) : Tracker :=
  match t.slot m with
  | .blob b =>
    ((cands.filter (· != m)).foldl (Tracker.foldInto m) (t.setSlot m (.blob (b.join r (!conts.isEmpty))))).freeAll conts
  | .free => t
  | .continuation _ => t

/-- The slot a run without candidates opens in (R55): the oldest continuation match, else the lowest-numbered FREE slot,
else the oldest CONTINUATION slot; none when every slot is OPEN. -/
def Tracker.openingSlot (t : Tracker) (conts : List Nat) : Option Nat :=
  match conts with
  | j :: _ => some j
  | [] =>
    match t.slots.findIdx? Slot.isFree with
    | some j => some j
    | none => t.age.find? fun j => (t.slot j).isContinuation

/-- One run taken (R54 to R58); the answer says whether it was refused. -/
def Tracker.takeRun (lim : BankId → Nat) (tag : BankId) (position : Nat) (r : Run) (t : Tracker) : Tracker × Bool :=
  let cands := t.candidates lim r
  let conts := t.continuationMatches r
  match t.survivor cands with
  | some m => (t.joinRun r m cands conts, false)
  | none =>
    match t.openingSlot conts with
    | some j => ((t.freeAll conts).enter j (.blob (Blob.opened r position tag (!conts.isEmpty))), false)
    | none => (t, true)

/-! ### The end of a line (R59 to R62) -/

/-- An OPEN blob at the end of a line (R59, R60). -/
def Blob.endLine (position : Nat) (b : Blob) : Blob :=
  match b.pendingSpan with
  | some x =>
    { b with
      lines := if b.openedNow then b.lines else min 4095 (b.lines + b.idle + 1)
      idle := 0
      lastJoined := position
      lastSpan := x
      pendingSpan := none
      openedNow := false }
  | none => { b with idle := b.idle + 1 }

/-- A slot at the end of a line (R59, R60, R62). -/
def Slot.endLine (position : Nat) : Slot → Slot
  | .free => .free
  | .blob b => .blob (b.endLine position)
  | .continuation c => if c.idleLimit < c.idle + 1 then .free else .continuation { c with idle := c.idle + 1 }

/-- The table at the end of a line; slots that become FREE leave the age order. -/
def Tracker.endLine (position : Nat) (t : Tracker) : Tracker :=
  let slots := t.slots.map (Slot.endLine position)
  ⟨slots, t.age.filter fun j => !(slots.getD j .free).isFree⟩

/-- Why a slot is due to close. -/
inductive Due where
  | idle
  | segment
deriving DecidableEq, Repr, Inhabited

/-- Whether a slot is due to close at the end of a line (R60, R61). -/
def Slot.due (entry : BankId → LaneEntry) : Slot → Option Due
  | .blob b =>
    if (entry b.tag).idleLines < b.idle then some .idle
    else if (entry b.tag).maxBlobLines ≤ b.lines then some .segment
    else none
  | .free => none
  | .continuation _ => none

/-! ### Measurement, placement, classification (R65 to R69) -/

/-- A measured blob (R65, R66). -/
structure Measure where
  lead : Nat
  trail : Nat
  length : Nat
  width : Nat
  centre : Nat
  peak : Nat
deriving DecidableEq, Repr, Inhabited

/-- The measurement of a closing blob with its lane's entry and the setup in force (R65, R66). The length is formed from the
sum at full width (00, "Arithmetic conventions"); the trail is the sum as its 48-bit field holds it (log entry 7). -/
def measure (p : Setup) (e : LaneEntry) (b : Blob) : Measure :=
  let stop := b.lastJoined + p.linePitch
  ⟨b.lead, heldSum (stop - 1), (stop - b.lead) * p.countNm / 1000, (b.colMax - b.colMin + 1) * e.pitchUm,
    e.x0 + (b.colMin + b.colMax) * e.pitchUm / 2, b.peak / 64⟩

/-- What placement and classification make of a blob. -/
inductive Verdict where
  | overlap
  | edge
  | noise
  | flaw (cls : Nat)
deriving DecidableEq, Repr, Inhabited

/-- The polarity selector admits a polarity (R69). -/
def PolaritySelector.admits : PolaritySelector → Polarity → Bool
  | .either, _ => true
  | .dark, .dark => true
  | .dark, .bright => false
  | .bright, .bright => true
  | .bright, .dark => false

/-- The SAT selector admits a SAT mark (R69). -/
def SatSelector.admits : SatSelector → Bool → Bool
  | .any, _ => true
  | .satOnly, sat => sat
  | .noSat, sat => !sat

/-- A value lies in a rule's range; a maximum of 0 means none (R69). -/
def inRange (lo hi v : Nat) : Bool := decide (lo ≤ v) && (hi == 0 || decide (v ≤ hi))

/-- A rule matches a blob (R69). -/
def ClassRule.admits (c : ClassRule) (pol : Polarity) (sat : Bool) (m : Measure) : Bool :=
  c.enable && c.polarity.admits pol && inRange c.lengthMin c.lengthMax m.length
    && inRange c.widthMin c.widthMax m.width && decide (c.peakMin ≤ m.peak) && c.sat.admits sat

/-- The class a table gives a blob: that of the first enabled rule that matches (R69). -/
def classify (rules : List ClassRule) (pol : Polarity) (sat : Bool) (m : Measure) : Option Nat :=
  (rules.find? fun c => c.admits pol sat m).map ClassRule.code

/-- A cross position lies in [lo, hi). -/
def inSpan (lo hi v : Nat) : Bool := decide (lo ≤ v) && decide (v < hi)

/-- Placement, then classification (R67, R69). -/
def judge (p : Setup) (e : LaneEntry) (rules : List ClassRule) (b : Blob) (m : Measure) : Verdict :=
  if !inSpan e.ownLo e.ownHi m.centre then .overlap
  else if !inSpan p.netLo p.netHi m.centre then .edge
  else
    match classify rules b.polarity b.sat m with
    | some k => .flaw k
    | none => .noise

/-! ### Closing (R63, R64, R70, R71) -/

/-- The FLAW record's copy to the trunk (R71). -/
def copyFlaw (r : FlawRecord) (s : State) : State :=
  if s.trunk.flaws.length < Config.flawSlots then s.withTrunk { s.trunk with flaws := s.trunk.flaws ++ [r] }
  else s.withTrunk { s.trunk with flawDrops := bump32 s.trunk.flawDrops }

/-- The FLAW record of a blob (R70). -/
def flawRecord (id : Nat) (i : LaneId) (cls : Nat) (b : Blob) (m : Measure) (cont : Bool) : FlawRecord :=
  ⟨id, i, cls, b.polarity, m.lead, m.trail, m.centre, m.width, m.length, m.peak, b.pixels, b.sat, cont, b.continues,
    b.tag⟩

/-- What a closing blob comes to (steps 1 to 4 of R63): a count, or a FLAW record for the map and the trunk. -/
def settleBlob (i : LaneId) (b : Blob) (cont : Bool) (s : State) : State :=
  let e := s.laneEntry b.tag i
  let m := measure s.setup e b
  match judge s.setup e (s.detectTables b.tag).classes b m with
  | .overlap => s.count fun r => { r with overlapDrops := bump32 r.overlapDrops }
  | .edge => s.count fun r => { r with edgeDrops := bump32 r.edgeDrops }
  | .noise => s.count fun r => { r with noiseDrops := bump32 r.noiseDrops }
  | .flaw k =>
    let id := (s.flawId + 1) % 2 ^ 32
    let r := flawRecord id i k b m cont
    copyFlaw r (enterFlaw r (s.withFlawId id))

/-- The close of the blob in a slot (R63); a segment leaves a CONTINUATION (R61). -/
def closeSlot (i : LaneId) (segment : Bool) (s : State) (j : Nat) : State :=
  match (s.lane i).tracker.slot j with
  | .blob b =>
    let s := settleBlob i b segment s
    let t := (s.lane i).tracker
    let t := if segment then
        t.enter j (.continuation ⟨b.polarity, b.lastSpan, 0, (s.laneEntry b.tag i).idleLines⟩)
      else t.free j
    recomputeH (settleDetect (s.setTracker i t))
  | .free => s
  | .continuation _ => s

/-- The blobs that are due closed in age order (step 3 of R53). -/
def closeDue (i : LaneId) (s : State) : State :=
  let t := (s.lane i).tracker
  let entry (b : BankId) : LaneEntry := s.laneEntry b i
  t.age.foldl (fun s j =>
    match (t.slot j).due entry with
    | some .idle => closeSlot i false s j
    | some .segment => closeSlot i true s j
    | none => s) s

/-- A flush (R64): every OPEN blob closed in age order, then every CONTINUATION slot FREE. -/
def flush (i : LaneId) (s : State) : State :=
  let t := (s.lane i).tracker
  let s := (t.age.filter fun j => (t.slot j).isOpen).foldl (closeSlot i false) s
  let t := (s.lane i).tracker
  s.setTracker i (t.freeAll (t.age.filter fun j => (t.slot j).isContinuation))

/-! ### The handling of a line (R53) -/

/-- One run taken by a lane's tracker, refusals counted (R53 step 1, R57). -/
def takeRun (i : LaneId) (tag : BankId) (position : Nat) (x : State × Nat) (r : Run) : State × Nat :=
  let s := x.1
  let lim (b : BankId) : Nat := (s.laneEntry b i).idleLines
  let t := (s.lane i).tracker.takeRun lim tag position r
  let s := settleDetect (s.setTracker i t.1)
  if t.2 then (s.count (fun r => { r with blobsRefused := bump32 r.blobsRefused }), x.2 + 1) else (s, x.2)

/-- Steps 2 and 3 of R53. -/
def endOfLine (i : LaneId) (position : Nat) (s : State) : State :=
  closeDue i (s.setTracker i ((s.lane i).tracker.endLine position))

/-- A run list handled (R53). -/
def trackRuns (i : LaneId) (tag : BankId) (position trigger : Nat) (runs : List Run) (s : State) : State :=
  let x := runs.foldl (takeRun i tag position) (s, 0)
  let s := endOfLine i position x.1
  if x.2 = 0 then s else raise .blobTableFull (some i) x.2 trigger s

/-- Idle lines handled one after another (R53): no blob joins on them. -/
def trackIdle (i : LaneId) : Nat → State → State
  | 0, s => s
  | n + 1, s => trackIdle i n (endOfLine i 0 s)

end Sys2Proof.Machine
end

