-- ==== Sys2Proof/Machine/ReceiverOps.lean ====
section
/-! DEFINITION. The Lane Receiver: taking a line, the lane states, silence and link loss, lane control, stopping and the
forward slot (R20 to R35). -/

namespace Sys2Proof.Machine

/-! ### The forward slot (R35) -/

/-- A line as the forward slot holds it (R35). -/
def forwardLineOf (i : LaneId) (l : Line) (position : Option Nat) : ForwardLine :=
  ⟨i, l.trigger, position, l.pixelCount, l.flags, l.payload⟩

/-- A line copied into a forward slot (R35): an older line is discarded and counted. -/
def Receiver.copyForward (f : ForwardLine) (x : Receiver) : Receiver :=
  match x.slot with
  | some _ => { x with slot := some f, forwardDropped := bump32 x.forwardDropped }
  | none => { x with slot := some f }

/-- A line copied into its lane's forward slot where the forward mode is `mode` (R35). -/
def copyIf (mode : ForwardMode) (i : LaneId) (l : Line) (position : Option Nat) (s : State) : State :=
  if (s.rx i).forward = mode then s.modRx i (Receiver.copyForward (forwardLineOf i l position)) else s

/-! ### Entry to the lane states -/

/-- The lane state set; a change of a lane's state recomputes H (R82). -/
def setLaneState (i : LaneId) (st : LaneState) (s : State) : State :=
  recomputeH (s.modRx i fun x => { x with state := st })

/-- The end of the glass of the lane's last taken line: last taken position + `line_pitch` (R29, R30, R33), at full width; a
gap that opens there takes it as a 48-bit field holds it (log entry 7). A lane that has
taken no line gives S0, as its lane horizon does. -/
def lastGlass (i : LaneId) (s : State) : Nat :=
  match (s.rx i).lastPosition with
  | some x => glassEnd s x
  | none => startPosition s

/-- Steps 1 to 3 of an entry to WAITING at an enable in INSPECT (R22, R33). -/
def enterWaiting (i : LaneId) (start : Nat) (s : State) : State :=
  openGapIfNone i start (s.modRx i fun x =>
    { x with lastTrigger := none, lastPosition := none, seeded := false, silenceTimer := 0, satRun := 0 })

/-- Entry to SILENT (R29) with the gap start that the cause gives; the line binding is released as the lane leaves RUNNING
(R27). -/
def enterSilent (i : LaneId) (gapStart : Nat) (s : State) : State :=
  let s := if (s.rx i).state == .running then flush i s else s
  let s := openGapIfNone i gapStart s
  let s := s.modRx i fun x => { x with silentSince := some s.msTime, satRun := 0 }
  setLaneState i .silent (releaseLineBinding i s)

/-- A WAITING or RUNNING lane goes SILENT for silence (cause 1) or link loss (cause 2), and LANE_SILENT is raised (R30). -/
def goSilent (i : LaneId) (cause : Nat) (s : State) : State :=
  let s := enterSilent i (heldSum (lastGlass i s)) s
  raise .laneSilent (some i) cause (low32 ((s.rx i).openGap.getD 0)) s

/-- The lane counts silence: it is WAITING or RUNNING (R30). -/
def Receiver.listening (x : Receiver) : Bool := x.state == .waiting || x.state == .running

/-- The lane's silence timer has reached `silent_ms` in WAITING or RUNNING (R30). -/
def silenceDue (i : LaneId) (s : State) : Bool :=
  (s.rx i).listening && decide (s.setup.silentMs ≤ (s.rx i).silenceTimer)

/-- The expiry of a lane's silence timer (R30), where it is due. -/
def silenceExpiry (i : LaneId) (s : State) : State := if silenceDue i s then goSilent i 1 s else s

/-- A lane link reported DOWN (R30). -/
def linkDown (i : LaneId) (s : State) : State :=
  let s := s.modRx i fun x => { x with link := .down }
  if (s.rx i).listening then goSilent i 2 s else s

/-! ### A good line -/

/-- A good line taken: the silence timer restarts and it becomes the last taken line (R19). -/
def Receiver.take (t position : Nat) (x : Receiver) : Receiver :=
  { x with silenceTimer := 0, lastTrigger := some t, lastPosition := some position }

/-- A line that lies in handling, and the bank in effect for it. -/
structure Taken where
  line : Line
  position : Nat
  bank : BankId
  behind : Bool
deriving DecidableEq, Repr, Inhabited

/-- A line whose lamp and saturated count suit a seed or resume line (R23, R31). -/
def suitable (e : LaneEntry) (l : Line) : Bool := l.illumOk && decide (satCount e l.pixels ≤ e.satLimit)

/-- A line that is detected (R27): its runs admitted, or discarded behind the horizon with one idle line. -/
def inspectLine (i : LaneId) (x : Taken) (s : State) : State :=
  let r := detectLine i x.bank x.line s
  let s := if x.behind then
      (trackIdle i 1 r.1).count fun c => { c with behindHorizon := bump32 c.behindHorizon }
    else
      (trackRuns i x.bank x.position x.line.trigger r.2 r.1).count fun c =>
        { c with linesInspected := c.linesInspected.set i (bump32 (c.linesInspected.get i)) }
  if r.2.isEmpty then s else copyIf .hits i x.line (some x.position) s

/-- A good line in RUNNING with its lamp on (R28, R27): the saturation run, then detection, or SILENT at the 16th
consecutive saturated line. -/
def saturateLine (i : LaneId) (x : Taken) (s : State) : State :=
  let e := s.laneEntry x.bank i
  let n := satCount e x.line.pixels
  if n ≤ e.satLimit then inspectLine i x (s.modRx i fun r => { r with satRun := 0 })
  else if (s.rx i).satRun < 15 then inspectLine i x (s.modRx i fun r => { r with satRun := r.satRun + 1 })
  else
    let s := s.modRx i fun r => { r with satRun := 16 }
    enterSilent i x.position (raise .laneSaturated (some i) n e.satLimit s)

/-- The missing lines a good line reveals (R25): the number between the last taken trigger and its own. -/
def missingBefore (t last : Nat) : Nat := (t + 131072 - last % 65536 - 1) % 65536

/-- The missing lines a good line reveals in RUNNING, handled before it (R25). -/
def handleMissing (i : LaneId) (t position : Nat) (s : State) : State :=
  match (s.rx i).lastTrigger with
  | none => s
  | some last =>
    let m := missingBefore t last
    if m = 0 then s
    else
      let start := lastGlass i s
      let s := raise .laneSequence (some i) m t s
      let s := s.modRx i fun x => { x with missing := satAdd Config.max32 x.missing m }
      closedGap i start position (trackIdle i m s)

/-- A RUNNING lane releases its line binding at its first good line at or after T_sw (R27, R140). -/
def finishOldBank (i : LaneId) (t : Nat) (s : State) : State :=
  match s.store.tSw, (s.rx i).lineBinding with
  | some sw, some _ => if atOrAfter t sw then releaseLineBinding i s else s
  | _, _ => s

/-- A good line in RUNNING (R25 to R28). -/
def lineInRunning (i : LaneId) (x : Taken) (s : State) : State :=
  let s := handleMissing i x.line.trigger x.position (finishOldBank i x.line.trigger s)
  let s := s.modRx i (Receiver.take x.line.trigger x.position)
  if x.line.illumOk then saturateLine i x s
  else closedGap i x.position (glassEnd s x.position) (trackIdle i 1 s)

/-- A line seeds the background, the gap closes at the end of its glass or at H, and the lane enters RUNNING (R23, R31). -/
def seedFrom (i : LaneId) (x : Taken) (s : State) : State :=
  let s := closeGap i (max (glassEnd s x.position) s.map.h) (seedLine i x.bank x.line s)
  setLaneState i .running (s.modRx i fun r => { r with seeded := true })

/-- A good line in WAITING (R23). -/
def lineInWaiting (i : LaneId) (x : Taken) (s : State) : State :=
  let s := s.modRx i (Receiver.take x.line.trigger x.position)
  if suitable (s.laneEntry x.bank i) x.line then seedFrom i x s else s

/-- The lane must re-seed at its next suitable line (R31). -/
def mustReseed (i : LaneId) (s : State) : Bool :=
  !(s.rx i).seeded
    || decide (s.setup.reseedMs ≤ (s.msTime + 2 ^ 32 - (s.rx i).silentSince.getD s.msTime % 2 ^ 32) % 2 ^ 32)

/-- A good line in SILENT (R31). -/
def lineInSilent (i : LaneId) (x : Taken) (s : State) : State :=
  let s := s.modRx i (Receiver.take x.line.trigger x.position)
  if !suitable (s.laneEntry x.bank i) x.line then s
  else if mustReseed i s then seedFrom i x s
  else
    let s := closeGap i (max x.position s.map.h) s
    let s := s.modRx i fun r => { r with silenceTimer := 0, satRun := 0 }
    saturateLine i x (setLaneState i .running s)

/-- The line is out of order for its lane's state (R24 test 2). -/
def outOfOrder (x : Receiver) (t position : Nat) : Bool :=
  match x.state with
  | .running =>
    match x.lastTrigger with
    | some last => let d := (t + 65536 - last % 65536) % 65536; d == 0 || decide (32768 ≤ d)
    | none => false
  | .silent =>
    (match x.lastPosition with | some last => decide (position ≤ last) | none => false)
      || (match x.openGap with | some start => decide (position < start) | none => false)
  | .waiting => false
  | .idle => false
  | .disabled => false

/-- A good line handled by its lane's state; while it is in handling it holds the lane horizon (R81). -/
def handleGood (i : LaneId) (x : Taken) (s : State) : State :=
  let s := s.modRx i fun r => { r with inHand := some x.position }
  let s := match (s.rx i).state with
    | .waiting => lineInWaiting i x s
    | .running => lineInRunning i x s
    | .silent => lineInSilent i x s
    | .idle => s
    | .disabled => s
  recomputeH (s.modRx i fun r => { r with inHand := none })

/-- A line that passed the frame checks, in WAITING, RUNNING or SILENT: placed by its lookup and tested for order (R24),
then handled. A line that fails a test is dropped, and its handling still recomputes H (R82). -/
def placeLine (i : LaneId) (l : Line) (bank : Option BankId) (s : State) : State :=
  let found := lookupTrigger l.trigger s
  let s := copyIf .all i l found s
  match found with
  | none =>
    let s := s.modRx i fun x => { x with stale := bump32 x.stale }
    recomputeH (raise .laneStale (some i) l.trigger (if s.pos.triggerSeen then s.pos.trigger else 0) s)
  | some position =>
    if outOfOrder (s.rx i) l.trigger position then
      recomputeH (s.modRx i fun x => { x with outOfOrder := bump32 x.outOfOrder })
    else handleGood i ⟨l, position, bank.getD 0, decide (position < s.map.h)⟩ s

/-! ### A LINE frame (R20, R21) -/

/-- The frame's line, none where it is malformed (R20): the third check needs the bank in effect. -/
def checkedLine (i : LaneId) (f : Frame) (s : State) : Option Line :=
  match parseLine f with
  | none => none
  | some l =>
    match bankInEffect s i l.trigger with
    | none => some l
    | some b => if l.pixelCount == (s.laneEntry b i).pixelCount then some l else none

/-- A LINE frame that arrives on a lane link (R20, R21). -/
def lineArrives (i : LaneId) (f : Frame) (s : State) : State :=
  match (s.rx i).state with
  | .disabled => s
  | .idle =>
    match checkedLine i f s with
    | none => s.modRx i fun x => { x with malformed := bump32 x.malformed }
    | some l => copyIf .all i l none s
  | .waiting | .running | .silent =>
    match checkedLine i f s with
    | none => s.modRx i fun x => { x with malformed := bump32 x.malformed }
    | some l => placeLine i l (bankInEffect s i l.trigger) s

/-! ### Lane control (R33) -/

/-- Forward mode set; OFF discards the line in the slot (R33). -/
def setForward (i : LaneId) (m : ForwardMode) (s : State) : State :=
  s.modRx i fun x => { x with forward := m, slot := if m = .off then none else x.slot }

/-- The line in the slot discarded as the lane is disabled (R33). -/
def discardSlot (i : LaneId) (s : State) : State := s.modRx i fun x => { x with slot := none }

/-- An enable by R33's table. A combination that the table has no row for does not arise, and changes nothing. -/
def enableLane (i : LaneId) (s : State) : State :=
  match s.trunk.run, (s.rx i).state with
  | .inspect, .disabled => setLaneState i .waiting (enterWaiting i s.map.h s)
  | .standby, .disabled => setLaneState i .idle s
  | .stopping, .disabled => setLaneState i .idle s
  | _, _ => s

/-- A disable by R33's table, which discards the line in the slot. -/
def disableLane (i : LaneId) (s : State) : State :=
  let s := discardSlot i s
  match s.trunk.run, (s.rx i).state with
  | .standby, .idle => setLaneState i .disabled s
  | .stopping, .idle => setLaneState i .disabled s
  | .inspect, .waiting => setLaneState i .disabled s
  | .inspect, .silent => setLaneState i .disabled s
  | .inspect, .running =>
    let s := flush i s
    setLaneState i .disabled (releaseLineBinding i (openGap i (heldSum (lastGlass i s)) s))
  | _, _ => s

/-! ### Run transitions (R22, R34) -/

/-- A lane's part in RUN_START (R22, R173): a lane in IDLE enters WAITING with its gap at S0. The run state is still STANDBY,
so nothing is recomputed. -/
def startLane (start : Nat) (s : State) (i : LaneId) : State :=
  if (s.rx i).state == .idle then
    let s := enterWaiting i start s
    s.modRx i fun x => { x with lastClosedGap := none, lastGapStart := none, state := .waiting }
  else s

/-- The stop end E (R34): the lowest last taken position + `line_pitch` of the RUNNING lanes, compared at full width and held
in E's 48 bits (log entry 7), or P. -/
def stopEndOf (s : State) : Nat :=
  let ends := laneIds.filterMap fun i => if (s.rx i).state == .running then some (lastGlass i s) else none
  match ends with
  | [] => s.pos.p
  | x :: xs => heldSum (xs.foldl min x)

/-- A lane in WAITING, RUNNING or SILENT becomes IDLE (R34 step 4). MODEL'S CHOICE (log entry 28): R34 says of the silence
timer that it stops, and not what it then holds; the model sets it to 0. -/
def idleLane (x : Receiver) : Receiver :=
  match x.state with
  | .waiting | .running | .silent =>
    { x with state := .idle, lastTrigger := none, lastPosition := none, silenceTimer := 0, lineBinding := none }
  | .idle => x
  | .disabled => x

/-- The Lane Receivers' part in RUN_STOP (R34), with the stop end. H is not recomputed by its lane changes (log entry 6).
MODEL'S CHOICE (log entry 29): the lanes flush in ascending order, where 4.2 allows either order between two lanes. -/
def stopLanes (s : State) : State × Nat :=
  let s := laneIds.foldl (fun s i => if (s.rx i).state == .running then flush i s else s) s
  let e := stopEndOf s
  let s := laneIds.foldl (fun s i => closeGap i e s) s
  let s := laneIds.foldl (fun s i => s.modRx i idleLane) s
  (settleDetect s, e)

end Sys2Proof.Machine
end

