-- ==== Sys2Proof/Machine/ReportOps.lean ====
section
/-! DEFINITION. Shift closes and the shift timer (R157 to R162). -/

namespace Sys2Proof.Machine

/-- The open-gap share of a lane at a close (R159). -/
def gapShare (s : State) (i : LaneId) : Nat :=
  match (s.rx i).openGap with
  | some start => s.pos.p - max start s.report.current.openP
  | none => 0

/-- A lane's gap length with its open-gap share added (R159, R160 step 1). -/
def sharedGap (s : State) (i : LaneId) : Nat :=
  satAdd Config.max32 (s.report.current.gapLength.get i) (gapShare s i)

/-- The current report as it closes (R160 steps 1 and 2). -/
def closedReport (c : CloseCause) (s : State) : Report :=
  { s.report.current with
    closedBy := some c
    closeP := some s.pos.p
    closeMs := some s.msTime
    gapLength := ⟨sharedGap s 0, sharedGap s 1, sharedGap s 2, sharedGap s 3⟩
    overwrote := s.report.closed.isSome && s.report.unread }

/-- The Report Unit after a close (R160 steps 1, 2, 3 and 5), the new report opening at a position. -/
def ReportUnit.afterClose (u : ReportUnit) (r : Report) (c : CloseCause) (openP openMs : Nat) : ReportUnit :=
  { u with
    current := Report.opened ((r.shift + 1) % 65536) c.opens openP openMs
    closed := some r
    unread := true }

/-- A shift close with cause REQUEST or TIMER (R160): the REPORT record is handed, and a TRUNK_OVERRUN for it counts in the
new report. -/
def closeShift (c : CloseCause) (s : State) : State :=
  let r := closedReport c s
  handRecord (.report r) (s.withReport (s.report.afterClose r c s.pos.p s.msTime))

/-- The shift timer reloaded, the second phase at 0 (R162). -/
def reloadShift (s : State) : State :=
  s.withReport { s.report with shiftTimer := s.setup.shiftPeriodS, secondPhase := 0 }

/-- The shift timer runs and has reached 0 (R162). -/
def shiftDue (s : State) : Bool := decide (0 < s.setup.shiftPeriodS) && s.report.shiftTimer == 0

/-- The expiry of the shift timer (R162), where it is due. -/
def shiftExpiry (s : State) : State := if shiftDue s then reloadShift (closeShift .timer s) else s

end Sys2Proof.Machine
end

