-- ==== Sys2Proof/Machine/Wire.lean ====
section
/-! DEFINITION. The bytes of outbound records (R177; 11.1 for a report; R128, R152, R172, R175). -/

namespace Sys2Proof.Machine

/-- A position: 48 bits, six bytes. -/
def pos6 (v : Nat) : List Byte := leBytes 6 v

/-- A condition record (10.2): every field, the lane optional. Twenty-four bytes. -/
def CondRecord.bytes (r : CondRecord) : List Byte :=
  byte r.kind.code ++ byte r.level.code ++ optBytes 1 (fun i : LaneId => byte i.val) r.lane ++ pos6 r.position
    ++ leBytes 4 r.time ++ leBytes 4 r.detail1 ++ leBytes 4 r.detail2 ++ byte r.further ++ flag r.escalated

/-- The numbers of a list, each in `n` bytes. -/
def manyBytes (n : Nat) (vs : List Nat) : List Byte := vs.flatMap (leBytes n)

/-- A report (11.1), its fields in the table's order. Two hundred and eighty bytes. -/
def Report.bytes (r : Report) : List Byte :=
  leBytes 2 r.shift ++ byte r.openedBy.code ++ optBytes 1 (fun c : CloseCause => byte c.code) r.closedBy
    ++ pos6 r.openP ++ optBytes 6 pos6 r.closeP ++ leBytes 4 r.openMs ++ optBytes 4 (leBytes 4) r.closeMs
    ++ manyBytes 4 r.linesInspected.toList
    ++ manyBytes 4 [r.behindHorizon, r.runsOverflowed, r.blobsRefused, r.overlapDrops, r.edgeDrops, r.noiseDrops,
      r.beforePlan]
    ++ manyBytes 4 r.flawsByClass ++ manyBytes 4 r.platesByGrade ++ manyBytes 6 r.lengthByGrade
    ++ manyBytes 4 [r.cutsRequested, r.cutsConfirmed, r.cutsDeviated, r.cutsMissed, r.cutsSkipped, r.staleConfirms]
    ++ manyBytes 2 r.conditions ++ manyBytes 4 r.gapLength.toList ++ flag r.overwrote

/-- A mark as one bit of a byte. -/
def bitAt (b : Bool) (i : Nat) : Nat := if b then 2 ^ i else 0

/-- A FLAW record's body (R177, "FLAW record body"). Thirty-five bytes. -/
def FlawRecord.bytes (r : FlawRecord) : List Byte :=
  leBytes 4 r.id ++ byte r.lane.val ++ byte r.cls
    ++ byte (bitAt (r.polarity == .bright) 0 + bitAt r.sat 1 + bitAt r.cont 2 + bitAt r.continues 3
      + bitAt (r.bank == 1) 4)
    ++ leBytes 2 r.peak ++ pos6 r.lead ++ pos6 r.trail ++ leBytes 4 r.centre ++ leBytes 4 r.width ++ leBytes 4 r.length
    ++ leBytes 2 r.pixels

/-- A PLATE record's body (R177, "PLATE record body"; R128). Sixty-five bytes. -/
def Plate.bytes (p : Plate) (classSums : List Nat) : List Byte :=
  leBytes 4 p.number ++ byte p.kind.code ++ byte (p.spec.getD 255) ++ byte p.bank.val
    ++ byte (bitAt p.uninspected 0 + bitAt p.fatal 1 + bitAt p.late 2 + bitAt p.overflow 3 + bitAt p.trailSeq.isSome 4
      + bitAt (p.trailSeq.getD false) 5 + bitAt p.trailCaptured.isSome 6)
    ++ pos6 p.plannedStart ++ pos6 p.plannedEnd ++ pos6 p.actualStart ++ pos6 p.actualEnd
    ++ byte p.leadStatus.code ++ byte p.trailStatus.code
    ++ pos6 (p.trailCaptured.getD 0) ++ leBytesInt 4 (p.trailDeviation.getD 0)
    ++ byte p.predicted.code ++ byte ((p.finalGrade.map Grade.code).getD 0)
    ++ byte ((p.destination.map Destination.code).getD 0)
    ++ leBytes 2 p.flawTotal ++ manyBytes 1 classSums

/-- A forwarded line's body (R172). -/
def ForwardLine.bytes (l : ForwardLine) : List Byte :=
  byte l.lane.val ++ leBytes 2 l.trigger ++ optBytes 6 pos6 l.position ++ leBytes 2 l.pixelCount ++ [l.flags] ++ l.payload

/-- The body of an urgent record's frame (R177). -/
def Urgent.bytes : Urgent → List Byte
  | .response tag kind status body => tag :: kind :: byte status.code ++ body
  | .cond r => r.bytes
  | .plate p sums => p.bytes sums
  | .report r => r.bytes
  | .headReply lane body => byte lane.val ++ body
  | .started kind time discarded => byte kind.code ++ leBytes 4 time ++ byte discarded

/-- The type byte of an outbound frame (R177): RESPONSE to STARTED are 1 to 6, FLAW 7, a forwarded line 8. -/
def Outbound.typeCode : Outbound → Nat
  | .urgent r => r.typeCode
  | .flaw _ => 7
  | .line _ => 8

/-- The body of an outbound frame. -/
def Outbound.bytes : Outbound → List Byte
  | .urgent r => r.bytes
  | .flaw r => r.bytes
  | .line l => l.bytes

/-- The frame the part is sending on the trunk (R166, R172). -/
def State.sendingFrame (s : State) : Option Frame := s.trunk.sending.map fun o => frameOf o.typeCode o.bytes

/-- The head-command frame a lane link is sending (R170, type 33). -/
def State.headFrame (s : State) (i : LaneId) : Option Frame := (s.rx i).headSending.map (frameOf 33)

/-- The bytes that the frame being sent on the trunk puts on the link, in their order (R166). -/
def State.sendingBytes (s : State) : Option (List Byte) := s.sendingFrame.map frameBytes

/-- The bytes that the head command being sent puts on its lane link, in their order (R166). -/
def State.headBytes (s : State) (i : LaneId) : Option (List Byte) := (s.headFrame i).map frameBytes

end Sys2Proof.Machine
end

