-- ==== Sys2Proof/Machine/Status.lean ====
section
/-! DEFINITION. The driven levels of the outputs (R114, R115) and the sections of the STATUS_GET response (R176). -/

namespace Sys2Proof.Machine

/-! ### Outputs (R114, R115) -/

/-- The six outputs, in the order of their codes (R116). -/
inductive Output where
  | cutReq
  | cutSeq
  | div0
  | div1
  | reject
  | alarm
deriving DecidableEq, Repr, Inhabited

/-- The six outputs in code order. -/
def Output.all : List Output := [.cutReq, .cutSeq, .div0, .div1, .reject, .alarm]

/-- An output's latch and owner bit. -/
def Outputs.get (x : Outputs) : Output → OutputControl
  | .cutReq => x.cutReq
  | .cutSeq => x.cutSeq
  | .div0 => x.div0
  | .div1 => x.div1
  | .reject => x.reject
  | .alarm => x.alarm

/-- The controls with one output's replaced. -/
def Outputs.set (x : Outputs) (o : Output) (c : OutputControl) : Outputs :=
  match o with
  | .cutReq => { x with cutReq := c }
  | .cutSeq => { x with cutSeq := c }
  | .div0 => { x with div0 := c }
  | .div1 => { x with div1 := c }
  | .reject => { x with reject := c }
  | .alarm => { x with alarm := c }

/-- The levels of DIV1, DIV0 and REJECT for a destination (R114). -/
def Destination.lines : Destination → Bool × Bool × Bool
  | .stack0 => (false, false, false)
  | .stack1 => (false, true, false)
  | .stack2 => (true, false, false)
  | .stack3 => (true, true, false)
  | .reject => (false, false, true)

/-- ALARM's function level: high while the LINE record is occupied (R153). -/
def alarmLevel (s : State) : Bool := s.cond.line.isSome

/-- An output's function level (R115); CUT_REQ is low between pulses. -/
def functionLevel (o : Output) (s : State) : Bool :=
  match o with
  | .cutReq => false
  | .cutSeq => s.cutter.seqLevel
  | .div0 => s.divert.gate.lines.2.1
  | .div1 => s.divert.gate.lines.1
  | .reject => s.divert.gate.lines.2.2
  | .alarm => alarmLevel s

/-- An output's effective owner (R115): FUNCTION in INSPECT and STOPPING but for ALARM, else its owner bit. -/
def effectiveOwner (o : Output) (s : State) : Owner :=
  if o != .alarm && s.trunk.run != .standby then .function else (s.outputs.get o).owner

/-- An output's driven level (R115). -/
def drivenLevel (o : Output) (s : State) : Bool :=
  match effectiveOwner o s with
  | .function => functionLevel o s
  | .manual => (s.outputs.get o).latch

/-! ### The sections of STATUS_GET -/

/-- Position Unit (R18). -/
def positionSection (s : State) : List Byte :=
  pos6 s.pos.p ++ byte s.pos.debt
    ++ optBytes 2 (leBytes 2) (if s.pos.triggerSeen then some s.pos.trigger else none) ++ byte s.pos.schedule.length

/-- One lane's receiver (R36). -/
def Receiver.bytes (x : Receiver) : List Byte :=
  byte x.state.code ++ byte x.forward.code ++ optBytes 2 (leBytes 2) x.lastTrigger ++ optBytes 6 pos6 x.lastPosition
    ++ optBytes 6 pos6 x.openGap ++ manyBytes 4 [x.malformed, x.stale, x.outOfOrder, x.forwardDropped, x.missing]
    ++ byte x.link.code

/-- Lane Receivers (R36). -/
def receiverSection (s : State) : List Byte := laneIds.flatMap fun i => (s.rx i).bytes

/-- Blob Trackers (R72). -/
def trackerSection (s : State) : List Byte :=
  (laneIds.flatMap fun i =>
    let slots := (s.lane i).tracker.slots
    byte (slots.countP Slot.isOpen) ++ byte (slots.countP Slot.isContinuation)) ++ leBytes 4 s.flawId

/-- The record is a FLAW record. -/
def MapRecord.isFlaw : MapRecord → Bool
  | .flaw _ => true
  | .gap _ _ _ => false

/-- The record is an open GAP record. -/
def MapRecord.isOpenGap : MapRecord → Bool
  | .gap _ _ none => true
  | .gap _ _ (some _) => false
  | .flaw _ => false

/-- The set of open lanes as one byte, lane 0 its lowest bit (log entry 11). -/
def laneBits (x : PerLane Bool) : Nat := bitAt x.l0 0 + bitAt x.l1 1 + bitAt x.l2 2 + bitAt x.l3 3

/-- Flaw Map (R84). -/
def mapSection (s : State) : List Byte :=
  pos6 s.map.h ++ leBytes 2 (s.map.records.countP MapRecord.isFlaw)
    ++ leBytes 2 (s.map.records.countP fun r => !r.isFlaw) ++ leBytes 2 (s.map.records.countP MapRecord.isOpenGap)
    ++ optBytes 13 (fun m : OverflowMark => pos6 m.lo ++ pos6 m.hi ++ byte (laneBits m.openLanes)) s.map.mark

/-- The start cut record (R99, R102). -/
def StartCut.bytes (x : StartCut) : List Byte :=
  pos6 x.position ++ byte x.status.code ++ optBytes 1 flag x.seq ++ optBytes 6 pos6 x.captured
    ++ optBytes 3 (leBytesInt 3) x.deviation

/-- Cut Planner (R102). -/
def plannerSection (s : State) : List Byte :=
  pos6 s.plan.cLast ++ byte s.plan.cursor ++ leBytes 4 s.plan.nextPlate ++ byte s.plan.wait.code ++ flag s.plan.complete
    ++ byte s.plan.queue.length ++ optBytes 4 (leBytes 4) (s.plan.queue.head?.map Plate.number)
    ++ optBytes 20 StartCut.bytes s.plan.startCut

/-- Cutter Interface and Divert Unit, with the six outputs (R117). -/
def cutterSection (s : State) : List Byte :=
  optBytes 11 (fun o : Outstanding => leBytes 4 o.plate ++ pos6 o.c ++ flag o.seq) s.cutter.outstanding
    ++ optBytes 10 (fun o : PendingCut => leBytes 4 o.plate ++ pos6 o.c) s.cutter.pendingCut
    ++ flag s.cutter.seqLevel ++ flag s.cutter.requestedHold ++ flag s.cutter.faultHigh ++ flag s.cutter.holdInForce
    ++ optBytes 8 (fun c : Capture => pos6 c.pc ++ flag c.bit ++ byte c.outcome.code) s.cutter.lastCapture
    ++ byte s.divert.gate.code ++ optBytes 6 (fun f => pos6 (heldInt f)) s.divert.last
    ++ Output.all.flatMap fun o =>
      flag (s.outputs.get o).latch ++ byte (s.outputs.get o).owner.code ++ flag (drivenLevel o s)

/-- Grader (R131). A divert wait's fire position of 2^48 or more does not fit its six bytes: a free value (log entry 7). -/
def graderSection (s : State) : List Byte :=
  optBytes 4 (leBytes 4) ((gradingPoint s).map Plate.number)
    ++ optBytes 10 (fun w : DivertWait => leBytes 4 w.plate ++ pos6 (heldSum w.fire)) s.grader.wait
    ++ optBytes 4 (leBytes 4) s.grader.lastGraded ++ byte (s.plan.queue.countP fun p => p.finalGrade.isSome)

/-- Table Store (R144): DETECT, then GRADE. -/
def tableSection (s : State) : List Byte :=
  byte s.store.detect.bank0.state.code ++ byte s.store.detect.bank1.state.code ++ byte s.store.detect.shadow.val
    ++ byte (detectBindings s 0) ++ byte (detectBindings s 1) ++ optBytes 2 (leBytes 2) s.store.tSw
    ++ (laneIds.flatMap fun i => flag (s.rx i).lineBinding.isSome)
    ++ byte s.store.grade.bank0.state.code ++ byte s.store.grade.bank1.state.code ++ byte s.store.grade.shadow.val
    ++ byte (gradeBindings s 0) ++ byte (gradeBindings s 1)

/-- A record's kind and further count (R156). -/
def CondRecord.summary (r : CondRecord) : List Byte := byte r.kind.code ++ byte r.further

/-- Condition Unit (R156). MODEL'S CHOICE (log entry 11): each record is an optional field, a presence byte, the
kind and the further count for GANTRY, then the same for LINE. -/
def conditionSection (s : State) : List Byte :=
  optBytes 2 CondRecord.summary s.cond.gantry ++ optBytes 2 CondRecord.summary s.cond.line

/-- Report Unit (R164). MODEL'S CHOICE (log entry 11): the closed slot is one optional field, a presence byte, then the shift
number in two bytes and the unread mark in one, all 0 with the slot empty. -/
def reportSection (s : State) : List Byte :=
  leBytes 2 s.report.current.shift ++ leBytes 2 s.report.shiftTimer ++ leBytes 2 s.setup.shiftPeriodS
    ++ optBytes 3 (fun r : Report => leBytes 2 r.shift ++ flag s.report.unread) s.report.closed

/-- Trunk Interface (R176). -/
def trunkSection (s : State) : List Byte :=
  byte s.trunk.run.code ++ optBytes 6 pos6 s.trunk.stopEnd ++ byte s.trunk.link.code
    ++ byte s.trunk.requests.length ++ byte s.trunk.urgent.length ++ byte s.trunk.flaws.length
    ++ manyBytes 4 [s.trunk.crcErrors, s.trunk.badFrames, s.trunk.headDrops, s.trunk.flawDrops, s.trunk.urgentDrops,
      s.trunk.sendAborts]
    ++ laneIds.flatMap fun i => byte (s.rx i).link.code

/-- The body of the STATUS_GET response (R176): one section for each block, in the order of the chapters. -/
def statusBody (s : State) : List Byte :=
  positionSection s ++ receiverSection s ++ trackerSection s ++ mapSection s ++ plannerSection s ++ cutterSection s
    ++ graderSection s ++ tableSection s ++ conditionSection s ++ reportSection s ++ trunkSection s

end Sys2Proof.Machine
end

