-- ==== Sys2Proof/Machine/Operands.lean ====
section
/-! DEFINITION. Reading the arguments of a request (R169, R177): numbers of given widths, low byte first; bytes beyond the
arguments are ignored. -/

namespace Sys2Proof.Machine

/-- Numbers of the given byte widths read from the front of the arguments; none when the body is too short (R169). -/
def readFields : List Nat → List Byte → Option (List Nat)
  | [], _ => some []
  | w :: ws, bs => if bs.length < w then none else (readFields ws (bs.drop w)).map (ofLE (bs.take w) :: ·)

/-- Numbers written in the given byte widths. -/
def writeFields (ws vs : List Nat) : List Byte := (List.zipWith leBytes ws vs).flatten

/-- The number at a place among the fields. -/
def fieldAt (vs : List Nat) (i : Nat) : Nat := vs.getD i 0

/-- A lane number of a request; none above 3. -/
def laneOf? (v : Nat) : Option LaneId := if h : v < 4 then some ⟨v, h⟩ else none

/-- A bank number of a request; none above 1. -/
def bankOf? (v : Nat) : Option BankId := if h : v < 2 then some ⟨v, h⟩ else none

/-- An output of a request's code (R116); none for the TRIG codes and beyond. -/
def Output.ofCode? (v : Nat) : Option Output :=
  match v with
  | 0 => some .cutReq
  | 1 => some .cutSeq
  | 2 => some .div0
  | 3 => some .div1
  | 4 => some .reject
  | 5 => some .alarm
  | _ => none

/-- A value of 0 or 1 as a mark; none above 1 (R116). -/
def markOf? (v : Nat) : Option Bool :=
  match v with
  | 0 => some false
  | 1 => some true
  | _ => none

/-- The pairs (output, value) of OUTPUT_SET and OUTPUT_OWNER; none for a short body, an unknown code or value (R116). -/
def readPairs : Nat → List Byte → Option (List (Output × Bool))
  | 0, _ => some []
  | n + 1, c :: v :: rest =>
    match Output.ofCode? c.toNat, markOf? v.toNat, readPairs n rest with
    | some o, some b, some ps => some ((o, b) :: ps)
    | _, _, _ => none
  | _ + 1, _ => none

/-- The arguments of OUTPUT_SET and OUTPUT_OWNER (R116): a count of 1 to 6, then that many pairs. MODEL'S CHOICE (log entry
19): R116 gives no answer for a count of 7 or more, and the model takes it as it takes a count of 0, as MALFORMED. -/
def readOutputs : List Byte → Option (List (Output × Bool))
  | [] => none
  | n :: rest => if 1 ≤ n.toNat ∧ n.toNat ≤ 6 then readPairs n.toNat rest else none

end Sys2Proof.Machine
end

