-- ==== Sys2Proof/Machine/TableOps.lean ====
section
/-! DEFINITION. Tables and their entries, writes with clamping, reads, and the checks of BANK_COMMIT (9.1, R51, R68, R86,
R124, R133 to R135). -/

namespace Sys2Proof.Machine

/-! ### Tables (9.1) -/

/-- The ten tables of 9.1. -/
inductive TableId where
  | lane
  | boundary
  | threshold
  | cls
  | zone
  | limit
  | fatal
  | divert
  | spec
  | plan
deriving DecidableEq, Repr, Inhabited

/-- The table of a request's group and table codes (R133): groups DETECT 0 and GRADE 1, tables counted within their group
(log entry 10). -/
def TableId.ofCodes? (group table : Nat) : Option TableId :=
  match group, table with
  | 0, 0 => some .lane
  | 0, 1 => some .boundary
  | 0, 2 => some .threshold
  | 0, 3 => some .cls
  | 1, 0 => some .zone
  | 1, 1 => some .limit
  | 1, 2 => some .fatal
  | 1, 3 => some .divert
  | 1, 4 => some .spec
  | 1, 5 => some .plan
  | _, _ => none

/-- How many entries a table has (9.1). -/
def TableId.size : TableId → Nat
  | .lane => 4
  | .boundary => 60
  | .threshold => 64
  | .cls => 16
  | .zone => 3
  | .limit => 192
  | .fatal => 16
  | .divert => 7
  | .spec => 8
  | .plan => 1

/-- The table belongs to the DETECT group. -/
def TableId.isDetect : TableId → Bool
  | .lane => true
  | .boundary => true
  | .threshold => true
  | .cls => true
  | .zone => false
  | .limit => false
  | .fatal => false
  | .divert => false
  | .spec => false
  | .plan => false

/-- The byte widths of an entry's fields: each the smallest that holds its range (R177, 3.9, 4.9, 6.2, 8.6). -/
def TableId.widths : TableId → List Nat
  | .lane => [2, 2, 2, 1, 1, 2, 1, 2, 3, 2, 4, 4]
  | .boundary => [2]
  | .threshold => [2, 2]
  | .cls => [1, 4, 4, 4, 4, 2, 1, 1, 1]
  | .zone => [4, 4]
  | .limit => [1]
  | .fatal => [1]
  | .divert => [1]
  | .spec => [4, 1, 1]
  | .plan => [2, 3]

/-! ### Entries from and to numbers, clamped (R51, R68, R86, R124) -/

/-- A LANE entry from its written numbers. -/
def LaneEntry.ofFields (v : List Nat) : LaneEntry where
  pixelCount := clampTo 0 4096 (fieldAt v 0)
  winLo := clampTo 0 4095 (fieldAt v 1)
  winHi := clampTo 0 4095 (fieldAt v 2)
  k := clampTo 2 10 (fieldAt v 3)
  g := clampTo 0 7 (fieldAt v 4)
  satLimit := clampTo 0 4096 (fieldAt v 5)
  idleLines := clampTo 0 3 (fieldAt v 6)
  maxBlobLines := clampTo 1 4095 (fieldAt v 7)
  x0 := clampTo 0 8000000 (fieldAt v 8)
  pitchUm := clampTo 10 2000 (fieldAt v 9)
  ownLo := clampTo 0 Config.max32 (fieldAt v 10)
  ownHi := clampTo 0 Config.max32 (fieldAt v 11)

/-- A LANE entry's stored numbers. -/
def LaneEntry.fields (e : LaneEntry) : List Nat :=
  [e.pixelCount, e.winLo, e.winHi, e.k, e.g, e.satLimit, e.idleLines, e.maxBlobLines, e.x0, e.pitchUm, e.ownLo, e.ownHi]

/-- A THRESHOLD entry from its written numbers. -/
def Threshold.ofFields (v : List Nat) : Threshold := ⟨clampTo 1 1023 (fieldAt v 0), clampTo 1 1023 (fieldAt v 1)⟩

/-- A CLASS entry from its written numbers (R68). -/
def ClassRule.ofFields (v : List Nat) : ClassRule where
  polarity := PolaritySelector.ofCode (fieldAt v 0)
  lengthMin := clampTo 0 Config.max32 (fieldAt v 1)
  lengthMax := clampTo 0 Config.max32 (fieldAt v 2)
  widthMin := clampTo 0 Config.max32 (fieldAt v 3)
  widthMax := clampTo 0 Config.max32 (fieldAt v 4)
  peakMin := clampTo 0 1023 (fieldAt v 5)
  sat := SatSelector.ofCode (fieldAt v 6)
  code := clampTo 0 15 (fieldAt v 7)
  enable := fieldAt v 8 != 0

/-- A mark as a number, 1 for set (log entry 9). -/
def markCode (b : Bool) : Nat := if b then 1 else 0

/-- A CLASS entry's stored numbers. -/
def ClassRule.fields (c : ClassRule) : List Nat :=
  [c.polarity.code, c.lengthMin, c.lengthMax, c.widthMin, c.widthMax, c.peakMin, c.sat.code, c.code, markCode c.enable]

/-- A ZONE entry from its written numbers. -/
def Zone.ofFields (v : List Nat) : Zone := ⟨clampTo 0 Config.max32 (fieldAt v 0), clampTo 0 Config.max32 (fieldAt v 1)⟩

/-- A SPEC entry from its written numbers (R86). -/
def OrderSpec.ofFields (v : List Nat) : OrderSpec :=
  ⟨clampTo 1 (2 ^ 31) (fieldAt v 0), MinGrade.ofCode (fieldAt v 1), fieldAt v 2 != 0⟩

/-! ### Writing and reading an entry (R133, R134) -/

/-- One lane's, boundary's, threshold's or rule's entry written in a DETECT bank's tables. -/
def DetectTables.write (t : DetectTables) (id : TableId) (i : Nat) (v : List Nat) : DetectTables :=
  match id with
  | .lane =>
    match laneOf? i with
    | some l => { t with lanes := t.lanes.set l (LaneEntry.ofFields v) }
    | none => t
  | .boundary => { t with boundaries := t.boundaries.set i (clampTo 0 4096 (fieldAt v 0)) }
  | .threshold => { t with thresholds := t.thresholds.set i (Threshold.ofFields v) }
  | .cls => { t with classes := t.classes.set i (ClassRule.ofFields v) }
  | .zone | .limit | .fatal | .divert | .spec | .plan => t

/-- One entry written in a GRADE bank's tables. -/
def GradeTables.write (t : GradeTables) (id : TableId) (i : Nat) (v : List Nat) : GradeTables :=
  match id with
  | .zone => { t with zones := t.zones.set i (Zone.ofFields v) }
  | .limit => { t with limits := t.limits.set i (clampTo 0 255 (fieldAt v 0)) }
  | .fatal => { t with fatal := t.fatal.set i (fieldAt v 0 != 0) }
  | .divert => { t with divert := t.divert.set i (Destination.ofCode (fieldAt v 0)) }
  | .spec => { t with specs := t.specs.set i (OrderSpec.ofFields v) }
  | .plan => { t with avoidMargin := clampTo 0 65535 (fieldAt v 0), minPiece := clampTo 1 (2 ^ 20) (fieldAt v 1) }
  | .lane | .boundary | .threshold | .cls => t

/-- The stored numbers of an entry of a DETECT bank. -/
def DetectTables.read (t : DetectTables) (id : TableId) (i : Nat) : List Nat :=
  match id with
  | .lane =>
    match laneOf? i with
    | some l => (t.lanes.get l).fields
    | none => []
  | .boundary => [t.boundaries.getD i 0]
  | .threshold => let x := t.thresholds.getD i default; [x.td, x.tb]
  | .cls => (t.classes.getD i default).fields
  | .zone | .limit | .fatal | .divert | .spec | .plan => []

/-- The stored numbers of an entry of a GRADE bank. -/
def GradeTables.read (t : GradeTables) (id : TableId) (i : Nat) : List Nat :=
  match id with
  | .zone => let x := t.zones.getD i default; [x.lo, x.hi]
  | .limit => [t.limits.getD i 0]
  | .fatal => [markCode (t.fatal.getD i false)]
  | .divert => [(t.divert.getD i default).code]
  | .spec => let x := t.specs.getD i default; [x.length, x.minGrade.code, markCode x.enable]
  | .plan => [t.avoidMargin, t.minPiece]
  | .lane | .boundary | .threshold | .cls => []

/-- A bank written: its tables, and LOADED where it was EMPTY (R133). -/
def Bank.written {α : Type} (b : Bank α) (f : α → α) : Bank α :=
  ⟨if b.state == .empty then .loaded else b.state, f b.tables⟩

/-- A bank state that refuses writes and commits (R133, R135). -/
def BankState.locked (st : BankState) : Bool := st == .committing || st == .retiring

/-- The state of the shadow of a table's group. -/
def shadowState (id : TableId) (s : State) : BankState :=
  if id.isDetect then (s.store.detect.get s.store.detect.shadow).state
  else (s.store.grade.get s.store.grade.shadow).state

/-- An entry written in the shadow of its group (R133). -/
def writeEntry (id : TableId) (i : Nat) (v : List Nat) (s : State) : State :=
  if id.isDetect then
    let b := s.store.detect.shadow
    s.withDetect (s.store.detect.set b ((s.store.detect.get b).written fun t => t.write id i v))
  else
    let b := s.store.grade.shadow
    s.withGrade (s.store.grade.set b ((s.store.grade.get b).written fun t => t.write id i v))

/-- The entry and the bank's state as TABLE_READ returns them (R134). -/
def readEntry (id : TableId) (b : BankId) (i : Nat) (s : State) : List Byte :=
  if id.isDetect then
    let x := s.store.detect.get b
    writeFields id.widths (x.tables.read id i) ++ byte x.state.code
  else
    let x := s.store.grade.get b
    writeFields id.widths (x.tables.read id i) ++ byte x.state.code

/-! ### BANK_COMMIT's checks (R135) -/

/-- A failed check: its code and the offending index. -/
structure Failure where
  code : Nat
  index : Nat
deriving DecidableEq, Repr, Inhabited

/-- The first of the numbers 0 to n − 1 that fails a test, as a failure of a check. -/
def firstFailure (code n : Nat) (ok : Nat → Bool) : Option Failure :=
  ((List.range n).find? fun i => !ok i).map (Failure.mk code)

/-- The first lane that fails a test, as a failure of a check. -/
def laneFailure (code : Nat) (ok : LaneId → Bool) : Option Failure :=
  (laneIds.find? fun i => !ok i).map fun i => ⟨code, i.val⟩

/-- The first place at which a boundary is below its predecessor, or the last place when the last boundary exceeds the
window's end (R135 check 4; log entry 24). -/
def boundaryFault (top : Nat) : Nat → Nat → List Nat → Option Nat
  | _, _, [] => none
  | j, prev, [b] => if b < prev || top < b then some j else none
  | j, prev, b :: bs => if b < prev then some j else boundaryFault top (j + 1) b bs

/-- Check 4 over the lanes in ascending index (R135). -/
def boundaryFailure (t : DetectTables) : Option Failure :=
  (laneIds.findSome? fun i =>
    let e := t.lanes.get i
    (boundaryFault (e.winHi + 1) 0 e.winLo (laneBoundaries t i)).map fun j => i.val * 15 + j).map (Failure.mk 4)

/-- The first failure of a DETECT bank's checks 1 to 5 in code order (R135). -/
def detectFailure (t : DetectTables) : Option Failure :=
  (laneFailure 1 fun i =>
      let n := (t.lanes.get i).pixelCount
      n % 32 == 0 && decide (256 ≤ n) && decide (n ≤ 4096))
    <|> (laneFailure 2 fun i => decide ((t.lanes.get i).winLo ≤ (t.lanes.get i).winHi))
    <|> (laneFailure 3 fun i => decide ((t.lanes.get i).winHi < (t.lanes.get i).pixelCount))
    <|> boundaryFailure t
    <|> (laneFailure 5 fun i => decide ((t.lanes.get i).ownLo < (t.lanes.get i).ownHi))

/-- The first failure of a GRADE bank's checks 6 to 9 in code order (R135). -/
def gradeFailure (t : GradeTables) : Option Failure :=
  (firstFailure 6 3 fun z => decide ((t.zones.getD z default).lo < (t.zones.getD z default).hi))
    <|> (firstFailure 7 64 fun c =>
      decide (t.limits.getD c 0 ≤ t.limits.getD (64 + c) 0) && decide (t.limits.getD (64 + c) 0 ≤ t.limits.getD (128 + c) 0))
    <|> (if t.specs.any OrderSpec.enable then none else some ⟨8, 0⟩)
    <|> (firstFailure 9 8 fun i =>
      let x := t.specs.getD i default
      !x.enable || decide (t.minPiece ≤ x.length))

/-- The groups, as BANK_COMMIT names them. -/
inductive GroupId where
  | detect
  | grade
deriving DecidableEq, Repr, Inhabited

/-- The group of a request's code: DETECT 0, GRADE 1. -/
def GroupId.ofCode? (v : Nat) : Option GroupId :=
  match v with
  | 0 => some .detect
  | 1 => some .grade
  | _ => none

/-- The state of a group's shadow. -/
def GroupId.shadowState (g : GroupId) (s : State) : BankState :=
  match g with
  | .detect => (s.store.detect.get s.store.detect.shadow).state
  | .grade => (s.store.grade.get s.store.grade.shadow).state

/-- The first failed check of a group's shadow (R135). -/
def GroupId.failure (g : GroupId) (s : State) : Option Failure :=
  match g with
  | .detect => detectFailure (s.store.detect.get s.store.detect.shadow).tables
  | .grade => gradeFailure (s.store.grade.get s.store.grade.shadow).tables

/-- An accepted commit before its response (R135, R136): the shadow is COMMITTING, and in STANDBY it switches at once. -/
def acceptCommit (g : GroupId) (s : State) : State :=
  match g with
  | .detect =>
    let s := s.withDetect (s.store.detect.setState s.store.detect.shadow .committing)
    if s.trunk.run == .standby then switchDetect none s else s
  | .grade =>
    let s := s.withGrade (s.store.grade.setState s.store.grade.shadow .committing)
    if s.trunk.run == .standby then switchGrade s else s

/-- What an accepted commit does once its response is handed (R135: the response does not wait for the switch; R138): a
GRADE commit in INSPECT or STOPPING causes a planning attempt, which takes the switch. In STANDBY no attempt is made. -/
def followCommit (g : GroupId) (s : State) : State :=
  match g with
  | .detect => s
  | .grade => planningAttempt s

end Sys2Proof.Machine
end

