-- ==== Sys2Proof/Machine/SetupOps.lean ====
section
/-! DEFINITION. Setup parameters: codes, ranges, reads and clamped writes (9.7, R142, R148), and RUN_START's cross-checks
(R143). -/

namespace Sys2Proof.Machine

/-- The seventeen setup parameters, in the order of 9.7. -/
inductive Param where
  | countNm
  | linePitch
  | startOffset
  | dCut
  | cutLead
  | confirmWindow
  | cutTolerance
  | dDiv
  | divertLead
  | netLo
  | netHi
  | stallMs
  | silentMs
  | reseedMs
  | shiftPeriodS
  | delegGantry
  | delegLocal
deriving DecidableEq, Repr, Inhabited

/-- The parameter of a request's code: its place in the table of 9.7, from 0 (R169). -/
def Param.ofCode? (v : Nat) : Option Param :=
  match v with
  | 0 => some .countNm
  | 1 => some .linePitch
  | 2 => some .startOffset
  | 3 => some .dCut
  | 4 => some .cutLead
  | 5 => some .confirmWindow
  | 6 => some .cutTolerance
  | 7 => some .dDiv
  | 8 => some .divertLead
  | 9 => some .netLo
  | 10 => some .netHi
  | 11 => some .stallMs
  | 12 => some .silentMs
  | 13 => some .reseedMs
  | 14 => some .shiftPeriodS
  | 15 => some .delegGantry
  | 16 => some .delegLocal
  | _ => none

/-- The lowest value of a parameter's range (9.7). -/
def Param.low : Param → Nat
  | .countNm => 1000
  | .linePitch => 1
  | .startOffset => 0
  | .dCut => 1
  | .cutLead => 0
  | .confirmWindow => 1
  | .cutTolerance => 0
  | .dDiv => 1
  | .divertLead => 0
  | .netLo => 0
  | .netHi => 0
  | .stallMs => 10
  | .silentMs => 1
  | .reseedMs => 1
  | .shiftPeriodS => 0
  | .delegGantry => 0
  | .delegLocal => 0

/-- The highest value of a parameter's range (9.7). -/
def Param.high : Param → Nat
  | .countNm => 1000000
  | .linePitch => 255
  | .startOffset => 1048575
  | .dCut => Config.max32
  | .cutLead => 65535
  | .confirmWindow => 65535
  | .cutTolerance => 65535
  | .dDiv => Config.max32
  | .divertLead => 65535
  | .netLo => Config.max32
  | .netHi => Config.max32
  | .stallMs => 65535
  | .silentMs => 65535
  | .reseedMs => 65535
  | .shiftPeriodS => 65535
  | .delegGantry => 2 ^ 17 - 1
  | .delegLocal => 2 ^ 17 - 1

/-- The bytes of a parameter's value: the smallest number that holds its range (R177). -/
def Param.width : Param → Nat
  | .countNm => 3
  | .linePitch => 1
  | .startOffset => 3
  | .dCut => 4
  | .cutLead => 2
  | .confirmWindow => 2
  | .cutTolerance => 2
  | .dDiv => 4
  | .divertLead => 2
  | .netLo => 4
  | .netHi => 4
  | .stallMs => 2
  | .silentMs => 2
  | .reseedMs => 2
  | .shiftPeriodS => 2
  | .delegGantry => 3
  | .delegLocal => 3

/-- The parameter is written in every run state (R142). -/
def Param.anyRunState (p : Param) : Bool := p == .shiftPeriodS || p == .delegGantry || p == .delegLocal

/-- The stored value of a parameter. -/
def Setup.get (x : Setup) : Param → Nat
  | .countNm => x.countNm
  | .linePitch => x.linePitch
  | .startOffset => x.startOffset
  | .dCut => x.dCut
  | .cutLead => x.cutLead
  | .confirmWindow => x.confirmWindow
  | .cutTolerance => x.cutTolerance
  | .dDiv => x.dDiv
  | .divertLead => x.divertLead
  | .netLo => x.netLo
  | .netHi => x.netHi
  | .stallMs => x.stallMs
  | .silentMs => x.silentMs
  | .reseedMs => x.reseedMs
  | .shiftPeriodS => x.shiftPeriodS
  | .delegGantry => x.delegGantry
  | .delegLocal => x.delegLocal

/-- A parameter's stored value replaced. -/
def Setup.put (x : Setup) (p : Param) (v : Nat) : Setup :=
  match p with
  | .countNm => { x with countNm := v }
  | .linePitch => { x with linePitch := v }
  | .startOffset => { x with startOffset := v }
  | .dCut => { x with dCut := v }
  | .cutLead => { x with cutLead := v }
  | .confirmWindow => { x with confirmWindow := v }
  | .cutTolerance => { x with cutTolerance := v }
  | .dDiv => { x with dDiv := v }
  | .divertLead => { x with divertLead := v }
  | .netLo => { x with netLo := v }
  | .netHi => { x with netHi := v }
  | .stallMs => { x with stallMs := v }
  | .silentMs => { x with silentMs := v }
  | .reseedMs => { x with reseedMs := v }
  | .shiftPeriodS => { x with shiftPeriodS := v }
  | .delegGantry => { x with delegGantry := v }
  | .delegLocal => { x with delegLocal := v }

/-- One bit of a mask held at 0 (R148). -/
def clearBit (i v : Nat) : Nat := if v.testBit i then v - 2 ^ i else v

/-- The value a write stores (R142, R148): clamped to the range, the masks' held bits cleared. -/
def Param.stored (p : Param) (v : Nat) : Nat :=
  let c := clampTo p.low p.high v
  match p with
  | .delegGantry => clearBit 15 c
  | .delegLocal => clearBit 15 (clearBit 6 c)
  | .countNm | .linePitch | .startOffset | .dCut | .cutLead | .confirmWindow | .cutTolerance | .dDiv | .divertLead
  | .netLo | .netHi | .stallMs | .silentMs | .reseedMs | .shiftPeriodS => c

/-- A parameter written, with the effect that follows the write of `stall_ms` (R6) and of `shift_period_s` (R162). -/
def writeSetup (p : Param) (v : Nat) (s : State) : State :=
  let s := s.withStore { s.store with setup := s.setup.put p (p.stored v) }
  if p = .stallMs then stallExpiry s else if p = .shiftPeriodS then reloadShift s else s

/-- The first failed cross-check of RUN_START (R143). -/
def crossCheck (x : Setup) : Option Failure :=
  if x.dDiv ≤ x.dCut then some ⟨10, 0⟩
  else if x.dCut ≤ x.cutLead + x.confirmWindow then some ⟨11, 0⟩
  else if x.netHi ≤ x.netLo then some ⟨12, 0⟩
  else none

end Sys2Proof.Machine
end

