-- ==== Sys2Proof/Machine/TrunkOps.lean ====
section
/-! DEFINITION. The Trunk Interface: requests, responses and their departure, head pass-through, run control and resets
(R167 to R175). -/

namespace Sys2Proof.Machine

/-! ### Requests (R168, R169) -/

/-- The oldest waiting request leaves the queue for execution when none is executing (R168). MODEL'S CHOICE (log entry 32):
its effect comes with its own command, and other commands may run between. -/
def depart (s : State) : State :=
  match s.trunk.executing, s.trunk.requests with
  | none, r :: rest => s.withTrunk { s.trunk with executing := some r, requests := rest }
  | _, _ => s

/-- A request that completes is no longer executing, and the next one departs (R168). A request that was not the executing
one (log entry 3) leaves that one alone. -/
def complete (r : Request) (s : State) : State :=
  if s.trunk.executing = some r then depart (s.withTrunk { s.trunk with executing := none }) else s

/-- A request answered: its RESPONSE is handed to the urgent queue, and it completes (R168). -/
def answer (r : Request) (status : Status) (body : List Byte) (s : State) : State :=
  complete r (handRecord (.response r.tag r.kind status body) s)

/-- The body of an INVALID response (R169): the check code and the offending index. -/
def Failure.bytes (f : Failure) : List Byte := byte f.code ++ leBytes 2 f.index

/-- A REQUEST frame's body, none under two bytes (R167). -/
def requestOf : List Byte → Option Request
  | tag :: kind :: args => some ⟨tag, kind, args⟩
  | _ => none

/-- A request arrives (R168): it joins the queue, or is answered BUSY when four wait. -/
def requestArrives (r : Request) (s : State) : State :=
  if s.trunk.requests.length < Config.requestSlots then
    depart (s.withTrunk { s.trunk with requests := s.trunk.requests ++ [r] })
  else handRecord (.response r.tag r.kind .busy []) s

/-! ### Frames of the trunk (R167, R170) -/

/-- A frame dropped for its shape (R167). -/
def badFrame (s : State) : State := s.withTrunk { s.trunk with badFrames := bump32 s.trunk.badFrames }

/-- A HEAD frame (R170): the lane, then the message. -/
def headArrives (lane : Nat) (message : List Byte) (s : State) : State :=
  match laneOf? lane with
  | none => badFrame s
  | some i =>
    if (s.rx i).link == .down || (s.rx i).headSending.isSome then
      s.withTrunk { s.trunk with headDrops := bump32 s.trunk.headDrops }
    else s.modRx i fun x => { x with headSending := some message }

/-- The shape of a trunk frame holds but for its type (R167). -/
def shapeHolds (f : Frame) : Bool := decide (f.len.toNat ≤ 8192) && f.body.length == f.len.toNat

/-- A frame that arrives on the trunk (R167): CRC, shape, dispatch. -/
def trunkFrameArrives (f : Frame) (s : State) : State :=
  if !crcHolds f then s.withTrunk { s.trunk with crcErrors := bump32 s.trunk.crcErrors }
  else if !shapeHolds f then badFrame s
  else if f.ftype == 16 then
    match requestOf f.body with
    | some r => requestArrives r s
    | none => badFrame s
  else if f.ftype == 17 then
    match f.body with
    | lane :: message => headArrives lane.toNat message s
    | [] => badFrame s
  else badFrame s

/-- The trunk link goes DOWN (R167): a record being sent is lost and counted. -/
def trunkDown (s : State) : State :=
  match s.trunk.sending with
  | some _ =>
    s.withTrunk { s.trunk with link := .down, sending := none, sendAborts := bump32 s.trunk.sendAborts }
  | none => s.withTrunk { s.trunk with link := .down }

/-- A frame of a lane link dropped and counted in the lane's malformed counter (R170). -/
def countMalformed (i : LaneId) (s : State) : State := s.modRx i fun x => { x with malformed := bump32 x.malformed }

/-- A head-reply frame (R170): a HEAD_REPLY record, or a malformed frame. -/
def headReplyArrives (i : LaneId) (f : Frame) (s : State) : State :=
  if crcHolds f then handRecord (.headReply i f.body) s else countMalformed i s

/-! ### Run control (R173, R174) -/

/-- S0 at RUN_START: P + `start_offset` (R88). -/
def newStart (s : State) : Nat := heldSum (s.pos.p + s.setup.startOffset)

/-- The planner's steps 1 to 5 and 7 of R88. -/
def startPlanner (start : Nat) (s : State) : State :=
  s.withPlan { s.plan with
    cLast := start
    cursor := firstEnabled s.store.grade.activeTables
    startCut := some ⟨start, .planned, none, none, none⟩
    trailing := ⟨.planned, start⟩
    complete := false
    wait := .none }

/-- The start cut's CUT entry (R88 step 6). The cross-checks make it lie above P and the schedule is empty (R88), so it is
held; an entry that is due would be handed at once (R13). -/
def insertStartCut (start : Nat) (s : State) : State :=
  let e : Entry := ⟨cutFire s.setup start, .cut, 0⟩
  match insertEntry e s with
  | .held s1 => s1
  | .atOnce => handEntry e s
  | .refused => s

/-- Steps 1 to 4 of RUN_START, and E absent (R173). MODEL'S CHOICE (log entry 29): the IDLE lanes enter WAITING in ascending
order, so that their GAP records of equal start stand in the map in that order. -/
def startRun (s : State) : State :=
  let start := newStart s
  let s := s.withLanes (s.lanes.map fun l => { l with tracker := Tracker.empty })
  let s := settleDetect (s.withMap { s.map with h := 0 })
  let s := s.withDivert { s.divert with last := none }
  let s := insertStartCut start (startPlanner start s)
  let s := laneIds.foldl (startLane start) s
  let s := s.withTrunk { s.trunk with run := .inspect, stopEnd := none }
  planningAttempt (recomputeH s)

/-- RUN_STOP in INSPECT (R174): the lanes stop, E is stored, H is raised to E, the run state is STOPPING and the planner
makes an attempt. -/
def stopRun (s : State) : State × Nat :=
  let r := stopLanes s
  let s := r.1.withMap { r.1.map with h := max r.1.map.h r.2 }
  (planningAttempt (s.withTrunk { s.trunk with run := .stopping, stopEnd := some r.2 }), r.2)

/-! ### Resets (R175) -/

/-- A lane after a reset that keeps the link and, where it says so, the head command being sent. -/
def Lane.afterReset (keepHead : Bool) (l : Lane) : Lane :=
  Lane.reset l.rx.link (if keepHead then l.rx.headSending else none)

/-- A power-on reset (R175): every block's power-on values; the links' states and the waiting commands are not the reset's
to change. -/
def powerOn (levels : InputLevels) (s : State) : State :=
  { State.reset with
    pos := PositionUnit.reset levels.encA levels.encB
    cutter := Cutter.reset levels.cutterFault levels.cutAck
    lanes := s.lanes.map (Lane.afterReset false)
    trunk := Trunk.reset s.trunk.link [.started .powerOn 0 0]
    pending := s.pending }

/-- A soft reset (R175, R1, R19, R37, R52, R73, R85, R103, R113 to R115, R118, R132, R142, R145, R157, R165): the report is
closed first, then every block takes its soft-reset values, then STARTED and REPORT are queued. The requests discarded and
counted are those that wait now (log entry 32). -/
def softReset (s : State) : State :=
  let r := closedReport .reset s
  { s with
    pos := PositionUnit.reset s.pos.encA s.pos.encB
    lanes := s.lanes.map (Lane.afterReset true)
    flawId := 0
    map := FlawMap.reset
    plan := Planner.reset
    cutter := Cutter.reset s.cutter.faultHigh s.cutter.ackHigh
    divert := Divert.reset
    grader := Grader.reset
    store := s.store.softReset
    cond := ConditionUnit.reset
    report := { s.report.afterClose r .reset 0 s.msTime with
      shiftTimer := s.setup.shiftPeriodS, secondPhase := 0 }
    trunk := Trunk.reset s.trunk.link
      [.started .soft s.msTime s.trunk.requests.length, .report r] }

/-! ### The part's own step (log entry 1) -/

/-- The executing request taken up by the part: its command joins the queue, or it is answered MALFORMED for an unknown
kind (R169). -/
def takeUp (r : Request) (s : State) : State :=
  match Instr.ofRequest r with
  | some c => s.withPending (s.pending ++ [c])
  | none => answer r .malformed [] s

end Sys2Proof.Machine
end

