-- ==== Sys2Proof/Machine/Clock.lean ====
section
/-! DEFINITION. One millisecond of the part's own time (00, R5, R30, R162), and the part's own step on an empty queue (log
entries 1 and 2). -/

namespace Sys2Proof.Machine

/-- A lane's silence timer after one millisecond: it counts in WAITING and RUNNING and stops at 65535 (R30). -/
def Receiver.tick (x : Receiver) : Receiver :=
  if x.listening then { x with silenceTimer := satAdd 65535 x.silenceTimer 1 } else x

/-- The shift timer after one millisecond: while `shift_period_s` is above 0, 1000 ms take one second off it (R162). -/
def ReportUnit.tick (period : Nat) (u : ReportUnit) : ReportUnit :=
  if period = 0 then u
  else if u.secondPhase + 1 < 1000 then { u with secondPhase := u.secondPhase + 1 }
  else { u with secondPhase := 0, shiftTimer := u.shiftTimer - 1 }

/-- The counters of time after one millisecond (00, R5, R30, R162). -/
def countMs (s : State) : State :=
  let s := s.withMsTime (nextMs s.msTime)
  let s := s.withPos { s.pos with stallTimer := satAdd 65535 s.pos.stallTimer 1 }
  let s := s.withLanes (s.lanes.map fun l => { l with rx := l.rx.tick })
  s.withReport (s.report.tick s.setup.shiftPeriodS)

/-- The timer expiries that are due, as the commands that carry them out. -/
def dueExpiries (s : State) : List Instr :=
  (if stallDue s then [Instr.stallTimerExpiry] else [])
    ++ (laneIds.filter fun i => silenceDue i s).map Instr.silenceTimerExpiry
    ++ (if shiftDue s then [Instr.shiftTimerExpiry] else [])

/-- A millisecond passes: the counters count, and the expiries that are due join the queue of commands. -/
def tick (s : State) : State :=
  let s := countMs s
  s.withPending (s.pending ++ dueExpiries s)

/-- The part's own step, on an empty queue (log entry 1): the executing request is taken up; where there is none, a
millisecond passes. -/
def ownStep (s : State) : Host.Outcome State Fault Refusal :=
  match s.trunk.executing with
  | some r => done (takeUp r s)
  | none => done (tick s)

end Sys2Proof.Machine
end

