-- ==== Sys2Proof/Machine/Links.lean ====
section
/-! DEFINITION. The meanings of the lane links' and the trunk link's events. -/

namespace Sys2Proof.Machine

/-- LINE_FRAME (R20 to R35). -/
def execLineFrame (lane : LaneId) (frame : Frame) (s : State) : Host.Outcome State Fault Refusal :=
  done (lineArrives lane frame s)

/-- HEAD_REPLY_FRAME (R170). -/
def execHeadReplyFrame (lane : LaneId) (frame : Frame) (s : State) : Host.Outcome State Fault Refusal :=
  done (headReplyArrives lane frame s)

/-- LANE_LINK_DOWN (R30). -/
def execLaneLinkDown (lane : LaneId) (s : State) : Host.Outcome State Fault Refusal :=
  done (linkDown lane s)

/-- LANE_LINK_UP (R30): no lane state changes. -/
def execLaneLinkUp (lane : LaneId) (s : State) : Host.Outcome State Fault Refusal :=
  done (s.modRx lane fun x => { x with link := .up })

/-- HEAD_COMMAND_SENT (R170): the lane link can take the next head command. -/
def execHeadCommandSent (lane : LaneId) (s : State) : Host.Outcome State Fault Refusal :=
  done (s.modRx lane fun x => { x with headSending := none })

/-- TRUNK_FRAME (R167, R168, R170). -/
def execTrunkFrame (frame : Frame) (s : State) : Host.Outcome State Fault Refusal :=
  done (trunkFrameArrives frame s)

/-- TRUNK_LINK_DOWN (R167). -/
def execTrunkLinkDown (s : State) : Host.Outcome State Fault Refusal :=
  done (trunkDown s)

/-- TRUNK_LINK_UP (R167, R172): the arbiter starts again. -/
def execTrunkLinkUp (s : State) : Host.Outcome State Fault Refusal :=
  done (s.withTrunk { s.trunk with link := .up })

/-- TRUNK_SEND_DONE (R172): the record has been sent, and the arbiter takes again. -/
def execTrunkSendDone (s : State) : Host.Outcome State Fault Refusal :=
  done (s.withTrunk { s.trunk with sending := none })

/-- HEAD_FRAME_OTHER_TYPE (R170): dropped and counted in the lane's malformed counter. -/
def execHeadFrameOtherType (lane : LaneId) (_frame : Frame) (s : State) : Host.Outcome State Fault Refusal :=
  done (countMalformed lane s)

end Sys2Proof.Machine
end

