-- ==== Sys2Proof/Machine/Pins.lean ====
section
/-! DEFINITION. The meanings of the pin edges and of the timer expiries. -/

namespace Sys2Proof.Machine

/-- ENCODER_INCREMENT (R2 to R4): the input pair changes to the given levels. -/
def execEncoderIncrement (a b : Bool) (s : State) : Host.Outcome State Fault Refusal :=
  done (encoderChange a b s)

/-- STALL_TIMER_EXPIRY (R5): the stall report, where the timer has reached `stall_ms` with the report armed (log entry
2). -/
def execStallTimerExpiry (s : State) : Host.Outcome State Fault Refusal :=
  done (stallExpiry s)

/-- SILENCE_TIMER_EXPIRY (R30): the lane goes SILENT, where it listens and its timer has reached `silent_ms` (log entry
2). -/
def execSilenceTimerExpiry (lane : LaneId) (s : State) : Host.Outcome State Fault Refusal :=
  done (silenceExpiry lane s)

/-- SHIFT_TIMER_EXPIRY (R162): the shift closes with cause TIMER, where the timer runs and has reached 0 (log entry 2). -/
def execShiftTimerExpiry (s : State) : Host.Outcome State Fault Refusal :=
  done (shiftExpiry s)

/-- CUT_ACK_RISE (R17, R108) with the sampled CUT_ACK_SEQ. -/
def execCutAckRise (seq : Bool) (s : State) : Host.Outcome State Fault Refusal :=
  done (ackRise seq s)

/-- CUT_ACK_FALL (R106). -/
def execCutAckFall (s : State) : Host.Outcome State Fault Refusal :=
  done (ackFall s)

/-- CUTTER_FAULT_RISE (R111). -/
def execCutterFaultRise (s : State) : Host.Outcome State Fault Refusal :=
  done (faultRise s)

/-- CUTTER_FAULT_FALL (R111). -/
def execCutterFaultFall (s : State) : Host.Outcome State Fault Refusal :=
  done (faultFall s)

end Sys2Proof.Machine
end

