-- ==== Sys2Proof/Machine/Requests.lean ====
section
/-! DEFINITION. The meanings of the requests (R169 and each kind's rule): the tests of R169 in their order, the effect, and
the RESPONSE. -/

namespace Sys2Proof.Machine

/-- A request answered and the command done. -/
def respond (tag kind : Byte) (args : List Byte) (status : Status) (body : List Byte) (s : State) :
    Host.Outcome State Fault Refusal :=
  done (answer ⟨tag, kind, args⟩ status body s)

/-- STATUS_GET (R176). -/
def execStatusGet (tag : Byte) (args : List Byte) (s : State) : Host.Outcome State Fault Refusal :=
  respond tag 1 args .ok (statusBody s) s

/-- TABLE_WRITE (R133): group, table, index, entry. -/
def execTableWrite (tag : Byte) (args : List Byte) (s : State) : Host.Outcome State Fault Refusal :=
  match readFields [1, 1, 1] args with
  | some [group, table, index] =>
    match TableId.ofCodes? group table with
    | none => respond tag 2 args .malformed [] s
    | some id =>
      match readFields id.widths (args.drop 3) with
      | none => respond tag 2 args .malformed [] s
      | some values =>
        if id.size ≤ index then respond tag 2 args .malformed [] s
        else if (shadowState id s).locked then respond tag 2 args .notNow [] s
        else respond tag 2 args .ok [] (writeEntry id index values s)
  | _ => respond tag 2 args .malformed [] s

/-- TABLE_READ (R134): group, bank, table, index. -/
def execTableRead (tag : Byte) (args : List Byte) (s : State) : Host.Outcome State Fault Refusal :=
  match readFields [1, 1, 1, 1] args with
  | some [group, bank, table, index] =>
    match TableId.ofCodes? group table, bankOf? bank with
    | some id, some b =>
      if id.size ≤ index then respond tag 3 args .malformed [] s
      else respond tag 3 args .ok (readEntry id b index s) s
    | _, _ => respond tag 3 args .malformed [] s
  | _ => respond tag 3 args .malformed [] s

/-- BANK_COMMIT (R135 to R138): group. MODEL'S CHOICE (log entry 12): the OK response has an empty body, although R135 has it
say that the bank is COMMITTING. -/
def execBankCommit (tag : Byte) (args : List Byte) (s : State) : Host.Outcome State Fault Refusal :=
  match readFields [1] args with
  | some [group] =>
    match GroupId.ofCode? group with
    | none => respond tag 4 args .malformed [] s
    | some g =>
      if g.shadowState s != .loaded then respond tag 4 args .notNow [] s
      else
        match g.failure s with
        | some f => respond tag 4 args .invalid f.bytes s
        | none => done (followCommit g (answer ⟨tag, 4, args⟩ .ok [] (acceptCommit g s)))
  | _ => respond tag 4 args .malformed [] s

/-- SETUP_WRITE (R142): parameter, value. -/
def execSetupWrite (tag : Byte) (args : List Byte) (s : State) : Host.Outcome State Fault Refusal :=
  match readFields [1] args with
  | some [code] =>
    match Param.ofCode? code with
    | none => respond tag 5 args .malformed [] s
    | some p =>
      match readFields [p.width] (args.drop 1) with
      | some [value] =>
        if !p.anyRunState && s.trunk.run != .standby then respond tag 5 args .notNow [] s
        else respond tag 5 args .ok [] (writeSetup p value s)
      | _ => respond tag 5 args .malformed [] s
  | _ => respond tag 5 args .malformed [] s

/-- SETUP_READ (R142): parameter. -/
def execSetupRead (tag : Byte) (args : List Byte) (s : State) : Host.Outcome State Fault Refusal :=
  match readFields [1] args with
  | some [code] =>
    match Param.ofCode? code with
    | none => respond tag 6 args .malformed [] s
    | some p => respond tag 6 args .ok (leBytes p.width (s.setup.get p)) s
  | _ => respond tag 6 args .malformed [] s

/-- RUN_START (R143, R173). -/
def execRunStart (tag : Byte) (args : List Byte) (s : State) : Host.Outcome State Fault Refusal :=
  if s.trunk.run != .standby then respond tag 7 args .notNow [] s
  else if s.store.detect.active.isNone || s.store.grade.active.isNone then respond tag 7 args .notNow [] s
  else
    match crossCheck s.setup with
    | some f => respond tag 7 args .invalid f.bytes s
    | none => respond tag 7 args .ok (pos6 (newStart s)) (startRun s)

/-- RUN_STOP (R174). -/
def execRunStop (tag : Byte) (args : List Byte) (s : State) : Host.Outcome State Fault Refusal :=
  if s.trunk.run == .inspect then
    let r := stopRun s
    respond tag 8 args .ok (pos6 r.2) r.1
  else respond tag 8 args .notNow [] s

/-- LANE_CONTROL (R33): lane, enable setting (0 enabled, 1 disabled), forward mode. -/
def execLaneControl (tag : Byte) (args : List Byte) (s : State) : Host.Outcome State Fault Refusal :=
  match readFields [1, 1, 1] args with
  | some [lane, enable, mode] =>
    match laneOf? lane, ForwardMode.ofCode? mode with
    | some i, some m =>
      match enable with
      | 0 => respond tag 9 args .ok [] (enableLane i (setForward i m s))
      | 1 => respond tag 9 args .ok [] (disableLane i (setForward i m s))
      | _ => respond tag 9 args .malformed [] s
    | _, _ => respond tag 9 args .malformed [] s
  | _ => respond tag 9 args .malformed [] s

/-- CUTTER_HOLD (R110). -/
def execCutterHold (tag : Byte) (args : List Byte) (s : State) : Host.Outcome State Fault Refusal :=
  respond tag 10 args .ok [] (requestHold s)

/-- CUTTER_RELEASE (R110). -/
def execCutterRelease (tag : Byte) (args : List Byte) (s : State) : Host.Outcome State Fault Refusal :=
  respond tag 11 args .ok [] (releaseHold s)

/-- SHIFT_CLOSE (R161): the REPORT record is handed before the response, which carries the closed report's shift number. -/
def execShiftClose (tag : Byte) (args : List Byte) (s : State) : Host.Outcome State Fault Refusal :=
  respond tag 12 args .ok (leBytes 2 s.report.current.shift) (reloadShift (closeShift .request s))

/-- The bytes of REPORT_GET CLOSED (R163): the closed report with its unread mark, or absent. -/
def closedBody (s : State) : List Byte :=
  optBytes 281 (fun r : Report => r.bytes ++ flag s.report.unread) s.report.closed

/-- REPORT_GET (R163): CURRENT 0 or CLOSED 1. -/
def execReportGet (tag : Byte) (args : List Byte) (s : State) : Host.Outcome State Fault Refusal :=
  match readFields [1] args with
  | some [0] => respond tag 13 args .ok s.report.current.bytes s
  | some [1] => respond tag 13 args .ok (closedBody s) (s.withReport { s.report with unread := false })
  | _ => respond tag 13 args .malformed [] s

/-- The body of CONDITION_GET (R154): the records, the counters, the masks. -/
def conditionBody (s : State) : List Byte :=
  optBytes 24 CondRecord.bytes s.cond.gantry ++ optBytes 24 CondRecord.bytes s.cond.line
    ++ manyBytes 2 s.cond.counters ++ leBytes 3 s.setup.delegGantry ++ leBytes 3 s.setup.delegLocal

/-- CONDITION_GET (R154). -/
def execConditionGet (tag : Byte) (args : List Byte) (s : State) : Host.Outcome State Fault Refusal :=
  respond tag 14 args .ok (conditionBody s) s

/-- CONDITION_CLEAR (R155): GANTRY 0 or LINE 1; the record as it stood, then vacated. -/
def execConditionClear (tag : Byte) (args : List Byte) (s : State) : Host.Outcome State Fault Refusal :=
  match readFields [1] args with
  | some [0] =>
    respond tag 15 args .ok (optBytes 24 CondRecord.bytes s.cond.gantry) (s.withCond { s.cond with gantry := none })
  | some [1] =>
    respond tag 15 args .ok (optBytes 24 CondRecord.bytes s.cond.line) (s.withCond { s.cond with line := none })
  | _ => respond tag 15 args .malformed [] s

/-- The manual latches written by pairs, the later of two for one output standing (R116). -/
def setLatches (x : Outputs) (ps : List (Output × Bool)) : Outputs :=
  ps.foldl (fun x p => x.set p.1 { x.get p.1 with latch := p.2 }) x

/-- The owner bits written by pairs: FUNCTION 0, MANUAL 1 (R116). -/
def setOwners (x : Outputs) (ps : List (Output × Bool)) : Outputs :=
  ps.foldl (fun x p => x.set p.1 { x.get p.1 with owner := if p.2 then .manual else .function }) x

/-- OUTPUT_SET (R116). -/
def execOutputSet (tag : Byte) (args : List Byte) (s : State) : Host.Outcome State Fault Refusal :=
  match readOutputs args with
  | some ps => respond tag 16 args .ok [] (s.withOutputs (setLatches s.outputs ps))
  | none => respond tag 16 args .malformed [] s

/-- OUTPUT_OWNER (R116). -/
def execOutputOwner (tag : Byte) (args : List Byte) (s : State) : Host.Outcome State Fault Refusal :=
  match readOutputs args with
  | some ps => respond tag 17 args .ok [] (s.withOutputs (setOwners s.outputs ps))
  | none => respond tag 17 args .malformed [] s

end Sys2Proof.Machine
end

