-- ==== Sys2Proof/Machine/Resets.lean ====
section
/-! DEFINITION. The meanings of the two resets (R175). -/

namespace Sys2Proof.Machine

/-- POWER_ON_RESET (R175). -/
def execPowerOnReset (levels : InputLevels) (s : State) : Host.Outcome State Fault Refusal :=
  done (powerOn levels s)

/-- PART_RESET (R175): no RESPONSE; the STARTED record answers it. Its kind takes no arguments. MODEL'S
CHOICE (log entry 32): it takes effect with this command, which may come later than its departure from the queue. -/
def execPartReset (_tag : Byte) (_args : List Byte) (s : State) : Host.Outcome State Fault Refusal :=
  done (softReset s)

end Sys2Proof.Machine
end

