-- ==== Sys2Proof/Machine/Dispatch.lean ====
section
/-! DEFINITION. One arm for each command of the opcode table, in the table's order. -/

namespace Sys2Proof.Machine

open Sys2Proof

def exec (i : Instr) (s : State) : Host.Outcome State Fault Refusal :=
  match i with
  | .powerOnReset levels => Sys2Proof.Machine.execPowerOnReset levels s
  | .encoderIncrement a b => Sys2Proof.Machine.execEncoderIncrement a b s
  | .stallTimerExpiry => Sys2Proof.Machine.execStallTimerExpiry s
  | .silenceTimerExpiry lane => Sys2Proof.Machine.execSilenceTimerExpiry lane s
  | .shiftTimerExpiry => Sys2Proof.Machine.execShiftTimerExpiry s
  | .cutAckRise seq => Sys2Proof.Machine.execCutAckRise seq s
  | .cutAckFall => Sys2Proof.Machine.execCutAckFall s
  | .cutterFaultRise => Sys2Proof.Machine.execCutterFaultRise s
  | .cutterFaultFall => Sys2Proof.Machine.execCutterFaultFall s
  | .lineFrame lane frame => Sys2Proof.Machine.execLineFrame lane frame s
  | .headReplyFrame lane frame => Sys2Proof.Machine.execHeadReplyFrame lane frame s
  | .laneLinkDown lane => Sys2Proof.Machine.execLaneLinkDown lane s
  | .laneLinkUp lane => Sys2Proof.Machine.execLaneLinkUp lane s
  | .headCommandSent lane => Sys2Proof.Machine.execHeadCommandSent lane s
  | .trunkFrame frame => Sys2Proof.Machine.execTrunkFrame frame s
  | .trunkLinkDown => Sys2Proof.Machine.execTrunkLinkDown s
  | .trunkLinkUp => Sys2Proof.Machine.execTrunkLinkUp s
  | .trunkSendDone => Sys2Proof.Machine.execTrunkSendDone s
  | .statusGet tag args => Sys2Proof.Machine.execStatusGet tag args s
  | .tableWrite tag args => Sys2Proof.Machine.execTableWrite tag args s
  | .tableRead tag args => Sys2Proof.Machine.execTableRead tag args s
  | .bankCommit tag args => Sys2Proof.Machine.execBankCommit tag args s
  | .setupWrite tag args => Sys2Proof.Machine.execSetupWrite tag args s
  | .setupRead tag args => Sys2Proof.Machine.execSetupRead tag args s
  | .runStart tag args => Sys2Proof.Machine.execRunStart tag args s
  | .runStop tag args => Sys2Proof.Machine.execRunStop tag args s
  | .laneControl tag args => Sys2Proof.Machine.execLaneControl tag args s
  | .cutterHold tag args => Sys2Proof.Machine.execCutterHold tag args s
  | .cutterRelease tag args => Sys2Proof.Machine.execCutterRelease tag args s
  | .shiftClose tag args => Sys2Proof.Machine.execShiftClose tag args s
  | .reportGet tag args => Sys2Proof.Machine.execReportGet tag args s
  | .conditionGet tag args => Sys2Proof.Machine.execConditionGet tag args s
  | .conditionClear tag args => Sys2Proof.Machine.execConditionClear tag args s
  | .outputSet tag args => Sys2Proof.Machine.execOutputSet tag args s
  | .outputOwner tag args => Sys2Proof.Machine.execOutputOwner tag args s
  | .partReset tag args => Sys2Proof.Machine.execPartReset tag args s
  | .headFrameOtherType lane frame => Sys2Proof.Machine.execHeadFrameOtherType lane frame s

end Sys2Proof.Machine
end

