-- ==== Sys2Proof/Machine/Step.lean ====
section
/-! DEFINITION. One step of the part: the command at the front of the queue, or the part's own step on an empty queue. -/

namespace Sys2Proof.Machine

/-- The command at the front of the queue, executed with the queue's rest; on an empty queue, the part's own step. -/
def step (s : State) : Host.Outcome State Fault Refusal :=
  match s.pending with
  | [] => ownStep s
  | c :: rest => exec c (s.withPending rest)

/-- The state with the command that a word spells put at the front of the queue (log entry 26). -/
def State.withFetchWord (s : State) (nbits w : Nat) : State :=
  match decodeTableWord nbits w with
  | some c => s.withPending (c :: s.pending)
  | none => s

end Sys2Proof.Machine
end

