-- ==== Sys2Proof/Safety.lean ====
section
/-! DEFINITION. What the claims speak of: the laws that the spec says the part's state keeps, the outbound records in
flight, and the frames of a command. -/

namespace Sys2Proof.Machine

/-! ### Laws of the state -/

/-- The Position Unit's ranges (1.1): P below 2^48, the debt at most 255, an excursion start exactly while there is a debt
(R3, R4), the reverse report armed while there is none (R3). -/
structure PositionOk (s : State) : Prop where
  p_lt : s.pos.p < Config.positionRange
  debt_le : s.pos.debt ≤ 255
  excursion_iff : s.pos.excursion = none ↔ s.pos.debt = 0
  armed : s.pos.debt = 0 → s.pos.reverseArmed = true

/-- How many triggers ago a trigger number was issued, counted from the current one (R10). -/
def triggerAge (s : State) (t : Nat) : Nat := (s.pos.trigger + 65536 - t % 65536) % 65536

/-- The trigger history's law (R9): 256 slots, each valid one holding in its own place one of the 256 most recent triggers
and a position that is not ahead of P; the positions increase with the numbers; before the first trigger every slot is
invalid. -/
structure HistoryOk (s : State) : Prop where
  slots : s.pos.history.length = Config.historySlots
  latest : s.pos.trigger < 65536
  unseen : s.pos.triggerSeen = false → ∀ n, s.pos.history.getD n none = none
  place : ∀ n x, s.pos.history.getD n none = some x →
    x.trigger % Config.historySlots = n ∧ x.trigger < 65536 ∧ x.position ≤ s.pos.p ∧
      triggerAge s x.trigger < Config.historySlots
  increase : ∀ n m x y, s.pos.history.getD n none = some x → s.pos.history.getD m none = some y →
    triggerAge s x.trigger < triggerAge s y.trigger → y.position < x.position

/-- The schedule's law (R12): non-decreasing fire positions, none at or below P, at most 64 entries; and no firing list is
left over between commands (R13). -/
structure ScheduleOk (s : State) : Prop where
  sorted : s.pos.schedule.Pairwise fun a b => a.fire ≤ b.fire
  above : ∀ e ∈ s.pos.schedule, s.pos.p < e.fire
  room : s.pos.schedule.length ≤ Config.scheduleSlots
  handed : s.pos.firing = []

/-- The capacities of the trunk's queues (12.1), and R168: a request waits only while another is executing. -/
structure QueuesOk (s : State) : Prop where
  requests_le : s.trunk.requests.length ≤ Config.requestSlots
  urgent_le : s.trunk.urgent.length ≤ Config.urgentSlots
  flaws_le : s.trunk.flaws.length ≤ Config.flawSlots
  waiting : s.trunk.executing = none → s.trunk.requests = []

/-- The flaw map's order and capacity (R74, R75). -/
structure MapOk (s : State) : Prop where
  sorted : s.map.records.Pairwise fun a b => a.lead ≤ b.lead
  room : s.map.records.length ≤ Config.mapRecords

/-- The plate queue's capacity, and its emptiness in STANDBY (R97, R101). -/
structure PlannerOk (s : State) : Prop where
  room : s.plan.queue.length ≤ Config.plateSlots
  standby : s.trunk.run = .standby → s.plan.queue = []

/-- A group's law: never more than one bank is ACTIVE (R139), and only the shadow is COMMITTING (R132, R135). -/
structure Group.Ok {α : Type} (g : Group α) : Prop where
  oneActive : ¬(g.bank0.state = .active ∧ g.bank1.state = .active)
  shadowCommits : g.bank1.state = .committing → g.bank0.state = .active

/-- The banks' law in both groups. -/
structure BanksOk (s : State) : Prop where
  detect : s.store.detect.Ok
  grade : s.store.grade.Ok

/-- The held bits of the stored masks are 0 (R148). -/
structure MasksOk (s : State) : Prop where
  gantryFault : s.setup.delegGantry.testBit 15 = false
  localFault : s.setup.delegLocal.testBit 15 = false
  localMap : s.setup.delegLocal.testBit 6 = false

/-- A profile's law (R37, R44): 4096 columns, each background within 0..65472. -/
def profileOk (p : List Column) : Prop := p.length = Config.profileColumns ∧ ∀ x ∈ p, x.b ≤ 65472

/-- Every lane's profile keeps its law. -/
def ProfilesOk (s : State) : Prop := ∀ i, profileOk (s.lane i).profile

/-- A tracker's law (4.1): 32 slots, and the age order holds exactly the slots that are not FREE, each once. -/
structure Tracker.Ok (t : Tracker) : Prop where
  slots : t.slots.length = Config.blobSlots
  once : t.age.Nodup
  held : ∀ j, j ∈ t.age ↔ (t.slot j).isFree = false

/-- Every lane's tracker keeps its law. -/
def TrackersOk (s : State) : Prop := ∀ i, (s.lane i).tracker.Ok

/-- No line is in handling between commands (R81). -/
def LinesOk (s : State) : Prop := ∀ i, (s.rx i).inHand = none

/-! ### Outbound records -/

/-- The urgent record that is being sent, if one is. -/
def sendingUrgent (s : State) : List Urgent :=
  match s.trunk.sending with
  | some (.urgent r) => [r]
  | some (.flaw _) => []
  | some (.line _) => []
  | none => []

/-- The urgent records that the part has accepted and not yet sent: the one being sent, then the queue. The arbiter's take
(R172) does not change it. -/
def urgentInFlight (s : State) : List Urgent := sendingUrgent s ++ s.trunk.urgent

/-- The urgent queue has room for one more record (R171). -/
def hasRoom (s : State) : Prop := s.trunk.urgent.length < Config.urgentSlots

/-- The FLAW records that the part has accepted and not yet sent. -/
def flawsInFlight (s : State) : List FlawRecord :=
  match s.trunk.sending with
  | some (.flaw r) => r :: s.trunk.flaws
  | some (.urgent _) => s.trunk.flaws
  | some (.line _) => s.trunk.flaws
  | none => s.trunk.flaws

/-! ### The encoder -/

/-- The pair after a pair in the forward cycle (0,0), (1,0), (1,1), (0,1) of (ENC_A, ENC_B) (R2). -/
def pairAfter : Bool × Bool → Bool × Bool
  | (false, false) => (true, false)
  | (true, false) => (true, true)
  | (true, true) => (false, true)
  | (false, true) => (false, false)

/-- The change to (a, b) is a forward increment (R2). -/
def isForward (s : State) (a b : Bool) : Prop := (a, b) = pairAfter (s.pos.encA, s.pos.encB)

/-- The change to (a, b) is a reverse increment (R2). -/
def isReverse (s : State) (a b : Bool) : Prop := (s.pos.encA, s.pos.encB) = pairAfter (a, b)

/-! ### A raise -/

/-- The counters of the condition kinds with one more of a kind, saturating at 65535 (R147). -/
def counted (k : CondKind) (xs : List Nat) : List Nat :=
  xs.set (k.code - 1) (min 65535 (xs.getD (k.code - 1) 0 + 1))

/-- The record that a raise fills (R150): P and the millisecond time as they stand, further count 0. -/
def filledRecord (k : CondKind) (lane : Option LaneId) (d1 d2 : Nat) (level : CondLevel) (escalated : Bool) (s : State) :
    CondRecord where
  kind := k
  level := level
  lane := lane
  position := s.pos.p
  time := s.msTime
  detail1 := d1
  detail2 := d2
  further := 0
  escalated := escalated

/-- A raise handled at LINE (R151): a vacant record is filled and its notice joins the urgent queue; an occupied one counts
it. -/
def heldAtLine (k : CondKind) (lane : Option LaneId) (d1 d2 : Nat) (escalated : Bool) (s t : State) : Prop :=
  match s.cond.line with
  | none =>
    t.cond.line = some (filledRecord k lane d1 d2 .line escalated s) ∧
      t.trunk.urgent = s.trunk.urgent ++ [.cond (filledRecord k lane d1 d2 .line escalated s)]
  | some r =>
    t.cond.line = some { r with further := min 255 (r.further + 1) } ∧ t.trunk.urgent = s.trunk.urgent

/-- `t` is `s` after a raise that found room for a notice (R146 to R151): counted twice, handled at its level, nothing else
changed. -/
structure Raised (k : CondKind) (lane : Option LaneId) (d1 d2 : Nat) (s t : State) : Prop where
  counters : t.cond.counters = counted k s.cond.counters
  report : t.report = { s.report with
    current := { s.report.current with conditions := counted k s.report.current.conditions } }
  handled :
    if s.setup.delegGantry.testBit (k.code - 1) = false then
      t.cond.gantry = s.cond.gantry ∧ heldAtLine k lane d1 d2 false s t
    else if s.setup.delegLocal.testBit (k.code - 1) = true then
      t.cond.gantry = s.cond.gantry ∧ t.cond.line = s.cond.line ∧ t.trunk.urgent = s.trunk.urgent
    else
      match s.cond.gantry with
      | none =>
        t.cond.gantry = some (filledRecord k lane d1 d2 .gantry false s) ∧ t.cond.line = s.cond.line ∧
          t.trunk.urgent = s.trunk.urgent ++ [.cond (filledRecord k lane d1 d2 .gantry false s)]
      | some r =>
        t.cond.gantry = some { r with further := min 255 (r.further + 1) } ∧ heldAtLine k lane d1 d2 true s t
  rest : t = ((s.withCond t.cond).withReport t.report).withTrunk { s.trunk with urgent := t.trunk.urgent }

/-! ### Frames -/

/-- A lane after the arbiter's take: the same but for its forward slot, which is kept, or empty because its line has now been
taken for sending: the link was UP and nothing was being sent (R172). -/
def laneAfterTake (u t : State) (i : LaneId) : Prop :=
  t.lane i = { u.lane i with rx := { u.rx i with slot := (t.rx i).slot } } ∧
    ((t.rx i).slot = (u.rx i).slot ∨
      ((t.rx i).slot = none ∧ u.trunk.link = .up ∧ u.trunk.sending = none ∧
        ∃ l, (u.rx i).slot = some l ∧ t.trunk.sending = some (.line l) ∧ t.trunk.lastLane = i))

/-- The transmitter after the arbiter's take (R172). With the link DOWN or a record already being sent nothing is taken. Else a
FLAW record is taken only with no urgent record left, a line only with neither left, from the slot of the lane that is now
the last served; and nothing is being sent only where nothing was waiting. The last lane served changes only with a line
taken. -/
structure TransmitterAfterTake (u t : State) : Prop where
  held : u.trunk.link = .down ∨ u.trunk.sending ≠ none →
    t.trunk.sending = u.trunk.sending ∧ t.trunk.lastLane = u.trunk.lastLane
  urgent : ∀ r, t.trunk.sending = some (.urgent r) → u.trunk.sending = none → t.trunk.lastLane = u.trunk.lastLane
  flaw : ∀ r, t.trunk.sending = some (.flaw r) → u.trunk.sending = none →
    t.trunk.urgent = [] ∧ t.trunk.lastLane = u.trunk.lastLane
  line : ∀ l, t.trunk.sending = some (.line l) → u.trunk.sending = none →
    t.trunk.urgent = [] ∧ t.trunk.flaws = [] ∧ (u.rx t.trunk.lastLane).slot = some l ∧
      (t.rx t.trunk.lastLane).slot = none
  idle : t.trunk.sending = none → t.trunk.lastLane = u.trunk.lastLane ∧
    (u.trunk.link = .down ∨ (t.trunk.urgent = [] ∧ t.trunk.flaws = [] ∧ ∀ i, (t.rx i).slot = none))

/-- Every block is the same but for the outbound side of the Trunk Interface and the request in execution: what `u` and `t`
agree on when `t` is `u` after a response and the arbiter's take. -/
structure SameBlocks (u t : State) : Prop where
  pos : t.pos = u.pos
  pulses : t.pulses = u.pulses
  lanes : ∀ i, laneAfterTake u t i
  transmitter : TransmitterAfterTake u t
  flawId : t.flawId = u.flawId
  map : t.map = u.map
  plan : t.plan = u.plan
  cutter : t.cutter = u.cutter
  divert : t.divert = u.divert
  grader : t.grader = u.grader
  outputs : t.outputs = u.outputs
  store : t.store = u.store
  cond : t.cond = u.cond
  report : t.report = u.report
  run : t.trunk.run = u.trunk.run
  stopEnd : t.trunk.stopEnd = u.trunk.stopEnd
  link : t.trunk.link = u.trunk.link
  crcErrors : t.trunk.crcErrors = u.trunk.crcErrors
  badFrames : t.trunk.badFrames = u.trunk.badFrames
  headDrops : t.trunk.headDrops = u.trunk.headDrops
  flawDrops : t.trunk.flawDrops = u.trunk.flawDrops
  urgentDrops : t.trunk.urgentDrops = u.trunk.urgentDrops
  sendAborts : t.trunk.sendAborts = u.trunk.sendAborts
  flaws : flawsInFlight t = flawsInFlight u
  msTime : t.msTime = u.msTime
  pending : t.pending = u.pending

/-- `t` is `u` but for the arbiter's take (R172), which moves records from the queues and slots to the transmitter. -/
structure AfterTake (u t : State) : Prop where
  blocks : SameBlocks u t
  inFlight : urgentInFlight t = urgentInFlight u
  requests : t.trunk.requests = u.trunk.requests
  executing : t.trunk.executing = u.trunk.executing

/-- A request is over: if it was the executing one, the oldest waiting request executes next; else the requests are as they
were (R168; log entry 3). -/
def requestOver (r : Request) (u t : State) : Prop :=
  if u.trunk.executing = some r then
    t.trunk.executing = u.trunk.requests.head? ∧ t.trunk.requests = u.trunk.requests.tail
  else t.trunk.executing = u.trunk.executing ∧ t.trunk.requests = u.trunk.requests

/-- `t` is `u` with a request answered: its RESPONSE is behind the urgent records in flight, the request is over, and the
arbiter has taken what it can; nothing else has changed. -/
structure Answered (r : Request) (status : Status) (body : List Byte) (u t : State) : Prop where
  blocks : SameBlocks u t
  inFlight : urgentInFlight t = urgentInFlight u ++ [.response r.tag r.kind status body]
  finished : requestOver r u t

end Sys2Proof.Machine
end

