-- ==== Sys2Proof/Certificates/Slice0/Obligations.lean ====
section
/-! DEFINITION. The statements about the part: one proposition each, listed with its title and its sources in
OBLIGATIONS.json. -/

section

open Sys2Proof Sys2Proof.Machine

/-- For every command c and state s with c at the front of its queue, a step of s is the execution of c on s with the
queue's rest. (00 Run states and resets; 12.3 Requests (R168).) -/
def Obligations.StepRunsTheFrontCommand : Prop :=
  ∀ (s : State) (c : Instr) (rest : List Instr), s.pending = c :: rest → step s = exec c (s.withPending rest)

/-- In every state in which no line is in handling, every command answers a next state: none faults and none is refused.
The queue of commands is unchanged, and so is the millisecond time unless the command is the power-on reset. (00 Run
states and resets; 12.3 Requests (R168, R169).) -/
def Obligations.NoCommandStops : Prop :=
  ∀ (c : Instr) (s : State), LinesOk s →
    ∃ t, exec c s = .next t ∧ t.pending = s.pending ∧ ((∀ lv, c ≠ .powerOnReset lv) → t.msTime = s.msTime)

/-- THE MODEL'S CHOICE (log entry 1): with no command waiting and a request executing, a step puts the command of the
request's kind in the queue and changes nothing else but the arbiter's take; a request of unknown kind is answered
MALFORMED, where the urgent queue has room, and is over. With no command waiting and no request executing, a step
adds one to the millisecond time modulo 2^32, to the stall timer and to the silence timer of each WAITING or RUNNING
lane, each stopping at 65535; it queues the expiry of the stall timer exactly when the report is armed and the timer
has reached stall_ms, and of a silence timer exactly when a WAITING or RUNNING lane's timer has reached silent_ms;
with shift_period_s at 0 the Report Unit is unchanged, and above 0 the second phase grows by 1, or at the 1000th
millisecond returns to 0 and the shift timer decreases by 1; the expiry of the shift timer is queued exactly when
shift_period_s is above 0 and the timer is 0; P, the schedule, the flaw map, the planner, the cutter, the outputs
and the Table Store are unchanged. (00 Ribbon coordinates and units; 12.3 Requests (R168, R169); 1.3 Ribbon stall
(R5); 2.6 Silence and link loss (R30); 11.4 The shift timer and REPORT_GET (R162).) -/
def Obligations.OnAnEmptyQueue : Prop :=
  (∀ (s : State) (r : Request), s.pending = [] → s.trunk.executing = some r →
    (∀ c, Instr.ofRequest r = some c → ∃ t, step s = .next t ∧ AfterTake (s.withPending [c]) t) ∧
    (Instr.ofRequest r = none → hasRoom s → ∃ t, step s = .next t ∧ Answered r .malformed [] s t)) ∧
  ∀ s : State, s.pending = [] → s.trunk.executing = none →
    ∃ t, step s = .next t ∧ t.msTime = (s.msTime + 1) % 2 ^ 32 ∧
      t.pos = { s.pos with stallTimer := min 65535 (s.pos.stallTimer + 1) } ∧
      (∀ i, (t.rx i).silenceTimer =
        if (s.rx i).state = .waiting ∨ (s.rx i).state = .running then min 65535 ((s.rx i).silenceTimer + 1)
        else (s.rx i).silenceTimer) ∧
      (Instr.stallTimerExpiry ∈ t.pending ↔ s.pos.stallArmed = true ∧ s.setup.stallMs ≤ t.pos.stallTimer) ∧
      (∀ i, Instr.silenceTimerExpiry i ∈ t.pending ↔
        ((s.rx i).state = .waiting ∨ (s.rx i).state = .running) ∧ s.setup.silentMs ≤ (t.rx i).silenceTimer) ∧
      (s.setup.shiftPeriodS = 0 → t.report = s.report) ∧
      (0 < s.setup.shiftPeriodS → s.report.secondPhase < 999 →
        t.report = { s.report with secondPhase := s.report.secondPhase + 1 }) ∧
      (0 < s.setup.shiftPeriodS → 999 ≤ s.report.secondPhase →
        t.report = { s.report with secondPhase := 0, shiftTimer := s.report.shiftTimer - 1 }) ∧
      (Instr.shiftTimerExpiry ∈ t.pending ↔ 0 < s.setup.shiftPeriodS ∧ t.report.shiftTimer = 0) ∧
      t.map = s.map ∧ t.plan = s.plan ∧ t.cutter = s.cutter ∧ t.outputs = s.outputs ∧ t.store = s.store

/-- An ENCODER_INCREMENT to the next pair of the forward cycle, with a reverse debt above 0, takes 1 off the debt and
leaves P; if the debt reaches 0 the excursion start becomes absent and the reverse report is armed. The quadrature
state takes the new pair. Nothing else changes but for the arbiter's take. An ENCODER_INCREMENT to the pair before
the quadrature state in the forward cycle: at a debt of 0 the debt becomes 1 and the excursion start P; from 1 to
254 the debt increases by 1; at 255 with the reverse report disarmed only the quadrature state changes. Nothing else
changes but for the arbiter's take. An ENCODER_INCREMENT to the pair before the quadrature state, at a debt of 255
with the reverse report armed and room in the urgent queue, disarms the report and raises ENCODER_REVERSE with no
lane, detail1 the low 32 bits of the excursion start and detail2 0; the debt and P stay; nothing else changes but
for the arbiter's take. An ENCODER_INCREMENT event in which both inputs change together, and a forward increment
with no debt at P = 2^48 - 1, change the quadrature state and nothing else but for the arbiter's take. (1.2 Encoder
counting (R2, R3, R4); 10.3 The raise (R146, R147); 10.4 Delegation masks (R148, R149); 10.5 The levels (R150,
R151).) -/
def Obligations.IncrementsThatKeepP : Prop :=
  (∀ (s : State) (a b : Bool), isForward s a b → 0 < s.pos.debt →
    ∃ t, exec (.encoderIncrement a b) s = .next t ∧
      AfterTake (s.withPos { s.pos with
        encA := a, encB := b, debt := s.pos.debt - 1,
        excursion := if s.pos.debt = 1 then none else s.pos.excursion,
        reverseArmed := if s.pos.debt = 1 then true else s.pos.reverseArmed }) t) ∧
  ((∀ (s : State) (a b : Bool), isReverse s a b →
    (s.pos.debt = 0 → ∃ t, exec (.encoderIncrement a b) s = .next t ∧
      AfterTake (s.withPos { s.pos with encA := a, encB := b, debt := 1, excursion := some s.pos.p }) t) ∧
    (1 ≤ s.pos.debt → s.pos.debt ≤ 254 → ∃ t, exec (.encoderIncrement a b) s = .next t ∧
      AfterTake (s.withPos { s.pos with encA := a, encB := b, debt := s.pos.debt + 1 }) t) ∧
    (s.pos.debt = 255 → s.pos.reverseArmed = false → ∃ t, exec (.encoderIncrement a b) s = .next t ∧
      AfterTake (s.withPos { s.pos with encA := a, encB := b }) t)) ∧
  ∀ (s : State) (a b : Bool) (x : Nat), isReverse s a b → s.pos.debt = 255 → s.pos.reverseArmed = true →
    s.pos.excursion = some x → hasRoom s →
    ∃ v t, exec (.encoderIncrement a b) s = .next t ∧
      Raised .encoderReverse none (x % 2 ^ 32) 0
        (s.withPos { s.pos with encA := a, encB := b, reverseArmed := false }) v ∧ AfterTake v t) ∧
  ∀ (s : State) (a b : Bool),
    (a ≠ s.pos.encA → b ≠ s.pos.encB → ∃ t, exec (.encoderIncrement a b) s = .next t ∧
      AfterTake (s.withPos { s.pos with encA := a, encB := b }) t) ∧
    (isForward s a b → s.pos.debt = 0 → s.pos.p = 2 ^ 48 - 1 → ∃ t, exec (.encoderIncrement a b) s = .next t ∧
      AfterTake (s.withPos { s.pos with encA := a, encB := b }) t)

/-- An ENCODER_INCREMENT to the next pair of the forward cycle, with no debt and P below 2^48 - 1, makes P one greater,
restarts the stall timer at 0 and arms the stall report. When the trigger phase reaches line_pitch or more, the
phase becomes 0, the TRIG outputs are pulsed once, the trigger number increases by one modulo 65536, trigger seen is
set and slot (number mod 256) of the history holds the number and the new P; otherwise the phase increases by 1 and
none of these changes. The debt, the excursion start and the reverse report, the setup parameters, the output
controls, the clock, the queue and the requests are unchanged. A trigger issued while one DETECT bank is COMMITTING
and the other ACTIVE: the COMMITTING bank becomes ACTIVE; in INSPECT and STOPPING every RUNNING lane is given a line
binding on the old bank; with an OPEN blob tagged with it, or a line binding on it, the old bank becomes RETIRING
and T_sw is the trigger's number, else LOADED and T_sw absent; nothing else of the banks or lanes changes. The bank
in effect for a line is the ACTIVE bank with T_sw absent, at or after T_sw, and for a lane without line binding;
before T_sw it is the bank of the lane's line binding. A RUNNING lane's line binding is released by its first good
line at or after T_sw and by no earlier line; a release after which nothing is bound to the RETIRING bank makes it
LOADED and T_sw absent. (1.2 Encoder counting (R3); 1.3 Ribbon stall (R5); 1.4 Line triggers (R7, R8); 1.5 Trigger
history (R9); 9.5 Switch points (R137, R139); 9.6 Bindings and retiring (R140, R141); 2.5 Inspected lines and
saturation (R27).) -/
def Obligations.ForwardIncrementAdvancesP : Prop :=
  (∀ (s : State) (a b : Bool), isForward s a b → s.pos.debt = 0 → s.pos.p < 2 ^ 48 - 1 →
    ∃ t, exec (.encoderIncrement a b) s = .next t ∧
      t.pos.p = s.pos.p + 1 ∧ t.pos.encA = a ∧ t.pos.encB = b ∧ t.pos.stallTimer = 0 ∧ t.pos.stallArmed = true ∧
      (if s.setup.linePitch ≤ s.pos.phase + 1 then
        t.pos.phase = 0 ∧ t.pulses.trig = s.pulses.trig + 1 ∧ t.pos.trigger = (s.pos.trigger + 1) % 65536 ∧
          t.pos.triggerSeen = true ∧
          t.pos.history = s.pos.history.set (t.pos.trigger % 256) (some ⟨t.pos.trigger, s.pos.p + 1⟩)
      else
        t.pos.phase = s.pos.phase + 1 ∧ t.pulses.trig = s.pulses.trig ∧ t.pos.trigger = s.pos.trigger ∧
          t.pos.triggerSeen = s.pos.triggerSeen ∧ t.pos.history = s.pos.history) ∧
      t.pos.debt = 0 ∧ t.pos.excursion = s.pos.excursion ∧ t.pos.reverseArmed = s.pos.reverseArmed ∧
      t.setup = s.setup ∧ t.outputs = s.outputs ∧ t.msTime = s.msTime ∧ t.pending = s.pending ∧
      t.trunk.requests = s.trunk.requests ∧ t.trunk.executing = s.trunk.executing) ∧
  ∀ (s : State) (i : LaneId) (old : BankId),
    let new := otherBank old
    let detect := s.store.detect
    let tagged : Prop := ∃ j b, Slot.blob b ∈ (s.lane j).tracker.slots ∧ b.tag = old
    ((detect.get old).state = .active → (detect.get new).state = .committing →
      let t := issueTrigger s
      let given : LaneId → Option BankId := fun j =>
        if s.trunk.run ≠ .standby ∧ (s.rx j).state = .running then some old else (s.rx j).lineBinding
      let used : Prop := tagged ∨ ∃ j, given j = some old
      t.store.detect.get new = { detect.get new with state := .active } ∧
      (used → t.store.detect.get old = { detect.get old with state := .retiring } ∧ t.store.tSw = some t.pos.trigger) ∧
      (¬used → t.store.detect.get old = { detect.get old with state := .loaded } ∧ t.store.tSw = none) ∧
      t.pos.trigger = (s.pos.trigger + 1) % 65536 ∧ t.store.grade = s.store.grade ∧ t.setup = s.setup ∧
      ∀ j, t.lane j = { s.lane j with rx := { s.rx j with lineBinding := given j } }) ∧
    ((detect.get old).state = .retiring → (detect.get new).state = .active →
      (∀ n : Nat, n < 65536 →
        (s.store.tSw = none → bankInEffect s i n = some new) ∧
        (∀ sw, s.store.tSw = some sw → ((n : Int) - sw) % 65536 < 32768 → bankInEffect s i n = some new ∧
          ((s.rx i).lineBinding ≠ none → finishOldBank i n s = releaseLineBinding i s)) ∧
        (∀ sw, s.store.tSw = some sw → 32768 ≤ ((n : Int) - sw) % 65536 → finishOldBank i n s = s ∧
          bankInEffect s i n = some ((s.rx i).lineBinding.getD new))) ∧
      let r := releaseLineBinding i s
      let used : Prop := tagged ∨ ∃ j, j ≠ i ∧ (s.rx j).lineBinding = some old
      (∀ j, r.lane j = if j = i then { s.lane i with rx := { s.rx i with lineBinding := none } } else s.lane j) ∧
      (used → r.store = s.store) ∧
      (¬used → r.store = { s.store with detect := detect.setState old .loaded, tSw := none }))

/-- For a trigger number t below 65536, the lookup returns a position exactly when trigger seen is set, (latest - t) mod
65536 is below 256 and slot (t mod 256) is valid and holds t at that position; in every other case t is stale.
Before the first trigger every number is stale; a number 256 or more behind latest is stale; a number ahead of
latest, which gives a difference of 65281 or more, is stale; a number whose slot is invalid or holds another number
is stale. The lookup gives a position or none and no state: it changes nothing. (R10.) -/
def Obligations.TriggerLookup : Prop :=
  ∀ (s : State) (t : Nat), s.pos.trigger < 65536 → t < 65536 →
    (∀ x, lookupTrigger t s = some x ↔
      s.pos.triggerSeen = true ∧ ((s.pos.trigger : Int) - t) % 65536 < 256 ∧
        s.pos.history.getD (t % 256) none = some ⟨t, x⟩) ∧
    (s.pos.triggerSeen = false → lookupTrigger t s = none) ∧
    (256 ≤ ((s.pos.trigger : Int) - t) % 65536 → lookupTrigger t s = none) ∧
    (1 ≤ ((t : Int) - s.pos.trigger) % 65536 → ((t : Int) - s.pos.trigger) % 65536 ≤ 255 →
      65281 ≤ ((s.pos.trigger : Int) - t) % 65536 ∧ lookupTrigger t s = none) ∧
    ((∀ x, s.pos.history.getD (t % 256) none ≠ some ⟨t, x⟩) → lookupTrigger t s = none)

/-- STALL_TIMER_EXPIRY with the stall report armed, the timer at stall_ms or above and room in the urgent queue raises
RIBBON_STALLED with no lane, detail1 stall_ms and detail2 the reverse debt, and disarms the report; nothing else
changes but for the arbiter's take. THE MODEL'S CHOICE (log entry 2): where the timer is below stall_ms or the
report disarmed, it changes nothing but for the take. (1.3 Ribbon stall (R5); 10.3 The raise (R146, R147); 10.4
Delegation masks (R148, R149); 10.5 The levels (R150, R151).) -/
def Obligations.StallReportWhenDue : Prop :=
  ∀ s : State,
    (s.pos.stallArmed = true → s.setup.stallMs ≤ s.pos.stallTimer → hasRoom s →
      ∃ v t, exec .stallTimerExpiry s = .next t ∧
        Raised .ribbonStalled none s.setup.stallMs s.pos.debt (s.withPos { s.pos with stallArmed := false }) v ∧
        AfterTake v t) ∧
    ((s.pos.stallArmed = false ∨ s.pos.stallTimer < s.setup.stallMs) →
      ∃ t, exec .stallTimerExpiry s = .next t ∧ AfterTake s t)

/-- In a state that keeps the schedule's law, an entry at or below P is handed at once. Above P it is accepted while the
schedule holds at most 62 entries (CUT, DIVERT) or 63 (ISSUE_LIMIT, CONFIRM_DEADLINE), and is placed after every
entry whose fire position is at or below its own and before every other; at more entries it is refused. In a state
that keeps the schedule's law, once P has advanced by 1 the entries taken out of the schedule all have the new P as
their fire position, those that stay are all above it, and the two lists one after the other are the schedule as it
was. At a forward increment with no debt below 2^48 - 1, P advances with the stall timer at 0 and armed, then the
trigger phase, then the entries due leave the schedule; each is handed whole, in list order, to its owner by its
kind, an entry withdrawn meanwhile not at all, until none is left. With an entry due, the Grader's retry and one
planning attempt follow; with none due, the retry alone follows where the divert wait's f is the new P. H is then
recomputed where no lane is RUNNING or WAITING, and nothing else changes but for the arbiter's take. THE MODEL'S
CHOICE (log entry 4): this order. (1.6 The position schedule (R12, R13, R14); 1.2 Encoder counting (R3); 8.9 Waiting
for the divert (R130); 6.4 Planning attempts (R89); 5.6 The inspection horizon (R82).) -/
def Obligations.ScheduleOrderAndFiring : Prop :=
  (∀ (s : State) (e : Entry), ScheduleOk s →
    let most : Nat := match e.kind with
      | .cut => 62
      | .divert => 62
      | .issueLimit => 63
      | .confirmDeadline => 63
    (e.fire ≤ s.pos.p → insertEntry e s = .atOnce) ∧
    (s.pos.p < e.fire → s.pos.schedule.length ≤ most → ∃ pre post, s.pos.schedule = pre ++ post ∧
      (∀ x ∈ pre, x.fire ≤ e.fire) ∧ (∀ x ∈ post, e.fire < x.fire) ∧
      insertEntry e s = .held (s.withPos { s.pos with schedule := pre ++ e :: post })) ∧
    (s.pos.p < e.fire → most < s.pos.schedule.length → insertEntry e s = .refused)) ∧
  (∀ s : State, ScheduleOk s →
    let u := takeFiring (s.withPos { s.pos with p := s.pos.p + 1 })
    u.pos.firing ++ u.pos.schedule = s.pos.schedule ∧ (∀ e ∈ u.pos.firing, e.fire = s.pos.p + 1) ∧
      ∀ e ∈ u.pos.schedule, s.pos.p + 1 < e.fire) ∧
  (∀ (n : Nat) (u : State), (u.pos.firing = [] → handFiring n u = u) ∧
    (u.pos.firing.length ≤ n → (handFiring n u).pos.firing = []) ∧
    ∀ (e : Entry) (rest : List Entry), u.pos.firing = e :: rest →
      let v := u.withPos { u.pos with firing := rest }
      handFiring (n + 1) u = handFiring n (match e.kind with
        | .cut => fireCut e.plate v
        | .issueLimit => fireIssueLimit e.plate v
        | .confirmDeadline => fireDeadline e.plate v
        | .divert => fireDivert e.plate v)) ∧
  ∀ (s : State) (a b : Bool), isForward s a b → s.pos.debt = 0 → s.pos.p < 2 ^ 48 - 1 →
    let moved := s.withPos { s.pos with encA := a, encB := b, p := s.pos.p + 1, stallTimer := 0, stallArmed := true }
    let taken := takeFiring (advancePhase moved)
    let handed := handFiring taken.pos.firing.length taken
    let considered : State → Prop := fun u => ∃ i, (u.rx i).state = .running ∨ (u.rx i).state = .waiting
    let reached : State → Prop := fun u => ∃ w, u.grader.wait = some w ∧ w.fire = s.pos.p + 1
    taken.pos.firing = s.pos.firing ++ s.pos.schedule.filter (fun e => decide (e.fire ≤ s.pos.p + 1)) ∧
      taken.pos.schedule = s.pos.schedule.filter (fun e => decide (s.pos.p + 1 < e.fire)) ∧
      ∃ u t, exec (.encoderIncrement a b) s = .next t ∧
        (taken.pos.firing ≠ [] → u = planningAttempt (retryDivert handed)) ∧
        (taken.pos.firing = [] → reached taken → u = retryDivert taken) ∧
        (taken.pos.firing = [] → ¬reached taken → u = taken) ∧
        (considered u → AfterTake u t) ∧ (¬considered u → AfterTake (recomputeH u) t)

/-- Entry to STANDBY from STOPPING makes the run state STANDBY; the schedule and what is left of a firing list are
empty; no cut is outstanding or pending; the map has no records and no mark and H stays; no bank is COMMITTING or
RETIRING, T_sw is absent and no lane holds a line binding; the planner's wait state is NONE; E, P, the sequence
level, the gate and the output controls stay. THE MODEL'S CHOICE (log entry 31): what is left of a firing list is
dropped with the schedule. With no cut outstanding or pending nothing is raised or counted. With the start cut
outstanding or pending and room in the urgent queue, its boundary becomes MISSED, the cut is counted as missed and
CUT_MISSED is raised with 0 and 4. (1.6 The position schedule (R16); 5.1 Map state (R73); 7.5 Hold and fault (R112);
9.2 Bank state (R132); 9.5 Switch points (R136); 12.6 Run control (R174); 6.8 Stopping (R101).) -/
def Obligations.EntryToStandby : Prop :=
  (∀ s : State, s.trunk.run = .stopping → s.store.detect.Ok → s.store.grade.Ok →
    let t := enterStandby s
    t.trunk.run = .standby ∧ t.pos.schedule = [] ∧ t.pos.firing = [] ∧ t.cutter.outstanding = none ∧
      t.cutter.pendingCut = none ∧ t.map.records = [] ∧ t.map.mark = none ∧ t.map.h = s.map.h ∧
      (∀ b, (t.store.detect.get b).state ≠ .committing ∧ (t.store.detect.get b).state ≠ .retiring ∧
        (t.store.grade.get b).state ≠ .committing ∧ (t.store.grade.get b).state ≠ .retiring) ∧
      t.store.tSw = none ∧ (∀ i, (t.rx i).lineBinding = none) ∧ t.plan.wait = .none ∧
      t.trunk.stopEnd = s.trunk.stopEnd ∧ t.pos.p = s.pos.p ∧ t.cutter.seqLevel = s.cutter.seqLevel ∧
      t.divert = s.divert ∧ t.outputs = s.outputs) ∧
  ∀ s : State,
    let t := enterStandby s
    let base := ((s.withTrunk { s.trunk with run := .standby }).withPos { s.pos with schedule := [], firing := [] }).withCutter
      { s.cutter with outstanding := none, pendingCut := none }
    let missed := (changeBoundary 0 ⟨.missed, none, none, none, none⟩ base).withReport { s.report with current :=
      { s.report.current with cutsMissed := min Config.max32 (s.report.current.cutsMissed + 1) } }
    let ended : State → Prop := fun v => t.cond = v.cond ∧ t.report = v.report ∧ t.trunk = v.trunk ∧
      t.plan = { v.plan with wait := .none } ∧ t.cutter = base.cutter ∧ t.pos = base.pos ∧ t.pulses = s.pulses ∧
      t.grader = s.grader ∧ t.msTime = s.msTime ∧ t.pending = s.pending
    (s.cutter.outstanding = none → s.cutter.pendingCut = none → ended base) ∧
    ((s.cutter.outstanding.map Outstanding.plate = some 0 ∧ s.cutter.pendingCut = none) ∨
        (s.cutter.outstanding = none ∧ s.cutter.pendingCut.map PendingCut.plate = some 0) →
      hasRoom s → ∃ v, Raised .cutMissed none 0 4 missed v ∧ ended v)

/-- In a state whose masks keep their held bits at 0, a raise of kind k goes to LINE when bit (k - 1) of deleg_gantry is
0, whatever the bit of deleg_local; to GANTRY when the deleg_gantry bit is 1 and the deleg_local bit 0; to LOCAL
when both are 1. FLAW_MAP_FULL never goes to LOCAL and goes to GANTRY or LINE; CUTTER_FAULT goes to LINE. (R149.) -/
def Obligations.RaiseRouting : Prop :=
  ∀ s : State, MasksOk s →
    (∀ k : CondKind, s.setup.delegGantry.testBit (k.code - 1) = false → routeOf s.setup k = .line) ∧
    (∀ k : CondKind, s.setup.delegGantry.testBit (k.code - 1) = true → s.setup.delegLocal.testBit (k.code - 1) = false →
      routeOf s.setup k = .gantry) ∧
    (∀ k : CondKind, s.setup.delegGantry.testBit (k.code - 1) = true → s.setup.delegLocal.testBit (k.code - 1) = true →
      routeOf s.setup k = .localOnly) ∧
    (routeOf s.setup .flawMapFull = .gantry ∨ routeOf s.setup .flawMapFull = .line) ∧
    routeOf s.setup .cutterFault = .line

/-- With room in the urgent queue, a raise of any kind adds 1 to the kind's counter and to the current report's count of
the kind, both saturating at 65535; at LOCAL it does no more; at GANTRY it fills the vacant record (level GANTRY,
further count 0, ESCALATED clear, P and the time as they stand) and hands its notice, or adds 1 to the further
count, saturating at 255, and is handled at LINE with ESCALATED set; at LINE it fills the vacant record and hands
its notice, or adds 1 to the further count with no notice. Nothing else in the state changes. With the urgent queue
full, deleg_gantry at 0 and the LINE record vacant, a raise of a kind other than TRUNK_OVERRUN fills the LINE
record, counts its kind once, leaves the urgent queue as it is and adds 1 to the drop counter; TRUNK_OVERRUN is then
counted once and adds 1 to the record's further count. A raise of TRUNK_OVERRUN itself is counted once, fills the
record and raises nothing further. (10.3 The raise (R146, R147); 10.4 Delegation masks (R149); 10.5 The levels
(R150, R151); 10.6 COND notices (R152); 12.5 The outbound side (R171).) -/
def Obligations.RaiseIsHandledWhole : Prop :=
  (∀ (k : CondKind) (lane : Option LaneId) (d1 d2 : Nat) (s : State), hasRoom s →
    Raised k lane d1 d2 s (raise k lane d1 d2 s)) ∧
  ∀ (k : CondKind) (lane : Option LaneId) (d1 d2 : Nat) (s : State), ¬hasRoom s → s.setup.delegGantry = 0 →
    s.cond.line = none →
    (k ≠ .trunkOverrun →
      (raise k lane d1 d2 s).cond.line = some { filledRecord k lane d1 d2 .line false s with further := 1 } ∧
      (raise k lane d1 d2 s).cond.counters = counted .trunkOverrun (counted k s.cond.counters)) ∧
    (k = .trunkOverrun →
      (raise k lane d1 d2 s).cond.line = some (filledRecord k lane d1 d2 .line false s) ∧
      (raise k lane d1 d2 s).cond.counters = counted k s.cond.counters) ∧
    (raise k lane d1 d2 s).trunk.urgent = s.trunk.urgent ∧
    (raise k lane d1 d2 s).trunk.urgentDrops = min Config.max32 (s.trunk.urgentDrops + 1)

/-- With room in the urgent queue, CONDITION_CLEAR of GANTRY (0) or LINE (1) is answered OK with the record as it stood,
its presence byte 1 and its twenty-four bytes, or twenty-five zeros where it was vacant, and vacates it; clearing
LINE takes ALARM's function level low. THE MODEL'S CHOICE (log entry 12): the body is the record as an optional
field, with that presence byte. Another level, or no level, is answered MALFORMED and changes nothing. Nothing else
changes but for the response, the request's end and the arbiter's take. (10.8 Requests (R155); 12.3 Requests (R169);
12.7 Status and formats (R177).) -/
def Obligations.ConditionClear : Prop :=
  ∀ (s : State) (tag : Byte) (rest : List Byte), hasRoom s →
    let record : Option CondRecord → List Byte := fun r =>
      match r with
      | some x => 1 :: x.bytes
      | none => List.replicate 25 0
    (∃ t, exec (.conditionClear tag (0 :: rest)) s = .next t ∧
      Answered ⟨tag, 15, 0 :: rest⟩ .ok (record s.cond.gantry) (s.withCond { s.cond with gantry := none }) t) ∧
    (∃ t, exec (.conditionClear tag (1 :: rest)) s = .next t ∧ functionLevel .alarm t = false ∧
      Answered ⟨tag, 15, 1 :: rest⟩ .ok (record s.cond.line) (s.withCond { s.cond with line := none }) t) ∧
    (∀ level : Byte, 2 ≤ level.toNat → ∃ t, exec (.conditionClear tag (level :: rest)) s = .next t ∧
      Answered ⟨tag, 15, level :: rest⟩ .malformed [] s t) ∧
    ∃ t, exec (.conditionClear tag []) s = .next t ∧ Answered ⟨tag, 15, []⟩ .malformed [] s t

/-- With room in the urgent queue, STATUS_GET, CONDITION_GET, REPORT_GET of CURRENT (0), SETUP_READ of a known parameter
and TABLE_READ of a known table, bank and index are answered OK in every run state, and nothing changes but for the
response, the request's end and the arbiter's take: STATUS_GET with the sections of R176 in order, CONDITION_GET
with both records, the seventeen counters and the two masks, REPORT_GET with the current report, SETUP_READ with the
stored value in the bytes its range needs, TABLE_READ with the stored entry and the bank's state. THE MODEL'S
CHOICE: the layouts of STATUS_GET that R176 leaves open (log entry 11), the codes of marks and bank states (log
entry 9), and the records of CONDITION_GET as optional fields (log entry 12). (9.3 Writes and reads (R134); 9.7
Setup parameters (R142); 10.8 Requests (R154); 11.4 The shift timer and REPORT_GET (R163); 12.7 Status and formats
(R176).) -/
def Obligations.ReadsAnswerAndChangeNothing : Prop :=
  ∀ (s : State) (tag : Byte) (rest : List Byte), hasRoom s →
    (∃ t, exec (.statusGet tag rest) s = .next t ∧ Answered ⟨tag, 1, rest⟩ .ok
      (positionSection s ++ receiverSection s ++ trackerSection s ++ mapSection s ++ plannerSection s ++ cutterSection s ++
        graderSection s ++ tableSection s ++ conditionSection s ++ reportSection s ++ trunkSection s) s t) ∧
    (∃ t, exec (.conditionGet tag rest) s = .next t ∧ Answered ⟨tag, 14, rest⟩ .ok
      (optBytes 24 CondRecord.bytes s.cond.gantry ++ optBytes 24 CondRecord.bytes s.cond.line ++
        s.cond.counters.flatMap (leBytes 2) ++ leBytes 3 s.setup.delegGantry ++ leBytes 3 s.setup.delegLocal) s t) ∧
    (∃ t, exec (.reportGet tag (0 :: rest)) s = .next t ∧
      Answered ⟨tag, 13, 0 :: rest⟩ .ok s.report.current.bytes s t) ∧
    (∀ (code : Byte) (p : Param), Param.ofCode? code.toNat = some p → ∃ t, exec (.setupRead tag (code :: rest)) s = .next t ∧
      Answered ⟨tag, 6, code :: rest⟩ .ok (leBytes p.width (s.setup.get p)) s t) ∧
    ∀ (group bank table index : Byte) (id : TableId) (b : BankId), TableId.ofCodes? group.toNat table.toNat = some id →
      bank.toNat = b.val → index.toNat < id.size → ∃ t, exec (.tableRead tag (group :: bank :: table :: index :: rest)) s = .next t ∧
        Answered ⟨tag, 3, group :: bank :: table :: index :: rest⟩ .ok (readEntry id b index.toNat s) s t

/-- With room in the urgent queue, TABLE_WRITE, TABLE_READ, BANK_COMMIT, SETUP_WRITE, SETUP_READ, LANE_CONTROL,
REPORT_GET, CONDITION_CLEAR, OUTPUT_SET and OUTPUT_OWNER with fewer argument bytes than their fixed arguments take
(3, 4, 1, 1, 1, 3, 1, 1, 1, 1) are answered MALFORMED in every run state, and nothing changes but for the response,
the request's end and the arbiter's take. OUTPUT_SET and OUTPUT_OWNER with a count of 0 or above 6, with fewer bytes
than the count's pairs take, or with any of those pairs naming an output code of 6 or more (the TRIG codes 6 to 9
among them) or a value above 1, are answered so too. So are: TABLE_WRITE and TABLE_READ with a group above 1, a
table the group has not, or an index beyond the table; TABLE_WRITE with fewer bytes than the entry takes; TABLE_READ
with a bank above 1; SETUP_WRITE and SETUP_READ with a parameter above 16; SETUP_WRITE with fewer bytes than the
parameter's value takes. THE MODEL'S CHOICE (log entry 19): R116 states no answer for a count above 6. THE MODEL'S
READING (log entry 10, DEDUCED): a table's code counts within its group. (12.3 Requests (R169); 7.7 Discrete outputs
(R116); 9.3 Writes and reads (R133, R134); 9.7 Setup parameters (R142).) -/
def Obligations.RequestsWithBadArguments : Prop :=
  (∀ (s : State) (tag : Byte) (args : List Byte), hasRoom s →
    (args.length < 3 → ∃ t, exec (.tableWrite tag args) s = .next t ∧ Answered ⟨tag, 2, args⟩ .malformed [] s t) ∧
    (args.length < 4 → ∃ t, exec (.tableRead tag args) s = .next t ∧ Answered ⟨tag, 3, args⟩ .malformed [] s t) ∧
    (args.length < 1 → ∃ t, exec (.bankCommit tag args) s = .next t ∧ Answered ⟨tag, 4, args⟩ .malformed [] s t) ∧
    (args.length < 1 → ∃ t, exec (.setupWrite tag args) s = .next t ∧ Answered ⟨tag, 5, args⟩ .malformed [] s t) ∧
    (args.length < 1 → ∃ t, exec (.setupRead tag args) s = .next t ∧ Answered ⟨tag, 6, args⟩ .malformed [] s t) ∧
    (args.length < 3 → ∃ t, exec (.laneControl tag args) s = .next t ∧ Answered ⟨tag, 9, args⟩ .malformed [] s t) ∧
    (args.length < 1 → ∃ t, exec (.reportGet tag args) s = .next t ∧ Answered ⟨tag, 13, args⟩ .malformed [] s t) ∧
    (args.length < 1 → ∃ t, exec (.conditionClear tag args) s = .next t ∧ Answered ⟨tag, 15, args⟩ .malformed [] s t) ∧
    (args.length < 1 → ∃ t, exec (.outputSet tag args) s = .next t ∧ Answered ⟨tag, 16, args⟩ .malformed [] s t) ∧
    (args.length < 1 → ∃ t, exec (.outputOwner tag args) s = .next t ∧ Answered ⟨tag, 17, args⟩ .malformed [] s t)) ∧
  (∀ (s : State) (tag n : Byte) (rest : List Byte), hasRoom s →
    let args := n :: rest
    let refused : Prop :=
      (∃ t, exec (.outputSet tag args) s = .next t ∧ Answered ⟨tag, 16, args⟩ .malformed [] s t) ∧
      ∃ t, exec (.outputOwner tag args) s = .next t ∧ Answered ⟨tag, 17, args⟩ .malformed [] s t
    (n.toNat = 0 ∨ 6 < n.toNat → refused) ∧ (rest.length < 2 * n.toNat → refused) ∧
    ∀ (pre post : List Byte) (code value : Byte), rest = pre ++ code :: value :: post → pre.length % 2 = 0 →
      pre.length < 2 * n.toNat → 6 ≤ code.toNat ∨ 2 ≤ value.toNat → refused) ∧
  ∀ (s : State) (tag : Byte), hasRoom s →
    let tables : List (Byte × Byte × TableId × Nat × Nat) := [(0, 0, .lane, 4, 26), (0, 1, .boundary, 60, 2),
      (0, 2, .threshold, 64, 4), (0, 3, .cls, 16, 22), (1, 0, .zone, 3, 8), (1, 1, .limit, 192, 1), (1, 2, .fatal, 16, 1),
      (1, 3, .divert, 7, 1), (1, 4, .spec, 8, 6), (1, 5, .plan, 1, 5)]
    let unknown : Byte → Byte → Prop := fun group table =>
      2 ≤ group.toNat ∨ (group.toNat = 0 ∧ 4 ≤ table.toNat) ∨ (group.toNat = 1 ∧ 6 ≤ table.toNat)
    let write : List Byte → Prop := fun args =>
      ∃ t, exec (.tableWrite tag args) s = .next t ∧ Answered ⟨tag, 2, args⟩ .malformed [] s t
    let read : List Byte → Prop := fun args =>
      ∃ t, exec (.tableRead tag args) s = .next t ∧ Answered ⟨tag, 3, args⟩ .malformed [] s t
    let setupWrite : List Byte → Prop := fun args =>
      ∃ t, exec (.setupWrite tag args) s = .next t ∧ Answered ⟨tag, 5, args⟩ .malformed [] s t
    let setupRead : List Byte → Prop := fun args =>
      ∃ t, exec (.setupRead tag args) s = .next t ∧ Answered ⟨tag, 6, args⟩ .malformed [] s t
    (∀ (group bank table index : Byte) (rest : List Byte),
      (unknown group table → write (group :: table :: index :: rest) ∧ read (group :: bank :: table :: index :: rest)) ∧
      (2 ≤ bank.toNat → read (group :: bank :: table :: index :: rest)) ∧
      ∀ (id : TableId) (size bytes : Nat), (group, table, id, size, bytes) ∈ tables →
        TableId.ofCodes? group.toNat table.toNat = some id ∧ id.size = size ∧ id.widths.sum = bytes ∧
        (size ≤ index.toNat → write (group :: table :: index :: rest) ∧ read (group :: bank :: table :: index :: rest)) ∧
        (rest.length < bytes → write (group :: table :: index :: rest))) ∧
    ∀ (code : Byte) (rest : List Byte), (17 ≤ code.toNat → setupWrite (code :: rest) ∧ setupRead (code :: rest)) ∧
      ∀ p : Param, Param.ofCode? code.toNat = some p → rest.length < p.width → setupWrite (code :: rest)

/-- With room in the urgent queue and a value of the parameter's width: a parameter other than shift_period_s and the
masks is answered NOT_NOW outside STANDBY and nothing changes; in STANDBY (and in every run state for the masks) the
value is stored clamped to the range of 9.7, the masks' held bits cleared, and every other parameter stays; a write
of shift_period_s, in every run state, also reloads the shift timer from the stored value with the second phase at
0; a write of stall_ms that leaves the stall timer below it, or finds the report disarmed, does no more; one that
finds the report armed and the timer at or above the stored value, with room for both records, also raises
RIBBON_STALLED with no lane, the stored value and the reverse debt, and disarms the report, before its response. The
answer is OK, and nothing else changes but for the response, the request's end and the arbiter's take. (9.7 Setup
parameters (R142); 1.3 Ribbon stall (R5, R6); 11.4 The shift timer and REPORT_GET (R162).) -/
def Obligations.SetupWrite : Prop :=
  ∀ (s : State) (tag code : Byte) (p : Param) (v : Nat) (rest : List Byte), hasRoom s → Param.ofCode? code.toNat = some p →
    v < 256 ^ p.width →
    let args := code :: (leBytes p.width v ++ rest)
    let u := s.withStore { s.store with setup := s.setup.put p (p.stored v) }
    (p ≠ .shiftPeriodS → p ≠ .delegGantry → p ≠ .delegLocal → s.trunk.run ≠ .standby →
      ∃ t, exec (.setupWrite tag args) s = .next t ∧ Answered ⟨tag, 5, args⟩ .notNow [] s t) ∧
    (s.trunk.run = .standby ∨ p = .delegGantry ∨ p = .delegLocal → p ≠ .shiftPeriodS →
      (p = .stallMs → s.pos.stallArmed = false ∨ s.pos.stallTimer < max 10 (min 65535 v)) →
      ∃ t, exec (.setupWrite tag args) s = .next t ∧ Answered ⟨tag, 5, args⟩ .ok [] u t ∧ t.setup.get p = p.stored v ∧
        ∀ q, q ≠ p → t.setup.get q = s.setup.get q) ∧
    (s.trunk.run = .standby → p = .stallMs → s.pos.stallArmed = true → max 10 (min 65535 v) ≤ s.pos.stallTimer →
      s.trunk.urgent.length + 2 ≤ Config.urgentSlots → ∃ w t, exec (.setupWrite tag args) s = .next t ∧
        Raised .ribbonStalled none (max 10 (min 65535 v)) s.pos.debt (u.withPos { s.pos with stallArmed := false }) w ∧
        Answered ⟨tag, 5, args⟩ .ok [] w t ∧ t.setup.stallMs = max 10 (min 65535 v)) ∧
    (p = .shiftPeriodS → ∃ t, exec (.setupWrite tag args) s = .next t ∧ t.setup.shiftPeriodS = min 65535 v ∧
      Answered ⟨tag, 5, args⟩ .ok [] (u.withReport { s.report with shiftTimer := min 65535 v, secondPhase := 0 }) t)

/-- The seventeen parameters have the codes 0 to 16 in the order of 9.7, the ranges of its table and values of the
smallest number of bytes that holds the range; no other code names one. For every written value, the value stored
for a parameter that is no mask is the nearest value of its range; a stored mask has, at every bit, the bit of the
value cut to 2^17 - 1, but for its held bits, which are 0: bit 15 of deleg_gantry, bits 6 and 15 of deleg_local.
(9.7 Setup parameters (R142); 10.4 Delegation masks (R148); 12.3 Requests (R169); 12.7 Status and formats (R177).) -/
def Obligations.StoredValues : Prop :=
  ((∀ (p : Param) (v : Nat), p ≠ .delegGantry → p ≠ .delegLocal →
    p.low ≤ p.stored v ∧ p.stored v ≤ p.high ∧ (p.low ≤ v → v ≤ p.high → p.stored v = v) ∧
      (v < p.low → p.stored v = p.low) ∧ (p.high < v → p.stored v = p.high)) ∧
  ∀ v i : Nat,
    (Param.delegGantry.stored v).testBit i = ((min v (2 ^ 17 - 1)).testBit i && i != 15) ∧
    (Param.delegLocal.stored v).testBit i = ((min v (2 ^ 17 - 1)).testBit i && (i != 15 && i != 6))) ∧
  let table : List (Param × Nat × Nat × Nat) := [(.countNm, 3, 1000, 1000000), (.linePitch, 1, 1, 255),
    (.startOffset, 3, 0, 1048575), (.dCut, 4, 1, 2 ^ 32 - 1), (.cutLead, 2, 0, 65535), (.confirmWindow, 2, 1, 65535),
    (.cutTolerance, 2, 0, 65535), (.dDiv, 4, 1, 2 ^ 32 - 1), (.divertLead, 2, 0, 65535), (.netLo, 4, 0, 2 ^ 32 - 1),
    (.netHi, 4, 0, 2 ^ 32 - 1), (.stallMs, 2, 10, 65535), (.silentMs, 2, 1, 65535), (.reseedMs, 2, 1, 65535),
    (.shiftPeriodS, 2, 0, 65535), (.delegGantry, 3, 0, 2 ^ 17 - 1), (.delegLocal, 3, 0, 2 ^ 17 - 1)]
  ∀ k : Nat, Param.ofCode? k = table[k]?.map Prod.fst ∧
    ∀ (p : Param) (bytes low high : Nat), table[k]? = some (p, bytes, low, high) →
      p.width = bytes ∧ p.low = low ∧ p.high = high

/-- In every state in which no line is in handling, every command other than SETUP_WRITE and POWER_ON_RESET leaves every
setup parameter as it was: the soft reset, RUN_START, the table requests and every event of the links, pins and
timers among them. In every state in which no line is in handling, every command other than OUTPUT_SET, OUTPUT_OWNER
and POWER_ON_RESET leaves every manual latch and owner bit as it was, the soft reset and the run transitions among
them. (9.7 Setup parameters (R142); 1.1 Position Unit state (R1); 7.7 Discrete outputs (R115, R116).) -/
def Obligations.SetupAndOutputControlsChangeOnlyByTheirRequests : Prop :=
  (∀ (c : Instr) (s t : State), LinesOk s → exec c s = .next t → (∀ tag args, c ≠ .setupWrite tag args) →
    (∀ lv, c ≠ .powerOnReset lv) → t.setup = s.setup) ∧
  ∀ (c : Instr) (s t : State), LinesOk s → exec c s = .next t → (∀ tag args, c ≠ .outputSet tag args) →
    (∀ tag args, c ≠ .outputOwner tag args) → (∀ lv, c ≠ .powerOnReset lv) → t.outputs = s.outputs

/-- With room in the urgent queue and a known group, table and index with a whole entry: with the shadow COMMITTING or
RETIRING the answer is NOT_NOW and nothing changes; otherwise it is OK, the shadow's tables are its tables with the
entry at the index written (DetectTables.write, GradeTables.write: what they store is WrittenEntryReadsBack), each
number of the arguments in its field's bytes, the shadow's state becomes LOADED where it was EMPTY and stays where
it was not, the other bank of the group, the other group, T_sw and the setup are as they were, and nothing outside
the Table Store changes but for the response, the request's end and the arbiter's take. (9.1 Groups and tables; 9.3
Writes and reads (R133); 3.9 Detection fields of the DETECT group (R51); 4.9 The class table (R68); 6.2 The order
sequence and plan parameters (R86); 8.6 Grading fields of the GRADE group (R124).) -/
def Obligations.TableWrite : Prop :=
  ∀ (s : State) (tag group table index : Byte) (id : TableId) (vs : List Nat) (rest : List Byte), hasRoom s →
    TableId.ofCodes? group.toNat table.toNat = some id → index.toNat < id.size → vs.length = id.widths.length →
    let stored := List.zipWith (fun w v => v % 256 ^ w) id.widths vs
    let state : BankState := if shadowState id s = .empty then .loaded else shadowState id s
    let args := group :: table :: index :: (writeFields id.widths vs ++ rest)
    (shadowState id s = .committing ∨ shadowState id s = .retiring →
      ∃ t, exec (.tableWrite tag args) s = .next t ∧ Answered ⟨tag, 2, args⟩ .notNow [] s t) ∧
    (shadowState id s ≠ .committing → shadowState id s ≠ .retiring →
      ∃ x t, exec (.tableWrite tag args) s = .next t ∧ Answered ⟨tag, 2, args⟩ .ok [] (s.withStore x) t ∧
        x.tSw = s.store.tSw ∧ x.setup = s.setup ∧
        (id.isDetect = true → x.grade = s.store.grade ∧
          x.detect.get (otherBank s.store.detect.shadow) = s.store.detect.get (otherBank s.store.detect.shadow) ∧
          x.detect.get s.store.detect.shadow =
            ⟨state, (s.store.detect.get s.store.detect.shadow).tables.write id index.toNat stored⟩) ∧
        (id.isDetect = false → x.detect = s.store.detect ∧
          x.grade.get (otherBank s.store.grade.shadow) = s.store.grade.get (otherBank s.store.grade.shadow) ∧
          x.grade.get s.store.grade.shadow =
            ⟨state, (s.store.grade.get s.store.grade.shadow).tables.write id index.toNat stored⟩))

/-- After a write of an entry within the index range of a table of full size, of each of the ten tables, the entry read
back holds each written number clamped to its field's range by 3.9, 4.9, 6.2 and 8.6, named values and marks by
their codes, and every other entry of the table, and every entry of the other tables, reads as before. THE MODEL'S
CHOICE (log entry 9): the codes of the marks. (9.1 Groups and tables; 9.3 Writes and reads (R133, R134); 3.9
Detection fields of the DETECT group (R51); 4.9 The class table (R68); 6.2 The order sequence and plan parameters
(R86); 8.6 Grading fields of the GRADE group (R124).) -/
def Obligations.WrittenEntryReadsBack : Prop :=
  let range : TableId → List (Nat × Nat) := fun id =>
    match id with
    | .lane => [(0, 4096), (0, 4095), (0, 4095), (2, 10), (0, 7), (0, 4096), (0, 3), (1, 4095), (0, 8000000), (10, 2000),
        (0, 2 ^ 32 - 1), (0, 2 ^ 32 - 1)]
    | .boundary => [(0, 4096)]
    | .threshold => [(1, 1023), (1, 1023)]
    | .cls => [(0, 2), (0, 2 ^ 32 - 1), (0, 2 ^ 32 - 1), (0, 2 ^ 32 - 1), (0, 2 ^ 32 - 1), (0, 1023), (0, 2), (0, 15), (0, 1)]
    | .zone => [(0, 2 ^ 32 - 1), (0, 2 ^ 32 - 1)]
    | .limit => [(0, 255)]
    | .fatal => [(0, 1)]
    | .divert => [(0, 4)]
    | .spec => [(1, 2 ^ 31), (0, 2), (0, 1)]
    | .plan => [(0, 65535), (1, 2 ^ 20)]
  let clamped : TableId → List Nat → List Nat := fun id vs =>
    List.zipWith (fun r v => max r.1 (min r.2 v)) (range id) vs
  ∀ (id : TableId) (i : Nat) (vs : List Nat), i < id.size → vs.length = (range id).length →
    (∀ t : DetectTables, id.isDetect = true → t.boundaries.length = 60 → t.thresholds.length = 64 → t.classes.length = 16 →
      (t.write id i vs).read id i = clamped id vs ∧
        ∀ (other : TableId) (j : Nat), other ≠ id ∨ j ≠ i → (t.write id i vs).read other j = t.read other j) ∧
    ∀ t : GradeTables, id.isDetect = false → t.zones.length = 3 → t.limits.length = 192 → t.fatal.length = 16 →
      t.divert.length = 7 → t.specs.length = 8 →
      (t.write id i vs).read id i = clamped id vs ∧
        ∀ (other : TableId) (j : Nat), other ≠ id ∨ (other ≠ .plan ∧ j ≠ i) → (t.write id i vs).read other j = t.read other j

/-- With room in the urgent queue and group DETECT (0) or GRADE (1): with the shadow not LOADED the answer is NOT_NOW;
with a failed check it is INVALID with the check's code in one byte and the offending index in two; in both nothing
changes. With a LOADED shadow and every check passed the answer is OK in every run state. In STANDBY the shadow
becomes ACTIVE within the command, and a bank that was ACTIVE becomes RETIRING where something is bound to it (for
DETECT an OPEN blob or a line binding, for GRADE a plate not yet graded) and LOADED where nothing is; the contents
of both, the other group and the setup stay, T_sw is absent after a DETECT switch, and nothing else changes but for
the response. For DETECT in INSPECT and STOPPING the shadow becomes COMMITTING, the other bank and the contents
stay, and nothing else changes but for the response. For GRADE in INSPECT and STOPPING the shadow becomes
COMMITTING, the response is handed and the request is over; then the planning attempt that the commit causes is made
on that state: it takes the switch, so the shadow becomes ACTIVE, and the bank that was ACTIVE becomes RETIRING or
LOADED as above; the contents of both banks, P and the setup stay, and the OK response stands behind the records
that were in flight. A group above 1 is answered MALFORMED and nothing changes. THE MODEL'S CHOICE (log entry 12):
the OK response has an empty body, although R135 says that it says that the bank is COMMITTING. (9.4 Commit (R135);
9.5 Switch points (R136, R137, R138, R139); 9.6 Bindings and retiring (R140, R141); 6.4 Planning attempts (R89);
12.3 Requests (R168).) -/
def Obligations.BankCommit : Prop :=
  ∀ (s : State) (tag : Byte) (rest : List Byte), hasRoom s → s.store.detect.Ok → s.store.grade.Ok →
    let sd := s.store.detect.shadow
    let sg := s.store.grade.shadow
    let od := otherBank sd
    let og := otherBank sg
    let detect := s.store.detect
    let grade := s.store.grade
    let boundD : Prop := ∃ i, (s.rx i).lineBinding = some od ∨ ∃ b, Slot.blob b ∈ (s.lane i).tracker.slots ∧ b.tag = od
    let boundG : Prop := ∃ p ∈ s.plan.queue, p.bank = og ∧ p.finalGrade = none
    let passD : Prop := (detect.get sd).state = .loaded ∧ detectFailure (detect.get sd).tables = none
    let passG : Prop := (grade.get sg).state = .loaded ∧ gradeFailure (grade.get sg).tables = none
    let args0 := (0 : Byte) :: rest
    let args1 := (1 : Byte) :: rest
    let tr := s.trunk
    ((detect.get sd).state ≠ .loaded → ∃ t, exec (.bankCommit tag args0) s = .next t ∧
      Answered ⟨tag, 4, args0⟩ .notNow [] s t) ∧
    ((grade.get sg).state ≠ .loaded → ∃ t, exec (.bankCommit tag args1) s = .next t ∧
      Answered ⟨tag, 4, args1⟩ .notNow [] s t) ∧
    (∀ f, (detect.get sd).state = .loaded → detectFailure (detect.get sd).tables = some f →
      ∃ t, exec (.bankCommit tag args0) s = .next t ∧
        Answered ⟨tag, 4, args0⟩ .invalid (leBytes 1 f.code ++ leBytes 2 f.index) s t) ∧
    (∀ f, (grade.get sg).state = .loaded → gradeFailure (grade.get sg).tables = some f →
      ∃ t, exec (.bankCommit tag args1) s = .next t ∧
        Answered ⟨tag, 4, args1⟩ .invalid (leBytes 1 f.code ++ leBytes 2 f.index) s t) ∧
    (passD → tr.run = .standby → ∃ g t, exec (.bankCommit tag args0) s = .next t ∧
      Answered ⟨tag, 4, args0⟩ .ok [] (s.withStore { s.store with detect := g, tSw := none }) t ∧
      g.get sd = { detect.get sd with state := .active } ∧
      ((detect.get od).state ≠ .active → g.get od = detect.get od) ∧
      ((detect.get od).state = .active → boundD → g.get od = { detect.get od with state := .retiring }) ∧
      ((detect.get od).state = .active → ¬boundD → g.get od = { detect.get od with state := .loaded })) ∧
    (passD → tr.run ≠ .standby → ∃ t, exec (.bankCommit tag args0) s = .next t ∧
      Answered ⟨tag, 4, args0⟩ .ok [] (s.withDetect (detect.setState sd .committing)) t ∧
      t.store.detect.get sd = { detect.get sd with state := .committing } ∧ t.store.detect.get od = detect.get od) ∧
    (passG → tr.run = .standby → ∃ g t, exec (.bankCommit tag args1) s = .next t ∧
      Answered ⟨tag, 4, args1⟩ .ok [] (s.withGrade g) t ∧ g.get sg = { grade.get sg with state := .active } ∧
      ((grade.get og).state ≠ .active → g.get og = grade.get og) ∧
      ((grade.get og).state = .active → boundG → g.get og = { grade.get og with state := .retiring }) ∧
      ((grade.get og).state = .active → ¬boundG → g.get og = { grade.get og with state := .loaded })) ∧
    (passG → tr.run ≠ .standby →
      let mine : Bool := decide (tr.executing = some ⟨tag, 4, args1⟩)
      let answered := (s.withGrade (grade.setState sg .committing)).withTrunk { tr with
        urgent := tr.urgent ++ [.response tag 4 .ok []]
        executing := if mine then tr.requests.head? else tr.executing
        requests := if mine then tr.requests.tail else tr.requests }
      ∃ t, exec (.bankCommit tag args1) s = .next t ∧ AfterTake (planningAttempt answered) t ∧
        urgentInFlight s ++ [.response tag 4 .ok []] <+: urgentInFlight t ∧ requestOver ⟨tag, 4, args1⟩ s t ∧
        t.store.grade.get sg = { grade.get sg with state := .active } ∧
        ((grade.get og).state = .active → boundG → t.store.grade.get og = { grade.get og with state := .retiring }) ∧
        ((grade.get og).state = .active → ¬boundG → t.store.grade.get og = { grade.get og with state := .loaded }) ∧
        t.pos.p = s.pos.p ∧ t.setup = s.setup) ∧
    ∀ group : Byte, 2 ≤ group.toNat → ∃ t, exec (.bankCommit tag (group :: rest)) s = .next t ∧
      Answered ⟨tag, 4, group :: rest⟩ .malformed [] s t

/-- In tables of full size the checks fail at these indices: 1 at a lane whose pixel count is not a multiple of 32 from
256 to 4096; 2 at a lane with win_lo above win_hi; 3 at one with win_hi at or above the pixel count; 4 at lane · 15
+ z - 1 where b_z is below its predecessor (b_0 the lane's win_lo), or z is 15 and b_15 exceeds win_hi + 1; 5 at a
lane with own_lo at or above own_hi; 6 at a zone with lo at or above hi; 7 at k · 4 + z where N[A] exceeds N[B] or
N[B] exceeds N[C]; 8 at 0 where no spec is enabled; 9 at an enabled spec shorter than min_piece. A DETECT bank is
tested for 1 to 5, a GRADE bank for 6 to 9. The failure found is the one with the lowest code, and of that code the
lowest index; none is found exactly where no check fails. THE MODEL'S READING (log entry 24, DEDUCED): in check 4 a
boundary below its predecessor comes before b_15 of its lane. (9.4 Commit (R135).) -/
def Obligations.CommitChecks : Prop :=
  ∀ (d : DetectTables) (g : GradeTables), d.boundaries.length = 60 →
    let lane : LaneId → LaneEntry := fun i => d.lanes.get i
    let bound : LaneId → Nat → Nat := fun i z => if z = 0 then (lane i).winLo else d.boundaries.getD (i.val * 15 + z - 1) 0
    let limit : Nat → Nat → Nat := fun grade cell => g.limits.getD (grade * 64 + cell) 0
    let spec : Nat → OrderSpec := fun j => g.specs.getD j default
    let zone : Nat → Zone := fun z => g.zones.getD z default
    let fails : Nat → Nat → Prop := fun code k =>
      match code with
      | 1 => ∃ i, k = i.val ∧ ((lane i).pixelCount % 32 ≠ 0 ∨ (lane i).pixelCount < 256 ∨ 4096 < (lane i).pixelCount)
      | 2 => ∃ i, k = i.val ∧ (lane i).winHi < (lane i).winLo
      | 3 => ∃ i, k = i.val ∧ (lane i).pixelCount ≤ (lane i).winHi
      | 4 => ∃ i z, k = i.val * 15 + z - 1 ∧ 1 ≤ z ∧ z ≤ 15 ∧
          (bound i z < bound i (z - 1) ∨ (z = 15 ∧ (lane i).winHi + 1 < bound i 15))
      | 5 => ∃ i, k = i.val ∧ (lane i).ownHi ≤ (lane i).ownLo
      | 6 => k < 3 ∧ (zone k).hi ≤ (zone k).lo
      | 7 => k < 64 ∧ (limit 1 k < limit 0 k ∨ limit 2 k < limit 1 k)
      | 8 => k = 0 ∧ ∀ x ∈ g.specs, x.enable = false
      | 9 => k < 8 ∧ (spec k).enable = true ∧ (spec k).length < g.minPiece
      | _ => False
    let first : Nat → Nat → Option Failure → Prop := fun low high found =>
      (found = none ↔ ∀ code k, low ≤ code → code ≤ high → ¬fails code k) ∧
      ∀ f, found = some f ↔ low ≤ f.code ∧ f.code ≤ high ∧ fails f.code f.index ∧ (∀ k, k < f.index → ¬fails f.code k) ∧
        ∀ code k, low ≤ code → code < f.code → ¬fails code k
    first 1 5 (detectFailure d) ∧ first 6 9 (gradeFailure g)

/-- With room in the urgent queue, for 1 to 6 pairs of an output and a mark, coded as R116 codes them: OUTPUT_SET is
answered OK and the latch of each named output takes the mark of its last pair, every other latch and every owner
bit staying; OUTPUT_OWNER is answered OK and the owner bit of each named output becomes MANUAL where its last pair's
mark is 1 and FUNCTION where it is 0, every other owner bit and every latch staying. Nothing else changes but for
the response, the request's end and the arbiter's take. In INSPECT and STOPPING, CUT_SEQ is driven at the sequence
level and DIV1, DIV0 and REJECT at the levels the table of R114 gives the gate destination, whatever the owner bits;
in STANDBY each of the five cutter and gate outputs is driven at its latch under MANUAL and at its function level
under FUNCTION. CUT_REQ's function level is low between pulses. In every state and run state ALARM's function level
is high exactly while the LINE record is occupied; with its owner bit at FUNCTION the output is driven at that
level, and with its owner bit at MANUAL at its latch. A raise handled at LINE leaves the level high. (7.7 Discrete
outputs (R115, R116); 7.6 Divert (R114); 10.7 The alarm lamp (R153).) -/
def Obligations.OutputRequests : Prop :=
  (∀ (s : State) (tag : Byte) (ps : List (Output × Bool)) (rest : List Byte), hasRoom s → 1 ≤ ps.length → ps.length ≤ 6 →
    let code : Output → Byte := fun o =>
      match o with
      | .cutReq => 0
      | .cutSeq => 1
      | .div0 => 2
      | .div1 => 3
      | .reject => 4
      | .alarm => 5
    let args : List Byte := BitVec.ofNat 8 ps.length :: (ps.flatMap (fun p => [code p.1, if p.2 then 1 else 0]) ++ rest)
    let last : Output → Option Bool := fun o => (ps.reverse.find? fun p => p.1 == o).map Prod.snd
    (∃ x t, exec (.outputSet tag args) s = .next t ∧ Answered ⟨tag, 16, args⟩ .ok [] (s.withOutputs x) t ∧
      ∀ o, x.get o = ⟨(last o).getD (s.outputs.get o).latch, (s.outputs.get o).owner⟩) ∧
    ∃ x t, exec (.outputOwner tag args) s = .next t ∧ Answered ⟨tag, 17, args⟩ .ok [] (s.withOutputs x) t ∧
      ∀ o, x.get o = ⟨(s.outputs.get o).latch,
        match last o with
        | some true => .manual
        | some false => .function
        | none => (s.outputs.get o).owner⟩) ∧
  (∀ s : State,
    (s.trunk.run ≠ .standby →
      drivenLevel .cutSeq s = s.cutter.seqLevel ∧ drivenLevel .cutReq s = false ∧
      (drivenLevel .div1 s, drivenLevel .div0 s, drivenLevel .reject s) =
        match s.divert.gate with
        | .stack0 => (false, false, false)
        | .stack1 => (false, true, false)
        | .stack2 => (true, false, false)
        | .stack3 => (true, true, false)
        | .reject => (false, false, true)) ∧
    (s.trunk.run = .standby → ∀ o : Output,
      ((s.outputs.get o).owner = .manual → drivenLevel o s = (s.outputs.get o).latch) ∧
      ((s.outputs.get o).owner = .function → drivenLevel o s = functionLevel o s))) ∧
  (∀ s : State,
    (functionLevel .alarm s = true ↔ ∃ r, s.cond.line = some r) ∧
    (s.outputs.alarm.owner = .function → drivenLevel .alarm s = functionLevel .alarm s) ∧
    (s.outputs.alarm.owner = .manual → drivenLevel .alarm s = s.outputs.alarm.latch)) ∧
  ∀ (k : CondKind) (lane : Option LaneId) (d1 d2 : Nat) (e : Bool) (s : State),
    functionLevel .alarm (handleLine k lane d1 d2 e s).1 = true

/-- For a column c inside the window of a detected line with its seeded mark set, d its deviation from the background
before the line and Td, Tb at least 1 the thresholds of its zone: with d at or below -64 Td the line has exactly one
hit at c, dark, of magnitude -d; with d at or above 64 Tb exactly one, bright, of magnitude d; otherwise none. No d
satisfies both tests and d = 0 is no hit; the magnitude lies between 64 times the threshold and 65472. With Td = 40,
-2560 is a dark hit and -2559 is not. (R42.) -/
def Obligations.HitTest : Prop :=
  (∀ (e : LaneEntry) (bs : List Nat) (ts : List Threshold) (ps : List Nat) (xs : List Column) (c : Nat),
    c < ps.length → c < xs.length → e.winLo ≤ c → c ≤ e.winHi → (xs.getD c default).seeded = true →
    (∀ p ∈ ps, p ≤ 1023) → (∀ x ∈ xs, x.b ≤ 65472) →
    let z := ts.getD (zoneOf bs c) default
    let d : Int := 64 * (ps.getD c 0 : Int) - ((xs.getD c default).b : Int)
    let hits := (detectColumns e bs ts 0 ps xs).2
    1 ≤ z.td → 1 ≤ z.tb →
    (d ≤ -(64 * (z.td : Int)) → (∃ h ∈ hits, h.column = c) ∧ (hits.filter fun h => h.column == c).length = 1 ∧
      ∀ h ∈ hits, h.column = c → h.polarity = .dark ∧ (h.magnitude : Int) = -d ∧ 64 * z.td ≤ h.magnitude ∧
        h.magnitude ≤ 65472) ∧
    (64 * (z.tb : Int) ≤ d → (∃ h ∈ hits, h.column = c) ∧ (hits.filter fun h => h.column == c).length = 1 ∧
      ∀ h ∈ hits, h.column = c → h.polarity = .bright ∧ (h.magnitude : Int) = d ∧ 64 * z.tb ≤ h.magnitude ∧
        h.magnitude ≤ 65472) ∧
    (-(64 * (z.td : Int)) < d → d < 64 * (z.tb : Int) → ∀ h ∈ hits, h.column ≠ c) ∧
    ¬(d ≤ -(64 * (z.td : Int)) ∧ 64 * (z.tb : Int) ≤ d) ∧ (d = 0 → ∀ h ∈ hits, h.column ≠ c)) ∧
  ∀ tb : Nat, hitPolarity ⟨40, tb⟩ (-2560) = some .dark ∧ (1 ≤ tb → hitPolarity ⟨40, tb⟩ (-2559) = none)

/-- After a detected line, a column outside the window or not present in the line keeps its background with its mark
clear; one inside with its mark clear takes 64 times its pixel with the mark set and is no hit; one inside that is a
hit keeps its background; one inside that is no hit takes B + floor((64 p - B) / 2^k). After a seed line a column
inside takes 64 times its pixel with the mark set, and every other keeps its background with the mark clear. With
non-decreasing boundaries the zone of a column is the largest z whose boundary is at or below it. (3.3 The window
(R39); 3.4 Zones and thresholds (R40); 3.6 The background (R44, R45, R46).) -/
def Obligations.ColumnsOfALine : Prop :=
  (∀ (e : LaneEntry) (bs : List Nat) (ts : List Threshold) (ps : List Nat) (xs : List Column) (c : Nat), c < xs.length →
    let inside : Prop := c < ps.length ∧ e.winLo ≤ c ∧ c ≤ e.winHi
    let x := xs.getD c default
    let z := ts.getD (zoneOf bs c) default
    let d : Int := 64 * (ps.getD c 0 : Int) - (x.b : Int)
    let r := detectColumns e bs ts 0 ps xs
    let y := r.1.getD c default
    let seed := (seedColumns e 0 ps xs).getD c default
    r.1.length = xs.length ∧
    (¬inside → y = ⟨x.b, false⟩ ∧ (∀ h ∈ r.2, h.column ≠ c) ∧ seed = ⟨x.b, false⟩) ∧
    (inside → seed = ⟨64 * ps.getD c 0, true⟩) ∧
    (inside → x.seeded = false → y = ⟨64 * ps.getD c 0, true⟩ ∧ ∀ h ∈ r.2, h.column ≠ c) ∧
    (inside → x.seeded = true → (d ≤ -(64 * (z.td : Int)) ∨ 64 * (z.tb : Int) ≤ d) → y = x) ∧
    (inside → x.seeded = true → -(64 * (z.td : Int)) < d → d < 64 * (z.tb : Int) →
      y.seeded = true ∧ (y.b : Int) = (x.b : Int) + d / 2 ^ e.k)) ∧
  ∀ (bs : List Nat) (c z : Nat), bs.length = 15 → bs.Pairwise (· ≤ ·) → zoneOf bs c = z →
    z ≤ 15 ∧ (z = 0 ∨ bs.getD (z - 1) 0 ≤ c) ∧ ∀ w, z < w → w ≤ 15 → c < bs.getD (w - 1) 0

/-- For hits in rising column order, the runs cut the hits into consecutive groups, one for each run: within a group
each hit has the polarity of the next and at most G columns lie between them; the last hit of a group and the first
of the next differ in polarity or have more than G columns between them. A run has the columns of its first and last
hit, their polarity, their number as its pixel count, their largest magnitude as its peak, and SAT where one of them
carries it. A detected line hands on the first 64 runs; with more than 64 and room in the urgent queue it raises
RUN_OVERFLOW once with the lane, the number dropped and the trigger number, and adds the number dropped to the
report; with 64 or fewer it changes nothing but the lane's profile. A run taken by a tracker (candidates and
continuation matches by R54): with no candidate it opens a blob with R55's values in the slot of the oldest
continuation match, the other matches becoming FREE; with no match, in the lowest-numbered FREE slot, else the
oldest CONTINUATION slot; with all 32 slots OPEN it is refused and nothing changes; an opened blob is the youngest.
With candidates, the one of lowest lead, the earliest in age order of equals, is joined by R56 and takes in the
others by R58; the others and the matches become FREE and every other slot stays. A refused run adds 1 to the blobs
refused; after the runs, taken in order, comes the end of the line, and then, where k above 0 were refused,
BLOB_TABLE_FULL with the lane, k and the trigger number. (3.7 Runs (R47, R48, R49); 4.2 What the tracker takes
(R53); 4.3 Joining runs to blobs (R54, R55, R56, R57); 4.4 Merging (R58).) -/
def Obligations.RunsGatherHits : Prop :=
  ((∀ (g : Nat) (hs : List Hit), (hs.Pairwise fun a b => a.column < b.column) →
    let joined : Hit → Hit → Prop := fun a b => a.polarity = b.polarity ∧ b.column ≤ a.column + 1 + g
    ∃ groups : List (List Hit), groups.flatten = hs ∧
      List.Forall₂ (fun (gr : List Hit) (r : Run) => gr.head?.map Hit.column = some r.first ∧
        gr.getLast?.map Hit.column = some r.last ∧ (∀ h ∈ gr, h.polarity = r.polarity ∧ h.magnitude ≤ r.peak) ∧
        r.pixels = gr.length ∧ (∃ h ∈ gr, h.magnitude = r.peak) ∧ (r.sat = true ↔ ∃ h ∈ gr, h.sat = true))
        groups (formRuns g hs) ∧
      (∀ gr ∈ groups, gr.IsChain joined) ∧
      groups.IsChain fun x y => ∀ a ∈ x.getLast?, ∀ b ∈ y.head?, ¬joined a b) ∧
  ∀ (i : LaneId) (b : BankId) (l : Line) (s : State),
    let e := s.laneEntry b i
    let t := s.detectTables b
    let r := detectColumns e (laneBoundaries t i) (laneThresholds t i) 0 l.pixels (s.lane i).profile
    let runs := formRuns e.g r.2
    let u := s.setProfile i r.1
    (detectLine i b l s).2 = runs.take 64 ∧
    (runs.length ≤ 64 → (detectLine i b l s).1 = u) ∧
    (64 < runs.length → hasRoom s → ∃ v, Raised .runOverflow (some i) (runs.length - 64) l.trigger u v ∧
      (detectLine i b l s).1 = v.withReport { v.report with current := { v.report.current with
        runsOverflowed := min Config.max32 (v.report.current.runsOverflowed + (runs.length - 64)) } })) ∧
  (∀ (t : Tracker) (lim : BankId → Nat) (tag : BankId) (p : Nat) (r : Run), t.Ok →
    let near : Span → Prop := fun x => r.first ≤ x.hi + 1 ∧ x.lo ≤ r.last + 1
    let cand : Nat → Blob → Prop := fun j b => t.slot j = .blob b ∧ b.polarity = r.polarity ∧ b.idle ≤ lim b.tag ∧
      near b.lastSpan ∧ b.openedNow = false
    let cont : Nat → Prop := fun j => ∃ c, t.slot j = .continuation c ∧ c.polarity = r.polarity ∧ c.idle ≤ c.idleLimit ∧
      near c.lastSpan
    let x := t.takeRun lim tag p r
    let opensAt : Nat → Prop := fun j => x.2 = false ∧ (∃ f : Bool, (f = true ↔ ∃ k, cont k) ∧
        x.1.slot j = .blob ⟨r.polarity, p, p, 0, r.first, r.last, ⟨r.first, r.last⟩, some ⟨r.first, r.last⟩,
          min 65535 r.pixels, r.peak, r.sat, 1, f, tag, true⟩) ∧
      (∀ k, k ≠ j → (cont k → x.1.slot k = .free) ∧ (¬cont k → x.1.slot k = t.slot k)) ∧
      ∃ older, x.1.age = older ++ [j] ∧ older.Sublist t.age
    ((∀ j b, ¬cand j b) →
      ((∀ j, j < 32 → ∃ b, t.slot j = .blob b) → x = (t, true)) ∧
      (∀ pre j post, t.age = pre ++ j :: post → cont j → (∀ k ∈ pre, ¬cont k) → opensAt j) ∧
      ((∀ k, ¬cont k) → ∀ j, j < 32 → t.slot j = .free → (∀ k, k < j → t.slot k ≠ .free) → opensAt j) ∧
      ((∀ k, ¬cont k) → (∀ k, k < 32 → t.slot k ≠ .free) → ∀ pre j post c, t.age = pre ++ j :: post →
        t.slot j = .continuation c → (∀ k ∈ pre, ∀ d, t.slot k ≠ .continuation d) → opensAt j)) ∧
    ∀ pre m post b, t.age = pre ++ m :: post → cand m b → (∀ j c, cand j c → b.lead ≤ c.lead) →
      (∀ j ∈ pre, ∀ c, cand j c → b.lead < c.lead) →
      ∃ (js : List Nat) (others : List Blob) (f : Bool), js.Nodup ∧ List.Forall₂ cand js others ∧
        (∀ j, j ∈ js ↔ j ≠ m ∧ ∃ c, cand j c) ∧
        (f = true ↔ b.continues = true ∨ (∃ c ∈ others, c.continues = true) ∨ ∃ k, cont k) ∧
        x.2 = false ∧ x.1.slot m = .blob { b with
          colMin := (others.map Blob.colMin).foldl min (min b.colMin r.first)
          colMax := (others.map Blob.colMax).foldl max (max b.colMax r.last)
          pixels := min 65535 (b.pixels + r.pixels + (others.map Blob.pixels).sum)
          peak := (others.map Blob.peak).foldl max (max b.peak r.peak)
          sat := b.sat || r.sat || others.any Blob.sat
          continues := f
          pendingSpan := some ((others.filterMap Blob.pendingSpan).foldl Span.union
            (match b.pendingSpan with
              | some y => y.union ⟨r.first, r.last⟩
              | none => ⟨r.first, r.last⟩)) } ∧
        (∀ j, j ≠ m → (j ∈ js ∨ cont j) → x.1.slot j = .free) ∧
        (∀ j, j ≠ m → j ∉ js → ¬cont j → x.1.slot j = t.slot j) ∧ x.1.age.Sublist t.age ∧ m ∈ x.1.age) ∧
  ∀ (i : LaneId) (tag : BankId) (p tr n : Nat) (r : Run) (runs : List Run) (s : State),
    let y := (s.lane i).tracker.takeRun (fun b => (s.laneEntry b i).idleLines) tag p r
    let u := settleDetect (s.setTracker i y.1)
    let z := runs.foldl (takeRun i tag p) (s, 0)
    (y.2 = false → takeRun i tag p (s, n) r = (u, n)) ∧
    (y.2 = true → takeRun i tag p (s, n) r = (u.withReport { s.report with current := { s.report.current with
      blobsRefused := min Config.max32 (s.report.current.blobsRefused + 1) } }, n + 1)) ∧
    (z.2 = 0 → trackRuns i tag p tr runs s = endOfLine i p z.1) ∧
    (0 < z.2 → trackRuns i tag p tr runs s = raise .blobTableFull (some i) z.2 tr (endOfLine i p z.1))

/-- A closing blob is measured by R65 and R66: the length, formed from last joined + line_pitch - lead at full width,
the width, centre and peak, and the trail, last joined + line_pitch - 1 as its 48-bit field holds it (at 2^48 or
more a free value: THE MODEL'S CHOICE, log entry 7). With its centre outside the lane's ownership span 1 is added to
the overlap count; else outside the net width, to the edge count; else with no enabled matching rule, to the noise
count; in these cases nothing else changes. Otherwise the code of the first matching rule gives a FLAW record with
the next flaw id and the blob's figures, which is handed to the flaw map and then to the flaw-record queue, which
takes it while it holds fewer than 128 and else counts the drop. At the end of a line a blob joined on it takes
R59's values, a blob not joined ages by 1, and a CONTINUATION ages by 1 or, above its limit, becomes FREE; a blob
idle above the L of its tag closes, and else one of max_blob_lines lines closes as a segment, in age order. A close
hands the blob on, then makes its slot FREE, or after a segment a CONTINUATION with its polarity and last span, idle
count 0 and the tag's L, the youngest; T_sw and the bank follow the released binding, and H is recomputed. A flush
closes every OPEN blob in age order and leaves every slot FREE and the age order empty. (4.6 Closing a blob (R63,
R64); 4.7 Measurement (R65, R66); 4.8 Placement on the gantry (R67); 4.9 The class table (R69); 4.10 Flaw records
(R70, R71); 4.5 The end of a line, idle lines and closing (R59, R60, R61, R62).) -/
def Obligations.ClosedBlobIsPlacedAndClassified : Prop :=
  ((∀ (i : LaneId) (b : Blob) (cont : Bool) (s : State), 
    let e := s.laneEntry b.tag i
    let stop := b.lastJoined + s.setup.linePitch
    let length := (stop - b.lead) * s.setup.countNm / 1000
    let width := (b.colMax - b.colMin + 1) * e.pitchUm
    let centre := e.x0 + (b.colMin + b.colMax) * e.pitchUm / 2
    let peak := b.peak / 64
    let owned : Prop := e.ownLo ≤ centre ∧ centre < e.ownHi
    let onNet : Prop := s.setup.netLo ≤ centre ∧ centre < s.setup.netHi
    let fits : ClassRule → Prop := fun c =>
      c.enable = true ∧ (c.polarity = .either ∨ (c.polarity = .dark ∧ b.polarity = .dark) ∨
        (c.polarity = .bright ∧ b.polarity = .bright)) ∧
      c.lengthMin ≤ length ∧ (c.lengthMax = 0 ∨ length ≤ c.lengthMax) ∧
      c.widthMin ≤ width ∧ (c.widthMax = 0 ∨ width ≤ c.widthMax) ∧ c.peakMin ≤ peak ∧
      (c.sat = .any ∨ (c.sat = .satOnly ∧ b.sat = true) ∨ (c.sat = .noSat ∧ b.sat = false))
    let rules := (s.detectTables b.tag).classes
    let id := (s.flawId + 1) % 2 ^ 32
    let flaw : Nat → FlawRecord := fun cls =>
      ⟨id, i, cls, b.polarity, b.lead, heldSum (stop - 1), centre, width, length, peak, b.pixels, b.sat, cont, b.continues, b.tag⟩
    let cur := s.report.current
    (¬owned → settleBlob i b cont s = s.withReport { s.report with
      current := { cur with overlapDrops := min Config.max32 (cur.overlapDrops + 1) } }) ∧
    (owned → ¬onNet → settleBlob i b cont s = s.withReport { s.report with
      current := { cur with edgeDrops := min Config.max32 (cur.edgeDrops + 1) } }) ∧
    (owned → onNet → (∀ c ∈ rules, ¬fits c) → settleBlob i b cont s = s.withReport { s.report with
      current := { cur with noiseDrops := min Config.max32 (cur.noiseDrops + 1) } }) ∧
    ∀ pre c post, owned → onNet → rules = pre ++ c :: post → (∀ x ∈ pre, ¬fits x) → fits c →
      settleBlob i b cont s = copyFlaw (flaw c.code) (enterFlaw (flaw c.code) (s.withFlawId id))) ∧
  ∀ (r : FlawRecord) (s : State),
    (s.trunk.flaws.length < 128 → copyFlaw r s = s.withTrunk { s.trunk with flaws := s.trunk.flaws ++ [r] }) ∧
    (128 ≤ s.trunk.flaws.length →
      copyFlaw r s = s.withTrunk { s.trunk with flawDrops := min Config.max32 (s.trunk.flawDrops + 1) })) ∧
  (∀ (t : Tracker) (p : Nat), t.Ok →
    let x := t.endLine p
    (∀ j, t.slot j = .free → x.slot j = .free) ∧
    (∀ j b y, t.slot j = .blob b → b.pendingSpan = some y → x.slot j = .blob { b with
      lines := if b.openedNow then b.lines else min 4095 (b.lines + b.idle + 1)
      idle := 0, lastJoined := p, lastSpan := y, pendingSpan := none, openedNow := false }) ∧
    (∀ j b, t.slot j = .blob b → b.pendingSpan = none → x.slot j = .blob { b with idle := b.idle + 1 }) ∧
    (∀ j c, t.slot j = .continuation c → (c.idle < c.idleLimit → x.slot j = .continuation { c with idle := c.idle + 1 }) ∧
      (c.idleLimit ≤ c.idle → x.slot j = .free)) ∧
    x.age.Sublist t.age ∧ ∀ j, j ∈ x.age ↔ j ∈ t.age ∧ x.slot j ≠ .free) ∧
  ∀ (i : LaneId) (p : Nat) (s : State), (s.lane i).tracker.Ok →
    let tr := (s.lane i).tracker
    let entry : BankId → LaneEntry := fun b => s.laneEntry b i
    let close : Bool → State → Nat → State := fun segment u j => closeSlot i segment u j
    (∀ b, (Slot.due entry (.blob b) = some .idle ↔ (entry b.tag).idleLines < b.idle) ∧
      (Slot.due entry (.blob b) = some .segment ↔
        b.idle ≤ (entry b.tag).idleLines ∧ (entry b.tag).maxBlobLines ≤ b.lines)) ∧
    endOfLine i p s = closeDue i (s.setTracker i (tr.endLine p)) ∧
    closeDue i s = (tr.age.filter fun j => ((tr.slot j).due entry).isSome).foldl
      (fun u j => close (decide ((tr.slot j).due entry = some .segment)) u j) s ∧
    (∀ j b seg, tr.slot j = .blob b →
      let v := settleBlob i b seg s
      close seg s j = recomputeH (settleDetect (v.setLane i { s.lane i with tracker :=
        if seg then ⟨tr.slots.set j (.continuation ⟨b.polarity, b.lastSpan, 0, (entry b.tag).idleLines⟩),
          tr.age.filter (· != j) ++ [j]⟩
        else ⟨tr.slots.set j .free, tr.age.filter (· != j)⟩ }))) ∧
    ((flush i s).lane i).tracker = ⟨List.replicate 32 .free, []⟩ ∧
    ∃ u, u = (tr.age.filter fun j => (tr.slot j).isOpen).foldl (close false) s ∧
      flush i s = u.setTracker i ⟨List.replicate 32 .free, []⟩

/-- With the map in order, a FLAW record whose trail is below the plan floor (the planned start of the oldest plate, or
C_last for an empty queue) adds 1 to the before-plan count and no more; at or above it, with 2048 records held and
room in the urgent queue, the record is dropped, the overflow mark takes in its extent and FLAW_MAP_FULL is raised
with the lane, the low 32 bits of the lead and the flaw id; otherwise it is entered after every record whose lead is
at or below its own and before every other, and nothing else changes. A gap opened at a enters an open GAP record in
order, or with the map full is refused: the mark takes in a and the lane, and FLAW_MAP_FULL is raised with 2^32 - 1;
in both the lane's open gap is a. Closing it at z above a ends its record at z, or where it was refused takes the
lane out of the mark and reaches its hi to z - 1; the length clipped to the shift is counted and the last closed gap
is z; at or below a the record is withdrawn. A closed gap [a, z) is counted and makes z the last closed gap: with z
at or below the floor nothing is entered; where the lane's last closed gap is a and the record that the map took for
it, known by its start, still ends at a, that record's end moves to z; else it is entered in order, or refused with
the low 32 bits of a and z. THE MODEL'S READING (log entries 13 and 30, DEDUCED): the start of the last closed gap's
record is kept, absent where the map refused or floored the gap; the length is counted whatever the map does; a
withdrawn gap leaves the last closed gap; an interval without glass changes nothing. Positions are compared and
lengths formed at full width; a field takes z, or z - 1, as its 48 bits hold it (at 2^48 or more a free value: THE
MODEL'S CHOICE, log entry 7). (5.2 Order and entry (R74, R75, R76); 5.3 The map full and the overflow mark (R77);
2.8 Gap records (R32); 11.2 What adds to the report (R159).) -/
def Obligations.FlawEntry : Prop :=
  (∀ (r : FlawRecord) (s : State), MapOk s →
    let floor : Nat := match s.plan.queue with
      | p :: _ => p.plannedStart
      | [] => s.plan.cLast
    let cur := s.report.current
    let mark : OverflowMark := match s.map.mark with
      | none => ⟨r.lead, r.trail, PerLane.all false⟩
      | some m => ⟨min m.lo r.lead, max m.hi r.trail, m.openLanes⟩
    (r.trail < floor → enterFlaw r s = s.withReport { s.report with
      current := { cur with beforePlan := min Config.max32 (cur.beforePlan + 1) } }) ∧
    (floor ≤ r.trail → s.map.records.length = 2048 → hasRoom s →
      Raised .flawMapFull (some r.lane) (r.lead % 2 ^ 32) r.id (s.withMap { s.map with mark := some mark })
        (enterFlaw r s)) ∧
    (floor ≤ r.trail → s.map.records.length < 2048 → ∃ pre post, s.map.records = pre ++ post ∧
      (∀ x ∈ pre, x.lead ≤ r.lead) ∧ (∀ x ∈ post, r.lead < x.lead) ∧
      enterFlaw r s = s.withMap { s.map with records := pre ++ .flaw r :: post })) ∧
  ∀ (i : LaneId) (a z : Nat) (s : State), MapOk s →
    let x := s.rx i
    let rs := s.map.records
    let became : Receiver → State → State := fun y u => u.setLane i { u.lane i with rx := y }
    let counted : State → State := fun u => u.withReport { u.report with current := { u.report.current with
      gapLength := u.report.current.gapLength.set i
        (min Config.max32 (u.report.current.gapLength.get i + (z - max a u.report.current.openP))) } }
    let placed : MapRecord → State → Prop := fun g u => ∃ pre post, rs = pre ++ post ∧ (∀ y ∈ pre, y.lead ≤ g.lead) ∧
      (∀ y ∈ post, g.lead < y.lead) ∧ u = s.withMap { s.map with records := pre ++ g :: post }
    let marked : OverflowMark → State := fun m => s.withMap { s.map with mark := some m }
    let isOpen : MapRecord → Bool := fun y => match y with
      | .gap l _ none => decide (l = i)
      | .gap _ _ (some _) => false
      | .flaw _ => false
    let ended : FlawMap := if rs.any isOpen = true then
        { s.map with records := if a < z then rs.map (fun y => if isOpen y = true then .gap i y.lead (some (heldSum z)) else y)
                                else rs.filter fun y => !isOpen y }
      else { s.map with mark := s.map.mark.map fun m =>
        ⟨m.lo, if a < z then max m.hi (heldSum (z - 1)) else m.hi, m.openLanes.set i false⟩ }
    let floor : Nat := match s.plan.queue with
      | p :: _ => p.plannedStart
      | [] => s.plan.cLast
    let after : Option Nat → Receiver := fun b => { x with lastClosedGap := some (heldSum z), lastGapStart := b }
    let extends_ : Nat → Prop := fun b => x.lastClosedGap = some a ∧ x.lastGapStart = some b ∧ MapRecord.gap i b (some a) ∈ rs
    let ofRecord : Option Nat := if rs.any isOpen = true then some a else none
    (rs.length < 2048 → ∃ u, placed (.gap i a none) u ∧ openGap i a s = became { x with openGap := some a } u) ∧
    (rs.length = 2048 → hasRoom s → ∃ u, Raised .flawMapFull (some i) (a % 2 ^ 32) (2 ^ 32 - 1)
        (marked (match s.map.mark with
          | none => ⟨a, a, (PerLane.all false).set i true⟩
          | some m => ⟨min m.lo a, m.hi, m.openLanes.set i true⟩)) u ∧
      openGap i a s = became { x with openGap := some a } u) ∧
    (x.openGap = none → closeGap i z s = s) ∧
    (x.openGap = some a → a < z → closeGap i z s = counted (became { after ofRecord with openGap := none } (s.withMap ended))) ∧
    (x.openGap = some a → z ≤ a → closeGap i z s = became { x with openGap := none } (s.withMap ended)) ∧
    (z ≤ a → closedGap i a z s = s) ∧
    (a < z → z ≤ floor → closedGap i a z s = counted (became (after none) s)) ∧
    (∀ b, a < z → floor < z → extends_ b → ∃ pre post, rs = pre ++ .gap i b (some a) :: post ∧
      MapRecord.gap i b (some a) ∉ post ∧ closedGap i a z s =
        counted (became (after (some b)) (s.withMap { s.map with records := pre ++ .gap i b (some (heldSum z)) :: post }))) ∧
    (a < z → floor < z → (∀ b, ¬extends_ b) → rs.length < 2048 →
      ∃ u, placed (.gap i a (some (heldSum z))) u ∧ closedGap i a z s = counted (became (after (some a)) u)) ∧
    (a < z → floor < z → (∀ b, ¬extends_ b) → rs.length = 2048 → hasRoom s →
      ∃ u, Raised .flawMapFull (some i) (a % 2 ^ 32) (z % 2 ^ 32) (marked (match s.map.mark with
          | none => ⟨a, heldSum (z - 1), PerLane.all false⟩
          | some m => ⟨min m.lo a, max m.hi (heldSum (z - 1)), m.openLanes⟩)) u ∧
        closedGap i a z s = counted (became (after none) u))

/-- Outside INSPECT a recomputation changes nothing. In INSPECT the lane horizon of a RUNNING lane is the lowest lead of
its OPEN blobs, or with none its last taken position + line_pitch; that of a WAITING lane is its last taken position
+ line_pitch, or S0 with none; while a line of the lane is in handling, it is the lower of that and the line's
position; another lane has none. With m the lowest of the lane horizons, or P where no lane is RUNNING or WAITING:
at m at or below H nothing changes; above it, m below 2^48, H becomes m and a planning attempt follows, which leaves
H; THE MODEL'S CHOICE (log entry 4): the attempt comes at once, inside the handling that raised H. There is such an
m. Sums are compared at full width. (5.6 The inspection horizon (R81, R82).) -/
def Obligations.HorizonIsRecomputed : Prop :=
  ∀ s : State,
    let considered : LaneId → Prop := fun i => (s.rx i).state = .running ∨ (s.rx i).state = .waiting
    let open_ : LaneId → Nat → Prop := fun i v => ∃ b, Slot.blob b ∈ (s.lane i).tracker.slots ∧ b.lead = v
    let glass : LaneId → Nat := fun i =>
      match (s.rx i).lastPosition with
      | some x => x + s.setup.linePitch
      | none => (s.plan.startCut.map StartCut.position).getD 0
    let table : LaneId → Nat → Prop := fun i v =>
      ((s.rx i).state = .running ∧ open_ i v ∧ ∀ w, open_ i w → v ≤ w) ∨
      ((s.rx i).state = .running ∧ (∀ w, ¬open_ i w) ∧ v = glass i) ∨ ((s.rx i).state = .waiting ∧ v = glass i)
    let horizon : LaneId → Nat → Prop := fun i v => ∃ w, table i w ∧ v =
      match (s.rx i).inHand with
      | some x => min w x
      | none => w
    let lowest : Nat → Prop := fun m => ((∃ i, horizon i m) ∧ ∀ i v, horizon i v → m ≤ v) ∨ ((∀ i, ¬considered i) ∧ m = s.pos.p)
    (s.trunk.run ≠ .inspect → recomputeH s = s) ∧ (∃ m, lowest m) ∧
    ∀ m, s.trunk.run = .inspect → lowest m →
      (m ≤ s.map.h → recomputeH s = s) ∧
      (s.map.h < m → m < 2 ^ 48 →
        recomputeH s = planningAttempt (s.withMap { s.map with h := m }) ∧ (recomputeH s).map.h = m)

/-- For a candidate predicted UNINSPECTED, or A, B or C at least as good as the order's minimum, it is to be committed
as ORDER with the cursor's spec at its full length; otherwise there is a flaw of it, in map order, at which the
running grade of the flaws up to and with it is first worse than the minimum, and the piece to be committed is
CULLET AVOID, with no spec and the candidate's prediction, ending at the larger of the flaw's trail + 1 +
avoid_margin and C_last + min_piece. (6.5 Candidate evaluation (R91, R92, R93).) -/
def Obligations.CandidateIsAcceptedOrCulled : Prop :=
  ∀ s : State,
    let t := s.store.grade.activeTables
    let spec := t.specs.getD s.plan.cursor default
    let stop := s.plan.cLast + spec.length
    let e := evaluate t s.plan.cLast stop s
    let flaws := flawsOver s.plan.cLast stop s
    let tooBad : List FlawRecord → Prop := fun fs => spec.minGrade.code < (runningGrade t (tallyOf t s.setup.netLo fs)).rank
    let accepted : Prop := e.grade = .uninspected ∨ e.grade.rank ≤ spec.minGrade.code
    (accepted → evaluateCandidate s = .commit .order (some s.plan.cursor) e.grade stop) ∧
    (¬accepted → s.plan.cLast < stop → ∃ pre f post, flaws = pre ++ f :: post ∧ tooBad (pre ++ [f]) ∧ (∀ q, q <+: pre → ¬tooBad q) ∧
      evaluateCandidate s = .commit .avoid none e.grade
        (max (f.trail + 1 + t.avoidMargin) (s.plan.cLast + t.minPiece)))

/-- With f = c + d_cut - cut_lead above P and at most 62 entries held, a commit of end c inserts the CUT entry at f,
appends the plate record with the values of R96, sets C_last to c and the trailing boundary to PLANNED at c, takes
the next plate number (from 2^32 - 1 to 1), moves the cursor to the next enabled spec for ORDER alone and sets the
wait state NONE; nothing else changes. With f at or below P the plate ends at c' = P - d_cut + cut_lead + 1, its CUT
entry at P + 1, CULLET LATE (TAIL for a tail) with no spec and the LATE flag, and PLAN_LATE is raised with the plate
number and the low 32 bits of c. With more than 62 entries held the commit is abandoned. A commit appends one plate
and keeps the queue joined: each plate's planned start is the planned end of the plate before it, and C_last is the
planned end of the newest; so does the removal of the oldest plate. (6.6 Commit and late plans (R94, R95); 6.7 Plate
records and the plate queue (R96, R97).) -/
def Obligations.PlanCommit : Prop :=
  (∀ (kind : PlateKind) (spec : Option Nat) (predicted : Grade) (c : Nat) (b : BankId) (s : State),
    s.store.grade.active = some b → c + s.setup.dCut < 2 ^ 48 → s.pos.p + s.setup.cutLead + 1 < 2 ^ 48 →
    s.setup.cutLead ≤ s.setup.dCut →
    let f := c + s.setup.dCut - s.setup.cutLead
    let n := s.plan.nextPlate
    let plate : PlateKind → Option Nat → Nat → Bool → Plate := fun k sp stop late =>
      ⟨n, k, sp, b, s.plan.cLast, stop, s.plan.trailing.status, .planned, none, none, none, s.plan.trailing.actual, stop,
        predicted, none, none, 0, false, false, late, false⟩
    let committed : PlateKind → Option Nat → Nat → Bool → Nat → State := fun k sp stop late fire =>
      (s.withPos { s.pos with schedule := placeEntry ⟨fire, .cut, n⟩ s.pos.schedule }).withPlan { s.plan with
        queue := s.plan.queue ++ [plate k sp stop late]
        cLast := stop
        nextPlate := if n + 1 < 2 ^ 32 then n + 1 else 1
        trailing := ⟨.planned, stop⟩
        cursor := if k = .order then nextEnabled s.store.grade.activeTables s.plan.cursor else s.plan.cursor
        wait := .none }
    (62 < s.pos.schedule.length → commitPlate kind spec predicted c s = none) ∧
    (s.pos.schedule.length ≤ 62 → s.pos.p < f →
      commitPlate kind spec predicted c s = some (committed kind spec c false f)) ∧
    (s.pos.schedule.length ≤ 62 → f ≤ s.pos.p → hasRoom s → ∃ t, commitPlate kind spec predicted c s = some t ∧
      Raised .planLate none n (c % 2 ^ 32)
        (committed (if kind = .tail then .tail else .late) none (s.pos.p + s.setup.cutLead + 1 - s.setup.dCut) true
          (s.pos.p + 1)) t)) ∧
  let joined : State → Prop := fun u =>
    (∀ pre p q post, u.plan.queue = pre ++ p :: q :: post → q.plannedStart = p.plannedEnd) ∧
      ∀ pre p, u.plan.queue = pre ++ [p] → u.plan.cLast = p.plannedEnd
  (∀ (kind : PlateKind) (spec : Option Nat) (predicted : Grade) (c : Nat) (s u : State),
    commitPlate kind spec predicted c s = some u →
      (∃ p, u.plan.queue = s.plan.queue ++ [p] ∧ p.plannedStart = s.plan.cLast ∧ p.plannedEnd = u.plan.cLast) ∧
      (joined s → joined u)) ∧
  ∀ (p : Plate) (rest : List Plate) (s : State), s.plan.queue = p :: rest → joined s →
    joined (s.withPlan { s.plan with queue := rest })

/-- In STANDBY an attempt changes nothing. A GRADE bank COMMITTING beside an ACTIVE one is switched first: it is ACTIVE,
the cursor is its lowest enabled spec, and the attempt is made on that state. With no bank COMMITTING: with plan
complete, nothing changes in INSPECT, and in STOPPING the part enters STANDBY exactly where the plate queue is
empty. Without it, against H in INSPECT and E in STOPPING, the tests are taken in order. C_last + length above H:
the wait state is HORIZON. In STOPPING, C_last + length above E and C_last below it asks for a tail; C_last at or
above E sets plan complete, and the part enters STANDBY where the queue is empty; THE MODEL'S READING (log entry 20,
DEDUCED): the wait state is then NONE. For a candidate or a tail: with 128 plates the wait state is QUEUE; else with
more than 62 entries in the schedule it is SCHEDULE, and where it was not SCHEDULE before, SCHEDULE_FULL is raised
(with room) with no lane, the next plate number and the low 32 bits of C_last. With all tests passed a candidate's
commit is made and the attempt is made again on the state after it; a tail [C_last, E), CULLET TAIL with the
evaluation of the range, is committed and plan complete is set. (6.4 Planning attempts (R89, R90); 6.8 Stopping
(R100, R101); 6.2 The order sequence and plan parameters (R87).) -/
def Obligations.PlanningAttempt : Prop :=
  ∀ s : State,
    let plan := s.plan
    let grade := s.store.grade
    let need := plan.cLast + (grade.activeTables.specs.getD plan.cursor default).length
    let waits : WaitState → State := fun w => s.withPlan { plan with wait := w }
    let stopped : State → State := fun u => if u.plan.queue = [] then enterStandby u else u
    (s.trunk.run = .standby → planningAttempt s = s) ∧
    (∀ b, s.trunk.run ≠ .standby → (grade.get b).state = .committing → (grade.get (otherBank b)).state = .active →
      let u := takeGradeSwitch s
      planningAttempt s = planningAttempt u ∧ u.store.grade.get b = { grade.get b with state := .active } ∧
        u.plan = { plan with cursor := firstEnabled (grade.get b).tables }) ∧
    ((∀ b, (grade.get b).state ≠ .committing) →
      (s.trunk.run = .inspect → plan.complete = true → planningAttempt s = s) ∧
      (s.trunk.run = .stopping → plan.complete = true → planningAttempt s = stopped s) ∧
      ∀ reach : Nat, plan.complete = false →
        ((s.trunk.run = .inspect ∧ reach = s.map.h) ∨ (s.trunk.run = .stopping ∧ s.trunk.stopEnd = some reach)) →
        let tail : Prop := s.trunk.run = .stopping ∧ reach < need ∧ plan.cLast < reach
        let asks : Prop := need ≤ reach ∨ tail
        (s.trunk.run = .inspect → reach < need → planningAttempt s = waits .horizon) ∧
        (s.trunk.run = .stopping → reach < need → reach ≤ plan.cLast →
          planningAttempt s = stopped (s.withPlan { plan with complete := true, wait := .none })) ∧
        (asks → 128 ≤ plan.queue.length → planningAttempt s = waits .queue) ∧
        (asks → plan.queue.length < 128 → 62 < s.pos.schedule.length → plan.wait = .schedule → planningAttempt s = s) ∧
        (asks → plan.queue.length < 128 → 62 < s.pos.schedule.length → plan.wait ≠ .schedule → hasRoom s →
          ∃ v, Raised .scheduleFull none plan.nextPlate (plan.cLast % 2 ^ 32) s v ∧
            planningAttempt s = v.withPlan { plan with wait := .schedule }) ∧
        (need ≤ reach → plan.queue.length < 128 → s.pos.schedule.length ≤ 62 →
          ∃ kind spec predicted c u, evaluateCandidate s = .commit kind spec predicted c ∧
            commitPlate kind spec predicted c s = some u ∧ planningAttempt s = planningAttempt u) ∧
        (tail → plan.queue.length < 128 → s.pos.schedule.length ≤ 62 →
          ∃ u, commitPlate .tail none (evaluate grade.activeTables plan.cLast reach s).grade reach s = some u ∧
            planningAttempt s = u.withPlan { u.plan with complete := true }))

/-- When the CUT entry of a boundary with cut position c fires: under a hold the boundary becomes SKIPPED and is
counted, and the Grader tests; with no hold, no cut outstanding, CUT_ACK low, the deadline above P and at most 63
entries held, the sequence level is inverted, CUT_REQ is pulsed once, the boundary becomes REQUESTED with the new
level, the cut is outstanding, its CONFIRM_DEADLINE entry stands at c + d_cut + confirm_window and 1 is added to the
cuts requested; with no hold, a cut outstanding or CUT_ACK high, no pending cut, c + d_cut above P and at most 63
entries held, the boundary becomes PENDING, the cut is pending and its ISSUE_LIMIT entry stands at c + d_cut, with
no pulse. Nothing else changes. With another cut pending, that one is displaced first: its ISSUE_LIMIT entry is
removed, it is MISSED (detail2 3), and the Grader tests. With 64 entries held the refused entry fires at once and
SCHEDULE_FULL follows with the plate and the low 32 bits of its fire position: a deadline leaves the cut MISSED (1)
and not outstanding, an issue limit leaves it MISSED (2) and not pending. A firing ISSUE_LIMIT of the pending cut's
plate makes it MISSED (2), no longer pending; a firing CONFIRM_DEADLINE of the outstanding cut's plate makes it
MISSED (1), no longer outstanding, and then a pending cut is issued, its ISSUE_LIMIT entry removed, where CUT_ACK is
low; of another plate neither has an effect. Each MISSED boundary is counted and raises CUT_MISSED with the plate
(with room in the urgent queue), and then the Grader tests. A deadline at or below P fires at once and leaves the
cut MISSED (1), an issue limit so MISSED (2). THE MODEL'S CHOICE (log entry 4): the Grader's test comes when the
boundary, the count and CUT_MISSED stand, and before a pending cut's issue or SCHEDULE_FULL; R119 names the event
and not its place. (7.3 Issuing cuts (R104, R105, R106, R107); 7.4 Confirmation (R109); 1.6 The position schedule
(R13, R14); 8.2 When a plate is graded (R119).) -/
def Obligations.CutEntryByCase : Prop :=
  ∀ (n : Nat) (s : State),
    let cut := s.cutter
    let held : Prop := cut.requestedHold = true ∨ cut.faultHigh = true
    let busy : Prop := cut.outstanding ≠ none ∨ cut.ackHigh = true
    let limit : Nat → Nat := fun c => c + s.setup.dCut
    let deadline : Nat → Nat := fun c => c + s.setup.dCut + s.setup.confirmWindow
    let inserted : Entry → State → State := fun e u =>
      u.withPos { u.pos with schedule := placeEntry e u.pos.schedule }
    let requested : Nat → Nat → State → State := fun m c u =>
      ((changeBoundary m ⟨.requested, some (!u.cutter.seqLevel), none, none, none⟩ u).withPulses
        { u.pulses with cutReq := u.pulses.cutReq + 1 }).withCutter
        { u.cutter with seqLevel := !u.cutter.seqLevel, outstanding := some ⟨m, c, !u.cutter.seqLevel⟩ }
    let countedReq : State → State := fun u => u.withReport { u.report with current := { u.report.current with
      cutsRequested := min Config.max32 (u.report.current.cutsRequested + 1) } }
    let waits : Nat → Nat → State → State := fun m c u =>
      (changeBoundary m ⟨.pending, none, none, none, none⟩ u).withCutter { u.cutter with pendingCut := some ⟨m, c⟩ }
    let missedBy : Nat → Nat → State → State → Prop := fun m reason u v => Raised .cutMissed none m reason
      ((changeBoundary m ⟨.missed, none, none, none, none⟩ u).withReport { u.report with current := { u.report.current with
        cutsMissed := min Config.max32 (u.report.current.cutsMissed + 1) } }) v
    let notPending : State → State := fun u => u.withCutter { u.cutter with pendingCut := none }
    let notOutstanding : State → State := fun u => u.withCutter { u.cutter with outstanding := none }
    (∀ c, cutPosition n s = some c →
      (held → fireCut n s = gradeTest ((changeBoundary n ⟨.skipped, none, none, none, none⟩ s).withReport { s.report with
        current := { s.report.current with cutsSkipped := min Config.max32 (s.report.current.cutsSkipped + 1) } })) ∧
      (¬held → ¬busy → s.pos.p < deadline c → s.pos.schedule.length ≤ 63 →
        fireCut n s = countedReq (inserted ⟨deadline c, .confirmDeadline, n⟩ (requested n c s))) ∧
      (¬held → ¬busy → s.pos.p < deadline c → 64 ≤ s.pos.schedule.length → hasRoom s →
        ∃ v, missedBy n 1 (requested n c s) v ∧
          let w := gradeTest (notOutstanding v)
          (w.cutter.pendingCut = none →
            fireCut n s = countedReq (raise .scheduleFull none n (deadline c % 2 ^ 32) w))) ∧
      (¬held → ¬busy → deadline c ≤ s.pos.p → hasRoom s → ∃ v, missedBy n 1 (requested n c s) v ∧
        let w := gradeTest (notOutstanding v)
        (w.cutter.pendingCut = none → fireCut n s = countedReq w)) ∧
      (¬held → busy → cut.pendingCut = none → limit c ≤ s.pos.p → hasRoom s →
        ∃ v, missedBy n 2 (waits n c s) v ∧ fireCut n s = gradeTest (notPending v)) ∧
      (¬held → busy → cut.pendingCut = none → s.pos.p < limit c → s.pos.schedule.length ≤ 63 →
        fireCut n s = inserted ⟨limit c, .issueLimit, n⟩ (waits n c s)) ∧
      (¬held → busy → cut.pendingCut = none → s.pos.p < limit c → 64 ≤ s.pos.schedule.length → hasRoom s →
        ∃ v, missedBy n 2 (waits n c s) v ∧
          fireCut n s = raise .scheduleFull none n (limit c % 2 ^ 32) (gradeTest (notPending v))) ∧
      (∀ old, ¬held → busy → cut.pendingCut = some old → hasRoom s →
        ∃ v, missedBy old.plate 3 (notPending (removeEntry .issueLimit old.plate s)) v ∧
          let w := gradeTest v
          (w.pos.p < limit c → w.pos.schedule.length ≤ 63 →
            fireCut n s = inserted ⟨limit c, .issueLimit, n⟩ (waits n c w)))) ∧
    (∀ old, cut.pendingCut = some old →
      (old.plate ≠ n → fireIssueLimit n s = s) ∧
      (old.plate = n → hasRoom s → ∃ v, missedBy n 2 s v ∧ fireIssueLimit n s = gradeTest (notPending v))) ∧
    (cut.pendingCut = none → fireIssueLimit n s = s) ∧
    (cut.outstanding = none → fireDeadline n s = s) ∧
    ∀ o, cut.outstanding = some o →
      (o.plate ≠ n → fireDeadline n s = s) ∧
      (o.plate = n → hasRoom s → ∃ v, missedBy n 1 s v ∧
        let w := gradeTest (notOutstanding v)
        (w.cutter.pendingCut = none ∨ w.cutter.outstanding ≠ none ∨ w.cutter.ackHigh = true → fireDeadline n s = w) ∧
        ∀ next, w.cutter.pendingCut = some next → w.cutter.outstanding = none → w.cutter.ackHigh = false →
          let y := removeEntry .issueLimit next.plate (notPending w)
          (y.pos.p < deadline next.c → y.pos.schedule.length ≤ 63 → fireDeadline n s =
            countedReq (inserted ⟨deadline next.c, .confirmDeadline, next.plate⟩ (requested next.plate next.c y))))

/-- A change of the trail boundary of a plate in the queue writes the status, the fields given and the actual end into
that plate, and the status and the actual start into the plate after it, or into the trailing boundary where it is
the newest; a change of the start cut writes the start cut record, and the lead boundary of the oldest plate or,
with the queue empty, the trailing boundary. No other plate and nothing outside the planner changes. (6.7 Plate
records and the plate queue (R98, R99); 7.4 Confirmation (R108).) -/
def Obligations.BoundaryChangesAgree : Prop :=
  ∀ (x : BoundaryChange) (s : State),
    let lead : Plate → Plate := fun q => { q with leadStatus := x.status, actualStart := x.actual.getD q.actualStart }
    let edge : TrailingBoundary := ⟨x.status, x.actual.getD s.plan.trailing.actual⟩
    (∀ (pre : List Plate) (p : Plate) (post : List Plate), s.plan.queue = pre ++ p :: post → p.number ≠ 0 →
      (∀ q ∈ pre, q.number ≠ p.number) →
      let trail : Plate := { p with
        trailStatus := x.status
        trailSeq := x.seq.or p.trailSeq
        trailCaptured := x.captured.or p.trailCaptured
        trailDeviation := x.deviation.or p.trailDeviation
        actualEnd := x.actual.getD p.actualEnd }
      (post = [] → changeBoundary p.number x s =
        s.withPlan { s.plan with queue := pre ++ [trail], trailing := edge }) ∧
      (∀ q more, post = q :: more → changeBoundary p.number x s =
        s.withPlan { s.plan with queue := pre ++ trail :: lead q :: more })) ∧
    let cut : Option StartCut := s.plan.startCut.map fun y => { y with
      status := x.status
      seq := x.seq.or y.seq
      captured := x.captured.or y.captured
      deviation := x.deviation.or y.deviation }
    (s.plan.queue = [] → changeBoundary 0 x s = s.withPlan { s.plan with startCut := cut, trailing := edge }) ∧
    (∀ q more, s.plan.queue = q :: more →
      changeBoundary 0 x s = s.withPlan { s.plan with startCut := cut, queue := lead q :: more })

/-- A CUT_ACK_RISE at P with the bit of the outstanding cut, d_cut at or below P: with |P - (c + d_cut)| at or below
cut_tolerance the boundary becomes CONFIRMED with the captured position, the deviation and the actual position P -
d_cut, its deadline entry is removed, the cut is no longer outstanding, the last capture is (P, bit, CONFIRMED) and
1 is added to the cuts confirmed; above it, with room in the urgent queue, DEVIATED in each place, with
CUT_DEVIATION raised with the low 32 bits of c + d_cut and of P; then the Grader tests and, where the entry was
held, the departure takes its course. With no outstanding cut of that bit and room in the urgent queue,
CONFIRM_STALE is raised with the low 32 bits of P and the bit, the last capture is (P, bit, STALE), 1 is added to
the stale confirmations, and nothing else changes. CUT_ACK stands high after each. THE MODEL'S CHOICE (log entry 4):
the Grader's test comes when the boundary, the counts and the conditions stand, and before the departure (the
Grader's retry, then a planning attempt) takes its course. (7.4 Confirmation (R108); 1.7 Position capture (R17); 8.2
When a plate is graded (R119); 6.4 Planning attempts (R89); 8.9 Waiting for the divert (R130).) -/
def Obligations.CutAckRise : Prop :=
  ∀ (bit : Bool) (s : State),
    let high := s.withCutter { s.cutter with ackHigh := true }
    (∀ o, s.cutter.outstanding = some o → o.seq = bit → s.setup.dCut ≤ s.pos.p → s.pos.p < 2 ^ 48 →
      let dev : Int := (s.pos.p : Int) - ((o.c : Int) + (s.setup.dCut : Int))
      let after : State → State := fun u =>
        if (s.pos.schedule.any fun e => decide (e.kind = .confirmDeadline ∧ e.plate = o.plate)) = true then
          afterDeparture (gradeTest u) else gradeTest u
      let change : BoundaryStatus → State := fun st =>
        changeBoundary o.plate ⟨st, none, some s.pos.p, some dev, some (s.pos.p - s.setup.dCut)⟩ high
      let settled : CaptureOutcome → State → State := fun out u =>
        ((removeEntry .confirmDeadline o.plate u).withCutter
          { s.cutter with ackHigh := true, outstanding := none, lastCapture := some ⟨s.pos.p, bit, out⟩ })
      (dev.natAbs ≤ s.setup.cutTolerance → ∃ t, exec (.cutAckRise bit) s = .next t ∧
        t.cutter.outstanding = none ∧ t.cutter.ackHigh = true ∧ t.cutter.lastCapture = some ⟨s.pos.p, bit, .confirmed⟩ ∧
        AfterTake (after ((settled .confirmed (change .confirmed)).withReport { s.report with current :=
          { s.report.current with cutsConfirmed := min Config.max32 (s.report.current.cutsConfirmed + 1) } })) t) ∧
      (s.setup.cutTolerance < dev.natAbs → hasRoom s → ∃ v t, exec (.cutAckRise bit) s = .next t ∧
        t.cutter.outstanding = none ∧ t.cutter.ackHigh = true ∧ t.cutter.lastCapture = some ⟨s.pos.p, bit, .deviated⟩ ∧
        Raised .cutDeviation none ((o.c + s.setup.dCut) % 2 ^ 32) (s.pos.p % 2 ^ 32) (change .deviated) v ∧
        AfterTake (after ((settled .deviated v).withReport { v.report with current :=
          { v.report.current with cutsDeviated := min Config.max32 (v.report.current.cutsDeviated + 1) } })) t)) ∧
    ((∀ o, s.cutter.outstanding = some o → o.seq ≠ bit) → hasRoom s → ∃ v t, exec (.cutAckRise bit) s = .next t ∧
      Raised .confirmStale none (s.pos.p % 2 ^ 32) (if bit then 1 else 0) high v ∧
      AfterTake ((v.withCutter { v.cutter with lastCapture := some ⟨s.pos.p, bit, .stale⟩ }).withReport
        { v.report with current :=
          { v.report.current with staleConfirms := min Config.max32 (v.report.current.staleConfirms + 1) } }) t)

/-- CUT_ACK_FALL takes CUT_ACK low and, with no pending cut or with a cut outstanding, changes nothing else; with a
pending cut, none outstanding, the deadline above P and room for it, the pending cut is issued: its ISSUE_LIMIT
entry is removed, its boundary becomes REQUESTED with the new level, its CONFIRM_DEADLINE entry is inserted at c +
d_cut + confirm_window, the cut is counted as requested, and where the ISSUE_LIMIT entry was held the departure
takes its course; the sequence level is inverted, CUT_REQ is pulsed once, no cut is pending, and the issued cut is
outstanding with the new level, unless the run state is STANDBY at the end (a stop that ends here clears it).
CUTTER_HOLD sets the requested hold; with a hold already in force or no pending cut and room in the urgent queue it
is answered OK and nothing else changes; with none in force the pending cut's ISSUE_LIMIT entry is removed, its
boundary becomes SKIPPED and is counted, the Grader tests and, where the entry was held, the departure takes its
course, before the OK response (with room for it); the pending cut is gone, nothing is pulsed, and the outstanding
cut stays unless the run state is STANDBY at the end. CUTTER_RELEASE clears the requested hold, is answered OK, and
issues nothing. CUTTER_FAULT_FALL takes the fault level low and changes nothing else. THE MODEL'S CHOICE (log entry
4): the Grader's test stands before the departure. (7.3 Issuing cuts (R105, R106); 7.5 Hold and fault (R110, R111,
R112); 8.2 When a plate is graded (R119); 6.4 Planning attempts (R89); 8.9 Waiting for the divert (R130).) -/
def Obligations.CutterLevels : Prop :=
  ∀ (s : State) (tag : Byte) (args : List Byte),
    let cut := s.cutter
    let onset : PendingCut → State → State := fun old u =>
      let skipped := (changeBoundary old.plate ⟨.skipped, none, none, none, none⟩ (removeEntry .issueLimit old.plate u)).withReport
        { u.report with current := { u.report.current with
          cutsSkipped := min Config.max32 (u.report.current.cutsSkipped + 1) } }
      let tested := gradeTest (skipped.withCutter { u.cutter with pendingCut := none })
      if (u.pos.schedule.any fun e => decide (e.kind = .issueLimit ∧ e.plate = old.plate)) = true then afterDeparture tested
      else tested
    let c : Nat := (cut.pendingCut.map PendingCut.c).getD 0
    (cut.pendingCut = none ∨ cut.outstanding ≠ none → ∃ t, exec .cutAckFall s = .next t ∧
      AfterTake (s.withCutter { cut with ackHigh := false }) t) ∧
    (∀ p, cut.pendingCut = some p → cut.outstanding = none →
      s.pos.p < c + s.setup.dCut + s.setup.confirmWindow → s.pos.schedule.length ≤ 63 →
      let low := s.withCutter { cut with ackHigh := false, pendingCut := none }
      let removed := low.withPos { low.pos with
        schedule := low.pos.schedule.filter fun e => !decide (e.kind = .issueLimit ∧ e.plate = p.plate)
        firing := low.pos.firing.filter fun e => !decide (e.kind = .issueLimit ∧ e.plate = p.plate) }
      let requested := ((changeBoundary p.plate ⟨.requested, some (!cut.seqLevel), none, none, none⟩ removed).withPulses
        { s.pulses with cutReq := s.pulses.cutReq + 1 }).withCutter
          { low.cutter with seqLevel := !cut.seqLevel, outstanding := some ⟨p.plate, p.c, !cut.seqLevel⟩ }
      let deadline : Entry := ⟨p.c + s.setup.dCut + s.setup.confirmWindow, .confirmDeadline, p.plate⟩
      let issued := (requested.withPos
        { requested.pos with schedule := placeEntry deadline requested.pos.schedule }).withReport
          { s.report with current := { s.report.current with
            cutsRequested := min Config.max32 (s.report.current.cutsRequested + 1) } }
      let held : Prop := (s.pos.schedule.any fun e => decide (e.kind = .issueLimit ∧ e.plate = p.plate)) = true
      ∃ t, exec .cutAckFall s = .next t ∧ (held → AfterTake (afterDeparture issued) t) ∧ (¬held → AfterTake issued t) ∧
        t.cutter.ackHigh = false ∧ t.cutter.pendingCut = none ∧
        t.cutter.seqLevel = (!cut.seqLevel) ∧
        (t.trunk.run = .standby ∨ t.cutter.outstanding = some ⟨p.plate, p.c, !cut.seqLevel⟩) ∧
        t.pulses = { s.pulses with cutReq := s.pulses.cutReq + 1 } ∧ t.cutter.lastCapture = cut.lastCapture) ∧
    (cut.requestedHold = true ∨ cut.faultHigh = true ∨ cut.pendingCut = none → hasRoom s →
      ∃ t, exec (.cutterHold tag args) s = .next t ∧
        Answered ⟨tag, 10, args⟩ .ok [] (s.withCutter { cut with requestedHold := true }) t) ∧
    (cut.requestedHold = false → cut.faultHigh = false →
      ∃ t, exec (.cutterHold tag args) s = .next t ∧ t.cutter.requestedHold = true ∧ t.cutter.pendingCut = none ∧
        (t.trunk.run = .standby ∨ t.cutter.outstanding = cut.outstanding) ∧ t.cutter.seqLevel = cut.seqLevel ∧ t.pulses = s.pulses) ∧
    (∀ old, cut.requestedHold = false → cut.faultHigh = false → cut.pendingCut = some old →
      let u := onset old (s.withCutter { cut with requestedHold := true })
      ∃ t, exec (.cutterHold tag args) s = .next t ∧ (hasRoom u → Answered ⟨tag, 10, args⟩ .ok [] u t)) ∧
    (hasRoom s → ∃ t, exec (.cutterRelease tag args) s = .next t ∧
      Answered ⟨tag, 11, args⟩ .ok [] (s.withCutter { cut with requestedHold := false }) t) ∧
    ∃ t, exec .cutterFaultFall s = .next t ∧ AfterTake (s.withCutter { cut with faultHigh := false }) t

/-- With room in the urgent queue, and masks that keep their held bits, every CUTTER_FAULT_RISE takes the fault level
high and raises CUTTER_FAULT at LINE with no lane, detail1 1 for an outstanding cut and else 0, detail2 its plate
number or 0. With a hold already in force, or no pending cut, nothing else changes but for the arbiter's take. With
none in force, the onset of the hold follows on the state after the raise: the pending cut's ISSUE_LIMIT entry is
removed, its boundary becomes SKIPPED and is counted, no cut is pending, the Grader tests and, where the entry was
held, the departure takes its course; the outstanding cut stays unless the run state is STANDBY at the end. Nothing
is pulsed and the sequence level stays. THE MODEL'S CHOICE (log entry 4): the Grader's test stands before the
departure. (7.5 Hold and fault (R110, R111, R112); 10.4 Delegation masks (R148); 8.2 When a plate is graded (R119);
6.4 Planning attempts (R89); 8.9 Waiting for the divert (R130).) -/
def Obligations.CutterFaultRise : Prop :=
  ∀ s : State, MasksOk s → hasRoom s →
    let cut := s.cutter
    let u := s.withCutter { cut with faultHigh := true }
    let d1 := if cut.outstanding = none then 0 else 1
    let d2 := (cut.outstanding.map Outstanding.plate).getD 0
    let onset : PendingCut → State → State := fun old u =>
      let skipped := (changeBoundary old.plate ⟨.skipped, none, none, none, none⟩ (removeEntry .issueLimit old.plate u)).withReport
        { u.report with current := { u.report.current with
          cutsSkipped := min Config.max32 (u.report.current.cutsSkipped + 1) } }
      let tested := gradeTest (skipped.withCutter { u.cutter with pendingCut := none })
      if (u.pos.schedule.any fun e => decide (e.kind = .issueLimit ∧ e.plate = old.plate)) = true then afterDeparture tested
      else tested
    ∃ v t, exec .cutterFaultRise s = .next t ∧ Raised .cutterFault none d1 d2 u v ∧
      heldAtLine .cutterFault none d1 d2 false u v ∧
      (cut.requestedHold = true ∨ cut.faultHigh = true ∨ cut.pendingCut = none → AfterTake v t) ∧
      (∀ old, cut.requestedHold = false → cut.faultHigh = false → cut.pendingCut = some old →
        AfterTake (onset old v) t) ∧
      t.cutter.faultHigh = true ∧ t.cutter.seqLevel = cut.seqLevel ∧ t.pulses = s.pulses ∧
      (cut.requestedHold = false → cut.faultHigh = false → t.cutter.pendingCut = none ∧
        (t.trunk.run = .standby ∨ t.cutter.outstanding = cut.outstanding))

/-- For flaws with class codes below 16, an evaluation is FATAL exactly where one of them has a class of the fatal mask;
else UNINSPECTED where a gap or the overflow mark overlaps; else the best of A, B and C whose limits hold, for every
class and zone, the number of flaws of the class and zone cut to 255; else REJECT. The final grade is SKIPPED with a
SKIPPED boundary; else CULLET for a CULLET plate; else REJECT with a MISSED or DEVIATED boundary or the FATAL flag;
else UNINSPECTED with the flag; else the evaluation's grade. (8.5 The evaluation function (R122, R123); 8.7 The
final grade (R125).) -/
def Obligations.EvaluationAndFinalGrade : Prop :=
  (∀ (t : GradeTables) (netLo : Nat) (fs : List FlawRecord) (gap mark : Bool), (∀ f ∈ fs, f.cls < 16) →
    let e := evaluation t netLo fs gap mark
    let holds : Nat → Prop := fun g => ∀ k z, k < 16 → z < 4 →
      min 255 (fs.countP fun f => f.cls == k && gradeZone t (f.centre - netLo) == z) ≤ t.limits.getD (g * 64 + k * 4 + z) 0
    e.total = fs.length ∧ e.overflow = mark ∧ (e.uninspected = true ↔ gap = true ∨ mark = true) ∧
    (e.fatal = true ↔ ∃ f ∈ fs, t.fatal.getD f.cls false = true) ∧
    (e.fatal = true → e.grade = .fatal) ∧
    (e.fatal = false → e.uninspected = true → e.grade = .uninspected) ∧
    (e.fatal = false → e.uninspected = false →
      (holds 0 → e.grade = .a) ∧ (¬holds 0 → holds 1 → e.grade = .b) ∧ (¬holds 0 → ¬holds 1 → holds 2 → e.grade = .c) ∧
        (¬holds 0 → ¬holds 1 → ¬holds 2 → e.grade = .reject))) ∧
  ∀ (p : Plate) (e : Evaluation),
    let either : BoundaryStatus → Prop := fun st => p.leadStatus = st ∨ p.trailStatus = st
    (either .skipped → settledGrade p e = .skipped) ∧
    (¬either .skipped → p.kind ≠ .order → settledGrade p e = .cullet) ∧
    (¬either .skipped → p.kind = .order → (either .missed ∨ either .deviated ∨ e.fatal = true) →
      settledGrade p e = .reject) ∧
    (¬either .skipped → p.kind = .order → ¬either .missed → ¬either .deviated → e.fatal = false →
      settledGrade p e = if e.uninspected then .uninspected else e.grade)

/-- For a range [a, z) the map hands the FLAW records with lead below z and trail at or above a, in map order and each
as often as it holds it; says that a gap overlaps exactly where some GAP record starts below z and is open or ends
above a; and that the overflow mark overlaps exactly where there is one with lo below z and an open lane or hi at or
above a. An evaluation of the range is made of these; one with z at or below a asks nothing: its tally and total are
0, it is covered, not FATAL, and grades A. A flaw adds 1 to the tally's cell of its class and zone, up to 255, and
to no other. The zone of a cross position r, relative to net_lo, is the first of the ranged zones 0, 1 and 2 with lo
at or below r and hi above it, else 3. (5.5 What the map hands to the planner and grader (R80); 8.4 Grade zones
(R121); 8.5 The evaluation function (R122); 5.3 The map full and the overflow mark (R78).) -/
def Obligations.RangesAndZones : Prop :=
  (∀ (a z : Nat) (t : GradeTables) (s : State),
    let overlaps : MapRecord → Bool := fun y =>
      match y with
      | .flaw r => decide (r.lead < z ∧ a ≤ r.trail)
      | .gap _ _ _ => false
    (flawsOver a z s).map MapRecord.flaw = s.map.records.filter overlaps ∧
    (gapOver a z s = true ↔
      ∃ i b e, MapRecord.gap i b e ∈ s.map.records ∧ b < z ∧ (e = none ∨ ∃ stop, e = some stop ∧ a < stop)) ∧
    (markOver a z s = true ↔ ∃ m, s.map.mark = some m ∧ m.lo < z ∧ ((∃ i, m.openLanes.get i = true) ∨ a ≤ m.hi)) ∧
    (a < z → evaluate t a z s = evaluation t s.setup.netLo (flawsOver a z s) (gapOver a z s) (markOver a z s)) ∧
    (z ≤ a → evaluate t a z s = ⟨List.replicate 64 0, 0, false, false, false, .a⟩)) ∧
  (∀ (t : GradeTables) (netLo : Nat) (tally : List Nat) (f : FlawRecord) (k zone : Nat), tally.length = 64 → f.cls < 16 →
    k < 16 → zone < 4 →
    (tallyFlaw t netLo tally f).getD (k * 4 + zone) 0 =
      if k = f.cls ∧ zone = gradeZone t (f.centre - netLo) then min 255 (tally.getD (k * 4 + zone) 0 + 1)
      else tally.getD (k * 4 + zone) 0) ∧
  ∀ (t : GradeTables) (r : Nat),
    let within : Nat → Prop := fun k => (t.zones.getD k default).lo ≤ r ∧ r < (t.zones.getD k default).hi
    (∀ k, k < 3 → within k → (∀ j, j < k → ¬within j) → gradeZone t r = k) ∧
      ((∀ k, k < 3 → ¬within k) → gradeZone t r = 3)

/-- The Grader's test, at the oldest plate in the queue without a final grade: with every plate graded nothing changes;
with a boundary of that plate not CONFIRMED, DEVIATED, MISSED or SKIPPED, or with a divert wait, nothing changes;
with both boundaries resolved and no divert wait the plate is graded, and the test is made again on the state after
it. (8.2 When a plate is graded (R119).) -/
def Obligations.GraderTest : Prop :=
  ∀ s : State,
    let resolved : BoundaryStatus → Prop := fun st => st = .confirmed ∨ st = .deviated ∨ st = .missed ∨ st = .skipped
    ((∀ p ∈ s.plan.queue, p.finalGrade ≠ none) → gradeTest s = s) ∧
    ∀ pre p post, s.plan.queue = pre ++ p :: post → (∀ q ∈ pre, q.finalGrade ≠ none) → p.finalGrade = none →
      (¬resolved p.leadStatus ∨ ¬resolved p.trailStatus ∨ s.grader.wait ≠ none → gradeTest s = s) ∧
      (resolved p.leadStatus → resolved p.trailStatus → s.grader.wait = none →
        gradeTest s = gradeTest (gradePlate p s) ∧ gradingPoint s = some p)

/-- With room in the urgent queue, a grading writes the flaw total, the flags, the final grade and the bound bank's
destination for it into the plate; removes the FLAW records whose trail, and the closed gaps whose end, lie below
the actual end; clears the overflow mark with no open lane and hi below the actual end; hands the PLATE record with
the sixteen class sums; adds the plate, its length and its flaws by class to the report; makes a RETIRING grade bank
with no ungraded plate LOADED; sets the last graded plate. Its divert is then due at f, the larger of actual start +
d_div - divert_lead (a whole number) and the last divert position. Above P with at most 62 entries held, the DIVERT
entry is placed at f and f is the last divert position. Above P with more held, a divert wait begins with the plate
and f, and SCHEDULE_FULL is raised where wait reported was clear, which is then set. At or below P, with room for
both records, DIVERT_LATE is raised with the plate and the low 32 bits of f (in two's complement: THE MODEL'S
CHOICE, log entry 7), f is the last divert position and the entry fires. A retry of the wait does nothing above P
with more than 62 entries held; else it ends the wait, places the entry or is late in the same way, and the Grader
tests. When the DIVERT entry of the oldest plate fires, the gate takes the plate's destination and the plate leaves
the queue, and the planner makes an attempt. (8.7 The final grade (R125, R126); 8.8 Effects of grading (R127, R128,
R129); 7.6 Divert (R113, R114); 5.4 Removal (R79); 5.3 The map full and the overflow mark (R78); 8.9 Waiting for the
divert (R130); 9.6 Bindings and retiring (R141); 1.6 The position schedule (R14).) -/
def Obligations.GradingAndDivert : Prop :=
  (∀ (p : Plate) (s : State), hasRoom s →
    let tables := (s.store.grade.get p.bank).tables
    let e := evaluate tables p.actualStart p.actualEnd s
    let g := settledGrade p e
    let q : Plate := { p with
      flawTotal := e.total
      uninspected := e.uninspected
      fatal := e.fatal
      overflow := e.overflow
      finalGrade := some g
      destination := some (tables.divert.getD g.code default) }
    let own : Int := p.actualStart + s.setup.dDiv - s.setup.divertLead
    let f : Int := max own (s.divert.last.getD own)
    let four : Nat → Nat := fun k =>
      e.tally.getD (k * 4) 0 + e.tally.getD (k * 4 + 1) 0 + e.tally.getD (k * 4 + 2) 0 + e.tally.getD (k * 4 + 3) 0
    let old := s.report.current
    let mark : Option OverflowMark := match s.map.mark with
      | none => none
      | some m => if (∀ i, m.openLanes.get i = false) ∧ m.hi < p.actualEnd then none else some m
    let t := gradePlate p s
    let twoRooms : Prop := s.trunk.urgent.length + 2 ≤ Config.urgentSlots
    ∃ x : State,
      x.plan = { s.plan with queue := s.plan.queue.map fun y => if y.number = p.number then q else y } ∧
      x.map = { s.map with mark := mark, records := s.map.records.filter fun y => match y with
        | .flaw r => decide (p.actualEnd ≤ r.trail)
        | .gap _ _ none => true
        | .gap _ _ (some stop) => decide (p.actualEnd ≤ stop) } ∧
      x.trunk = { s.trunk with
        urgent := s.trunk.urgent ++ [.plate q ((List.range 16).map fun k => min 255 (four k))] } ∧
      x.report = { s.report with current := { old with
        platesByGrade := old.platesByGrade.set g.code (min Config.max32 (old.platesByGrade.getD g.code 0 + 1))
        lengthByGrade := old.lengthByGrade.set g.code
          (min (2 ^ 48 - 1) (old.lengthByGrade.getD g.code 0 + (p.actualEnd - p.actualStart)))
        flawsByClass := (List.range 16).map fun k => min Config.max32 (old.flawsByClass.getD k 0 + four k) } } ∧
      x.grader = { s.grader with lastGraded := some p.number } ∧ x.divert = s.divert ∧ x.pos = s.pos ∧
      x.cutter = s.cutter ∧ x.lanes = s.lanes ∧ x.cond = s.cond ∧ x.outputs = s.outputs ∧
      x.store = { s.store with grade := x.store.grade } ∧
      (∀ b, (s.store.grade.get b).state ≠ .retiring → x.store.grade.get b = s.store.grade.get b) ∧
      (∀ b, (s.store.grade.get b).state = .retiring → (s.store.grade.get (otherBank b)).state ≠ .retiring →
        ((∃ y ∈ x.plan.queue, y.bank = b ∧ y.finalGrade = none) → x.store.grade.get b = s.store.grade.get b) ∧
        ((∀ y ∈ x.plan.queue, y.bank = b → y.finalGrade ≠ none) →
          x.store.grade.get b = { s.store.grade.get b with state := .loaded })) ∧
      ((s.pos.p : Int) < f → s.pos.schedule.length ≤ 62 →
        t = (x.withPos { s.pos with schedule := placeEntry ⟨f.toNat, .divert, p.number⟩ s.pos.schedule }).withDivert
          { s.divert with last := some f }) ∧
      ((s.pos.p : Int) < f → 62 < s.pos.schedule.length → s.grader.waitReported = true →
        t = x.withGrader { x.grader with wait := some ⟨p.number, f.toNat⟩ }) ∧
      ((s.pos.p : Int) < f → 62 < s.pos.schedule.length → s.grader.waitReported = false → twoRooms →
        ∃ v, Raised .scheduleFull none p.number (f.toNat % 2 ^ 32) x v ∧
          t = v.withGrader { x.grader with wait := some ⟨p.number, f.toNat⟩, waitReported := true }) ∧
      (f ≤ (s.pos.p : Int) → twoRooms → ∃ v, Raised .divertLate none p.number (f % 2 ^ 32).toNat x v ∧
        t = fireDivert p.number (v.withDivert { s.divert with last := some f }))) ∧
  (∀ (w : DivertWait) (s : State), s.grader.wait = some w →
    let resumed := s.withGrader { s.grader with wait := none, waitReported := false }
    (s.pos.p < w.fire → 62 < s.pos.schedule.length → retryDivert s = s) ∧
    (s.pos.p < w.fire → s.pos.schedule.length ≤ 62 → retryDivert s = gradeTest ((resumed.withPos { s.pos with
      schedule := placeEntry ⟨w.fire, .divert, w.plate⟩ s.pos.schedule }).withDivert
        { s.divert with last := some (w.fire : Int) })) ∧
    (w.fire ≤ s.pos.p → hasRoom s → ∃ v, Raised .divertLate none w.plate (w.fire % 2 ^ 32) resumed v ∧
      retryDivert s = gradeTest (fireDivert w.plate (v.withDivert { s.divert with last := some (w.fire : Int) })))) ∧
  (∀ s : State, s.grader.wait = none → retryDivert s = s) ∧
  ∀ (p : Plate) (rest : List Plate) (d : Destination) (s : State), s.plan.queue = p :: rest →
    (∀ q ∈ rest, q.number ≠ p.number) → p.destination = some d →
    fireDivert p.number s =
      planningAttempt ((s.withDivert { s.divert with gate := d }).withPlan { s.plan with queue := rest }) ∧
    (fireDivert p.number s).divert.gate = d

/-- With room in the urgent queue: a lane above 3 or an unknown forward mode is answered MALFORMED and nothing changes.
THE MODEL'S CHOICE (log entry 9): the enable setting is coded enabled 0 and disabled 1, in the order of R33.
Otherwise the forward mode is set, mode OFF and a disable discard the line in the slot, and the lane's state moves
by R33's table. Outside INSPECT, and where the table says no change, the answer is OK and nothing else changes but
for the request's end and the arbiter's take. In INSPECT a DISABLED lane that is enabled enters WAITING by R22, its
gap opened at H where it had none; a WAITING or SILENT lane that is disabled is DISABLED with its open gap kept; a
RUNNING lane that is disabled has its blobs flushed first and is DISABLED with its gap opened at its last taken
position + line_pitch and its line binding released; H is recomputed after each, and the answer is OK (with room for
it by then). (2.9 Lane control (R33); 2.3 Lane states (R22); 2.11 The forward slot (R35); 12.3 Requests (R169); 2.6
Silence and link loss (R29); 5.6 The inspection horizon (R82).) -/
def Obligations.LaneControl : Prop :=
  ∀ (s : State) (tag lane enable mode : Byte) (rest : List Byte), hasRoom s →
    let args := lane :: enable :: mode :: rest
    let cmd := exec (.laneControl tag args) s
    (4 ≤ lane.toNat ∨ 3 ≤ mode.toNat → ∃ t, cmd = .next t ∧ Answered ⟨tag, 9, args⟩ .malformed [] s t) ∧
    ∀ (i : LaneId) (m : ForwardMode), lane.toNat = i.val → mode.toNat = m.code →
      let x := s.rx i
      let fwd : Receiver := { x with forward := m, slot := if m = .off then none else x.slot }
      let became : Receiver → State := fun y => s.setLane i { s.lane i with rx := y }
      (enable = 0 → x.state ≠ .disabled → ∃ t, cmd = .next t ∧ Answered ⟨tag, 9, args⟩ .ok [] (became fwd) t) ∧
      (enable = 1 → x.state = .disabled →
        ∃ t, cmd = .next t ∧ Answered ⟨tag, 9, args⟩ .ok [] (became { fwd with slot := none }) t) ∧
      (s.trunk.run ≠ .inspect → enable = 0 → x.state = .disabled →
        ∃ t, cmd = .next t ∧ Answered ⟨tag, 9, args⟩ .ok [] (became { fwd with state := .idle }) t) ∧
      (s.trunk.run ≠ .inspect → enable = 1 → x.state = .idle →
        ∃ t, cmd = .next t ∧ Answered ⟨tag, 9, args⟩ .ok [] (became { fwd with slot := none, state := .disabled }) t) ∧
      (s.trunk.run = .inspect → enable = 0 → x.state = .disabled →
          let bare := became { fwd with lastTrigger := none, lastPosition := none, seeded := false, silenceTimer := 0, satRun := 0 }
          let opened := if x.openGap = none then openGap i s.map.h bare else bare
          let w := recomputeH (opened.setLane i { opened.lane i with rx := { opened.rx i with state := .waiting } })
          ∃ t, cmd = .next t ∧ (hasRoom w → Answered ⟨tag, 9, args⟩ .ok [] w t) ∧ (t.rx i).state = .waiting ∧
        (t.rx i).forward = m ∧ (t.rx i).lastTrigger = none ∧ (t.rx i).lastPosition = none ∧ (t.rx i).seeded = false ∧
        (t.rx i).silenceTimer = 0 ∧ (t.rx i).satRun = 0 ∧ (t.rx i).openGap = some (x.openGap.getD s.map.h) ∧
        (t.rx i).lastClosedGap = x.lastClosedGap) ∧
      (s.trunk.run = .inspect → enable = 1 → x.state = .waiting ∨ x.state = .silent →
        let w := recomputeH (became { fwd with slot := none, state := .disabled })
        ∃ t, cmd = .next t ∧ (hasRoom w → Answered ⟨tag, 9, args⟩ .ok [] w t) ∧ (t.rx i).state = .disabled ∧ (t.rx i).forward = m ∧ (t.rx i).slot = none ∧ (t.rx i).openGap = x.openGap) ∧
      (∀ p, s.trunk.run = .inspect → enable = 1 → x.state = .running → x.lastPosition = some p →
        p + s.setup.linePitch < 2 ^ 48 →
        let flushed := flush i (became { fwd with slot := none })
        let released := releaseLineBinding i (openGap i (p + s.setup.linePitch) flushed)
        let w := recomputeH (released.setLane i { released.lane i with rx := { released.rx i with state := .disabled } })
        ∃ t, cmd = .next t ∧ (hasRoom w → Answered ⟨tag, 9, args⟩ .ok [] w t) ∧ (t.rx i).state = .disabled ∧ (t.rx i).forward = m ∧
          (t.rx i).slot = none ∧ (t.rx i).openGap = some (p + s.setup.linePitch))

/-- A LINE frame in DISABLED changes nothing. In every other state a frame whose CRC fails, whose payload is not five
bytes for every four pixels, or whose pixel count is not that of the DETECT bank in effect, adds 1 to the malformed
counter and changes nothing else. A frame that passes in IDLE is copied to the forward slot with no position under
mode ALL, an older line there counted as dropped, and changes nothing else. A frame that passes in WAITING, RUNNING
or SILENT is under mode ALL first copied to the forward slot, with the position where the lookup found one, an older
line there counted as dropped; then with a stale trigger number and room in the urgent queue it adds 1 to the stale
counter and raises LANE_STALE with the lane, the number and the current trigger number (0 before the first); out of
order by R24 in RUNNING or SILENT it adds 1 to the out-of-order counter; H is then recomputed, and nothing else
changes but for the arbiter's take. (2.2 The LINE frame and its checks (R20, R21); 2.4 Placing a line (R24); 2.11
The forward slot (R35).) -/
def Obligations.LinesThatAreNotGood : Prop :=
  ∀ (i : LaneId) (s : State) (t n : Nat) (flags : Byte) (payload : List Byte) (ftype : Byte) (crc : BitVec 16),
    t < 65536 → n < 65536 → payload.length < 65000 →
    let body := leBytes 2 t ++ leBytes 2 n ++ flags :: payload
    let f : Frame := ⟨ftype, BitVec.ofNat 16 body.length, body, crc⟩
    let x := s.rx i
    let cmd := exec (.lineFrame i f) s
    let bump : Nat → Nat := fun v => min Config.max32 (v + 1)
    let became : Receiver → State := fun y => s.setLane i { s.lane i with rx := y }
    let line : ForwardLine := ⟨i, t, none, n, flags, payload⟩
    let copied : Option Nat → Receiver := fun position =>
      if x.forward = .all then
        { x with slot := some ⟨i, t, position, n, flags, payload⟩, forwardDropped := if x.slot = none then x.forwardDropped else bump x.forwardDropped }
      else x
    let dropped : Prop := ∃ u, cmd = .next u ∧ AfterTake (became { x with malformed := bump x.malformed }) u
    (x.state = .disabled → ∃ u, cmd = .next u ∧ AfterTake s u) ∧
    (x.state ≠ .disabled → crcHolds f = false → dropped) ∧
    (x.state ≠ .disabled → 4 * payload.length ≠ 5 * n → dropped) ∧
    (∀ b, x.state ≠ .disabled → bankInEffect s i t = some b → n ≠ (s.laneEntry b i).pixelCount → dropped) ∧
    (crcHolds f = true → 4 * payload.length = 5 * n → (∀ b, bankInEffect s i t = some b → n = (s.laneEntry b i).pixelCount) →
      (x.state = .idle → x.forward ≠ .all → ∃ u, cmd = .next u ∧ AfterTake s u) ∧
      (x.state = .idle → x.forward = .all → x.slot = none →
        ∃ u, cmd = .next u ∧ AfterTake (became { x with slot := some line }) u) ∧
      (x.state = .idle → x.forward = .all → x.slot ≠ none → ∃ u, cmd = .next u ∧
        AfterTake (became { x with slot := some line, forwardDropped := bump x.forwardDropped }) u) ∧
      (x.state = .waiting ∨ x.state = .running ∨ x.state = .silent → lookupTrigger t s = none →
        hasRoom s → ∃ v u, cmd = .next u ∧ Raised .laneStale (some i) t (if s.pos.triggerSeen then s.pos.trigger else 0)
          (became { copied none with stale := bump x.stale }) v ∧ AfterTake (recomputeH v) u) ∧
      (∀ p last, x.state = .running → lookupTrigger t s = some p → x.lastTrigger = some last →
        last < 65536 → (((t : Int) - last) % 65536 = 0 ∨ 32768 ≤ ((t : Int) - last) % 65536) →
        ∃ u, cmd = .next u ∧ AfterTake (recomputeH (became { copied (some p) with outOfOrder := bump x.outOfOrder })) u) ∧
      (∀ p, x.state = .silent → lookupTrigger t s = some p →
        ((∃ last, x.lastPosition = some last ∧ p ≤ last) ∨ ∃ g, x.openGap = some g ∧ p < g) →
        ∃ u, cmd = .next u ∧ AfterTake (recomputeH (became { copied (some p) with outOfOrder := bump x.outOfOrder })) u))

/-- A good line with no line in handling, at position p, whose bank in effect is b: it is suitable with ILLUM_OK set and
its saturated pixels in the window at or below sat_limit. Taken, it restarts the silence timer and becomes the last
taken line. In WAITING, and in SILENT with seeded clear or the silence reseed_ms long or longer, a suitable line
sets the background from its pixels, sets seeded, closes the open gap (a gap that ends at e, the larger of p +
line_pitch and H, above its start makes e, as its 48-bit field holds it, the last closed gap) and the lane is
RUNNING. In SILENT otherwise a suitable line closes the gap at the larger of p and H (the last closed gap, where
that is above its start), the lane is RUNNING with the saturation run 0, and the line is detected against the
background as it was left. An unsuitable line leaves the state, the gap, seeded and the background. THE MODEL'S
READING (log entry 13, DEDUCED): a gap that closes at or below its start leaves the last closed gap as it was; R32
says only that its record is withdrawn. (2.3 Lane states (R23); 2.7 Resume (R31); 2.8 Gap records (R32).) -/
def Obligations.SeedAndResume : Prop :=
  ∀ (i : LaneId) (s : State) (t n : Nat) (flags : Byte) (payload : List Byte) (ftype : Byte) (crc : BitVec 16),
    t < 65536 → n < 65536 → payload.length < 65000 →
    let body := leBytes 2 t ++ leBytes 2 n ++ flags :: payload
    let f : Frame := ⟨ftype, BitVec.ofNat 16 body.length, body, crc⟩
    let x := s.rx i
    let cmd := exec (.lineFrame i f) s
    ∀ (p : Nat) (b : BankId), crcHolds f = true → 4 * payload.length = 5 * n → lookupTrigger t s = some p →
    bankInEffect s i t = some b → n = (s.laneEntry b i).pixelCount → x.inHand = none → p + s.setup.linePitch < 2 ^ 48 →
    let e := s.laneEntry b i
    let px := unpackPixels payload
    let suits : Prop := flags.getLsbD 0 = true ∧ ((px.take (e.winHi + 1)).drop e.winLo).countP (fun v => v == 0 || v == 1023) ≤ e.satLimit
    let stop := max (p + s.setup.linePitch) s.map.h
    let inOrder : Prop := (∀ last, x.lastPosition = some last → last < p) ∧ ∀ g, x.openGap = some g → g ≤ p
    let since := x.silentSince.getD s.msTime
    let long : Prop := x.seeded = false ∨ s.setup.reseedMs ≤ (s.msTime + 2 ^ 32 - since) % 2 ^ 32
    let taken : State → Prop := fun u =>
      (u.rx i).lastTrigger = some t ∧ (u.rx i).lastPosition = some p ∧ (u.rx i).silenceTimer = 0
    since < 2 ^ 32 →
    (x.state = .waiting ∨ (x.state = .silent ∧ inOrder ∧ long) → suits → ∃ u, cmd = .next u ∧ taken u ∧
      (u.rx i).state = .running ∧ (u.rx i).seeded = true ∧ (u.rx i).openGap = none ∧
      (∀ g, x.openGap = some g → (u.rx i).lastClosedGap = if g < stop then some (heldSum stop) else x.lastClosedGap) ∧
      (u.lane i).profile = seedColumns e 0 px (s.lane i).profile) ∧
    (x.state = .silent → inOrder → ¬long → suits → ∃ u, cmd = .next u ∧ taken u ∧ (u.rx i).state = .running ∧
      (u.rx i).openGap = none ∧ (u.rx i).satRun = 0 ∧
        (∀ g, x.openGap = some g → (u.rx i).lastClosedGap =
          if g < max p s.map.h then some (heldSum (max p s.map.h)) else x.lastClosedGap) ∧ (u.lane i).profile =
        (detectColumns e (laneBoundaries (s.detectTables b) i) (laneThresholds (s.detectTables b) i) 0 px
          (s.lane i).profile).1) ∧
    (x.state = .waiting ∨ (x.state = .silent ∧ inOrder) → ¬suits → ∃ u, cmd = .next u ∧ taken u ∧
      (u.rx i).state = x.state ∧ (u.rx i).openGap = x.openGap ∧ (u.rx i).seeded = x.seeded ∧
      (u.lane i).profile = (s.lane i).profile)

/-- A good line in RUNNING with no line in handling, in order after the last taken trigger: it becomes the last taken
line with the silence timer at 0, and the missing counter grows by m, the number of trigger numbers left out before
it. With ILLUM_OK set and its saturated pixels in the window at or below sat_limit the saturation run is 0, above it
with a run below 15 the run grows by 1, and in both the lane stays RUNNING and the background is updated from the
line by the bank in effect; above it with the run at 15 the lane is SILENT with the run 0, its gap opened at the
line's position, silent since the present time and the background unchanged, and (with room) LANE_SATURATED is
raised before the entry to SILENT, with the lane, the line's saturated count and sat_limit. With ILLUM_OK clear the
lane stays RUNNING with the saturation run and the background unchanged. Its handling: the old bank's lines are
finished (R140); with m above 0 and room in the urgent queue LANE_SEQUENCE is raised with the lane, m and the
trigger number, m idle lines are handed, and the closed gap from the last taken position + line_pitch to the line's
position is entered; with m 0 none of this; then with ILLUM_OK clear one idle line is handed and the closed gap of
one line_pitch from the line's position is entered, else the line is counted for saturation; then H is recomputed. A
detected line below H hands one idle line in place of its runs and adds 1 to the behind-horizon count; at or above H
its runs are handed with its position and it adds 1 to the lane's lines inspected; with runs, under mode HITS, it is
copied to the forward slot. (2.4 Placing a line (R25, R26); 2.5 Inspected lines and saturation (R27, R28); 2.6
Silence and link loss (R29); 4.2 What the tracker takes (R53); 2.8 Gap records (R32); 2.11 The forward slot (R35);
9.6 Bindings and retiring (R140).) -/
def Obligations.RunningLine : Prop :=
  (∀ (i : LaneId) (s : State) (t n : Nat) (flags : Byte) (payload : List Byte) (ftype : Byte) (crc : BitVec 16),
    t < 65536 → n < 65536 → payload.length < 65000 →
    let body := leBytes 2 t ++ leBytes 2 n ++ flags :: payload
    let f : Frame := ⟨ftype, BitVec.ofNat 16 body.length, body, crc⟩
    let x := s.rx i
    let cmd := exec (.lineFrame i f) s
    ∀ (p last : Nat) (b : BankId), crcHolds f = true → 4 * payload.length = 5 * n → lookupTrigger t s = some p →
    bankInEffect s i t = some b → n = (s.laneEntry b i).pixelCount → x.inHand = none → x.state = .running →
    x.lastTrigger = some last → last < 65536 → 1 ≤ ((t : Int) - last) % 65536 → ((t : Int) - last) % 65536 < 32768 →
    let e := s.laneEntry b i
    let px := unpackPixels payload
    let lit : Prop := flags.getLsbD 0 = true
    let sat := ((px.take (e.winHi + 1)).drop e.winLo).countP (fun v => v == 0 || v == 1023)
    let m := (((t : Int) - last - 1) % 65536).toNat
    let after := (detectColumns e (laneBoundaries (s.detectTables b) i) (laneThresholds (s.detectTables b) i) 0 px
      (s.lane i).profile).1
    let line : Line := ⟨t, n, flags, payload⟩
    let took : Taken := ⟨line, p, b, decide (p < s.map.h)⟩
    let began := (copyIf .all i line (some p) s).modRx i fun y => { y with inHand := some p }
    let revealed := handleMissing i t p (finishOldBank i t began)
    let taken := revealed.modRx i fun y => { y with silenceTimer := 0, lastTrigger := some t, lastPosition := some p }
    let ended : State → State := fun v => recomputeH (v.modRx i fun y => { y with inHand := none })
    ∃ u, cmd = .next u ∧ (lit → AfterTake (ended (saturateLine i took taken)) u) ∧
      (¬lit →
        AfterTake (ended (closedGap i p (p + s.setup.linePitch) (trackIdle i 1 taken))) u) ∧
      (u.rx i).lastTrigger = some t ∧ (u.rx i).lastPosition = some p ∧ (u.rx i).silenceTimer = 0 ∧
      (u.rx i).missing = (if m = 0 then x.missing else min Config.max32 (x.missing + m)) ∧
      (lit → sat ≤ e.satLimit →
        (u.rx i).state = .running ∧ (u.rx i).satRun = 0 ∧ (u.lane i).profile = after) ∧
      (lit → e.satLimit < sat → x.satRun < 15 →
        (u.rx i).state = .running ∧ (u.rx i).satRun = x.satRun + 1 ∧ (u.lane i).profile = after) ∧
      (lit → e.satLimit < sat → x.satRun = 15 → (u.rx i).state = .silent ∧ (u.rx i).satRun = 0 ∧
        (u.rx i).openGap = some (x.openGap.getD p) ∧ (u.rx i).silentSince = some s.msTime ∧
        (u.lane i).profile = (s.lane i).profile) ∧
      (¬lit →
        (u.rx i).state = .running ∧ (u.rx i).satRun = x.satRun ∧ (u.lane i).profile = (s.lane i).profile)) ∧
  (∀ (i : LaneId) (t p last q : Nat) (s : State), t < 65536 → last < 65536 → (s.rx i).lastTrigger = some last →
    (s.rx i).lastPosition = some q →
    let m := (((t : Int) - last - 1) % 65536).toNat
    (m = 0 → handleMissing i t p s = s) ∧
    (0 < m → hasRoom s → ∃ v, Raised .laneSequence (some i) m t s v ∧ handleMissing i t p s =
      closedGap i (q + s.setup.linePitch) p (trackIdle i m (v.setLane i { s.lane i with rx :=
        { s.rx i with missing := min Config.max32 ((s.rx i).missing + m) } })))) ∧
  ∀ (i : LaneId) (x : Taken) (s : State),
    let r := detectLine i x.bank x.line s
    let shown : State → State := fun u => if r.2 = [] then u else copyIf .hits i x.line (some x.position) u
    let idle := trackIdle i 1 r.1
    let handed := trackRuns i x.bank x.position x.line.trigger r.2 r.1
    (x.behind = true → inspectLine i x s = shown (idle.withReport { idle.report with current :=
      { idle.report.current with behindHorizon := min Config.max32 (idle.report.current.behindHorizon + 1) } })) ∧
    (x.behind = false → inspectLine i x s = shown (handed.withReport { handed.report with current :=
      { handed.report.current with
        linesInspected := handed.report.current.linesInspected.set i
          (min Config.max32 (handed.report.current.linesInspected.get i + 1)) } })) ∧
    (let e := s.laneEntry x.bank i
     let n := ((x.line.pixels.take (e.winHi + 1)).drop e.winLo).countP (fun v => v == 0 || v == 1023)
     let run : Nat → State := fun k => s.setLane i { s.lane i with rx := { s.rx i with satRun := k } }
     (n ≤ e.satLimit → saturateLine i x s = inspectLine i x (run 0)) ∧
     (e.satLimit < n → (s.rx i).satRun < 15 → saturateLine i x s = inspectLine i x (run ((s.rx i).satRun + 1))) ∧
     (e.satLimit < n → (s.rx i).satRun = 15 → hasRoom s → ∃ v, Raised .laneSaturated (some i) n e.satLimit (run 16) v ∧
       saturateLine i x s = enterSilent i x.position v)) ∧
    ∀ k : Nat, trackIdle i 0 s = s ∧ trackIdle i (k + 1) s = trackIdle i k (endOfLine i 0 s)

/-- SILENCE_TIMER_EXPIRY with the lane WAITING or RUNNING and its timer at silent_ms or above, and LANE_LINK_DOWN with
it WAITING or RUNNING, take it SILENT with the saturation run 0, silent since the present time, its open gap kept,
or opened for a RUNNING lane at the last taken position + line_pitch; the link's report also sets the link DOWN. The
entry to SILENT is in this order: a RUNNING lane's flush, the open GAP record where the lane has no gap, silent
since and the saturation run, the release of the line binding, the state, H recomputed. The last thing done, but for
the arbiter's take, is the raise of LANE_SILENT with the lane, detail1 1 for silence and 2 for the link, and the low
32 bits of the gap's start. LANE_LINK_DOWN in another state, and LANE_LINK_UP in every state, change the link state
and nothing else. THE MODEL'S CHOICE (log entry 2): an expiry that is not due changes nothing. THE MODEL'S CHOICE
(log entry 16): a link that goes DOWN leaves a head command that is being sent as it is. (2.6 Silence and link loss
(R29, R30); 12.4 Head pass-through (R170).) -/
def Obligations.SilenceAndLaneLinks : Prop :=
  ∀ (i : LaneId) (s : State),
    let x := s.rx i
    let start : Nat := (x.lastPosition.getD 0) + s.setup.linePitch
    let listens : Prop := x.state = .waiting ∨ x.state = .running
    let gap : Nat := x.openGap.getD start
    let silent : State → LinkState → Nat → Host.Outcome State Fault Refusal → Prop := fun base link cause out =>
      ∃ t, out = .next t ∧ AfterTake (raise .laneSilent (some i) cause (gap % 2 ^ 32) (enterSilent i gap base)) t ∧
        (t.rx i).state = .silent ∧ (t.rx i).satRun = 0 ∧ (t.rx i).silentSince = some s.msTime ∧
        (t.rx i).openGap = some gap ∧ (t.rx i).link = link ∧ (t.rx i).lastTrigger = x.lastTrigger ∧
        (t.rx i).seeded = x.seeded
    let became : Receiver → State := fun y => s.setLane i { s.lane i with rx := y }
    (∀ g : Nat,
      let flushed := if x.state = .running then flush i s else s
      let opened := if x.openGap = none then openGap i g flushed else flushed
      let timed := opened.setLane i { opened.lane i with rx := { opened.rx i with silentSince := some s.msTime, satRun := 0 } }
      let released := releaseLineBinding i timed
      enterSilent i g s = recomputeH (released.setLane i { released.lane i with rx := { released.rx i with state := .silent } })) ∧
    (listens → (x.state = .running ∨ x.openGap ≠ none) → (x.openGap = none → x.lastPosition ≠ none ∧ start < 2 ^ 48) →
      (s.setup.silentMs ≤ x.silenceTimer → silent s x.link 1 (exec (.silenceTimerExpiry i) s)) ∧
        silent (became { x with link := .down }) .down 2 (exec (.laneLinkDown i) s)) ∧
    (¬listens ∨ x.silenceTimer < s.setup.silentMs → ∃ t, exec (.silenceTimerExpiry i) s = .next t ∧ AfterTake s t) ∧
    (¬listens → ∃ t, exec (.laneLinkDown i) s = .next t ∧ AfterTake (became { x with link := .down }) t) ∧
    ∃ t, exec (.laneLinkUp i) s = .next t ∧ AfterTake (became { x with link := .up }) t

/-- In every lane state: HEAD_REPLY_FRAME whose CRC holds, with room in the urgent queue, puts a HEAD_REPLY record with
the lane and the body unchanged behind the urgent records in flight; one whose CRC fails, and HEAD_FRAME_OTHER_TYPE,
add 1 to the lane's malformed counter. HEAD_COMMAND_SENT ends the head command that the lane link was sending.
Nothing else changes but for the arbiter's take. (12.4 Head pass-through (R170).) -/
def Obligations.HeadFrames : Prop :=
  ∀ (i : LaneId) (f : Frame) (s : State),
    let x := s.rx i
    let became : Receiver → State := fun y => s.setLane i { s.lane i with rx := y }
    let counted := became { x with malformed := min Config.max32 (x.malformed + 1) }
    (crcHolds f = true → hasRoom s → ∃ t, exec (.headReplyFrame i f) s = .next t ∧
      AfterTake (s.withTrunk { s.trunk with urgent := s.trunk.urgent ++ [.headReply i f.body] }) t) ∧
    (crcHolds f = false → ∃ t, exec (.headReplyFrame i f) s = .next t ∧ AfterTake counted t) ∧
    (∃ t, exec (.headFrameOtherType i f) s = .next t ∧ AfterTake counted t) ∧
    ∃ t, exec (.headCommandSent i) s = .next t ∧ AfterTake (became { x with headSending := none }) t

/-- A TRUNK_FRAME whose CRC fails adds 1 to the CRC-error counter; else one of another type than REQUEST (16) and HEAD
(17), longer than 8192 bytes, not matching its length field, or too short for its type adds 1 to the bad-frame
counter. A REQUEST joins the queue while fewer than 4 wait and another executes; with none waiting and none
executing it is the executing request; with 4 waiting and room in the urgent queue it is answered BUSY. A HEAD frame
for a lane above 3 adds 1 to the bad-frame counter; for a lane whose link is DOWN or still sending it adds 1 to the
head-drop counter; else its message is the head command being sent. Nothing else changes but for the arbiter's take.
(12.2 Frames and the link (R167); 12.3 Requests (R168); 12.4 Head pass-through (R170).) -/
def Obligations.TrunkFrame : Prop :=
  ∀ (f : Frame) (s : State),
    let tr := s.trunk
    let bump : Nat → Nat := fun v => min Config.max32 (v + 1)
    let leaves : State → Prop := fun u => ∃ t, exec (.trunkFrame f) s = .next t ∧ AfterTake u t
    let bad := s.withTrunk { tr with badFrames := bump tr.badFrames }
    let whole : Prop := crcHolds f = true ∧ f.body.length = f.len.toNat ∧ f.len.toNat ≤ 8192
    (crcHolds f = false → leaves (s.withTrunk { tr with crcErrors := bump tr.crcErrors })) ∧
    (crcHolds f = true → (f.ftype ≠ 16 ∧ f.ftype ≠ 17) ∨ 8192 < f.len.toNat ∨ f.body.length ≠ f.len.toNat ∨
      (f.ftype = 16 ∧ f.body.length < 2) ∨ (f.ftype = 17 ∧ f.body = []) → leaves bad) ∧
    (∀ tag kind args, whole → f.ftype = 16 → f.body = tag :: kind :: args →
      (tr.executing = none → tr.requests = [] → leaves (s.withTrunk { tr with executing := some ⟨tag, kind, args⟩ })) ∧
      (tr.executing ≠ none → tr.requests.length < 4 →
        leaves (s.withTrunk { tr with requests := tr.requests ++ [⟨tag, kind, args⟩] })) ∧
      (tr.requests.length = 4 → hasRoom s →
        leaves (s.withTrunk { tr with urgent := tr.urgent ++ [.response tag kind .busy []] }))) ∧
    ∀ lane message, whole → f.ftype = 17 → f.body = lane :: message →
      (4 ≤ lane.toNat → leaves bad) ∧
      ∀ i : LaneId, lane.toNat = i.val →
        ((s.rx i).link = .down ∨ (s.rx i).headSending ≠ none →
          leaves (s.withTrunk { tr with headDrops := bump tr.headDrops })) ∧
        ((s.rx i).link = .up → (s.rx i).headSending = none →
          leaves (s.setLane i { s.lane i with rx := { s.rx i with headSending := some message } }))

/-- TRUNK_SEND_DONE ends the sending; with the link UP the arbiter then takes the oldest urgent record; with none, the
oldest FLAW record; with neither, the line in the first non-empty forward slot from the lane after the last lane
served, wrapping, and that lane is the last served; with nothing waiting, or the link DOWN, nothing is being sent.
TRUNK_LINK_DOWN sets the link DOWN, and loses a record being sent, adding 1 to the send aborts. TRUNK_LINK_UP sets
the link UP, and the arbiter takes again. Nothing else changes. (12.2 Frames and the link (R167); 12.5 The outbound
side (R172).) -/
def Obligations.ArbiterOrder : Prop :=
  ∀ s : State,
    let tr := s.trunk
    let free : Trunk := { tr with sending := none }
    (tr.link = .down → exec .trunkSendDone s = .next (s.withTrunk free)) ∧
    (∀ r rest, tr.link = .up → tr.urgent = r :: rest →
      exec .trunkSendDone s = .next (s.withTrunk { tr with urgent := rest, sending := some (.urgent r) })) ∧
    (∀ r rest, tr.link = .up → tr.urgent = [] → tr.flaws = r :: rest →
      exec .trunkSendDone s = .next (s.withTrunk { tr with flaws := rest, sending := some (.flaw r) })) ∧
    (∀ (k : Fin 4) (l : ForwardLine), tr.link = .up → tr.urgent = [] → tr.flaws = [] →
      let i : LaneId := tr.lastLane + 1 + k
      (s.rx i).slot = some l → (∀ j : Fin 4, j < k → (s.rx (tr.lastLane + 1 + j)).slot = none) →
      exec .trunkSendDone s = .next ((s.setLane i { s.lane i with rx := { s.rx i with slot := none } }).withTrunk
        { tr with lastLane := i, sending := some (.line l) })) ∧
    (tr.link = .up → tr.urgent = [] → tr.flaws = [] → (∀ i, (s.rx i).slot = none) →
      exec .trunkSendDone s = .next (s.withTrunk free)) ∧
    (tr.sending = none → exec .trunkLinkDown s = .next (s.withTrunk { tr with link := .down })) ∧
    (tr.sending ≠ none → exec .trunkLinkDown s = .next (s.withTrunk
      { tr with link := .down, sending := none, sendAborts := min Config.max32 (tr.sendAborts + 1) })) ∧
    ∃ t, exec .trunkLinkUp s = .next t ∧ AfterTake (s.withTrunk { tr with link := .up }) t ∧
      ∀ r rest, tr.sending = none → tr.urgent = r :: rest → t.trunk.sending = some (.urgent r) ∧ t.trunk.urgent = rest

/-- A close stamps the current report with its cause, P and the time, adds each open gap's share clipped to the shift,
and sets OVERWROTE where an unread report is overwritten; the report moves to the closed slot unread, its REPORT
record is handed, and a report with the next shift number opens at P and the time. With room for both records
SHIFT_CLOSE does this with cause REQUEST, reloads the shift timer with the second phase 0, and is then answered OK
with the closed shift's number. SHIFT_TIMER_EXPIRY with shift_period_s above 0, the timer at 0 and room does it with
cause TIMER and reloads; THE MODEL'S CHOICE (log entry 2): else it changes nothing. REPORT_GET of CLOSED (1) is
answered OK with the closed report and its unread mark, which is then clear, or with an absent report where the slot
is empty; a selector above 1 is MALFORMED. THE MODEL'S CHOICE (log entries 12 and 9): the body of CLOSED is an
optional field, a presence byte and then the report and its unread mark, one byte, 1 for set; absent it is 282
zeros. (11.2 What adds to the report (R159); 11.3 Closing a shift (R160, R161); 11.4 The shift timer and REPORT_GET
(R162, R163); 12.7 Status and formats (R177).) -/
def Obligations.ShiftCloseAndReportGet : Prop :=
  ∀ (s : State) (tag : Byte) (args rest : List Byte),
    let rp := s.report
    let old := rp.current
    let share : LaneId → Nat := fun i => match (s.rx i).openGap with
      | some start => s.pos.p - max start old.openP
      | none => 0
    let closed : CloseCause → Report := fun c => { old with
      closedBy := some c
      closeP := some s.pos.p
      closeMs := some s.msTime
      gapLength := (closedReport c s).gapLength
      overwrote := rp.closed.isSome && rp.unread }
    let after : CloseCause → State := fun c => (s.withReport { rp with
        current := Report.opened ((old.shift + 1) % 65536) c.opens s.pos.p s.msTime
        closed := some (closed c)
        unread := true
        shiftTimer := s.setup.shiftPeriodS
        secondPhase := 0 }).withTrunk { s.trunk with urgent := s.trunk.urgent ++ [.report (closed c)] }
    (∀ c i, (closedReport c s).gapLength.get i = min Config.max32 (old.gapLength.get i + share i)) ∧
    (s.trunk.urgent.length + 2 ≤ Config.urgentSlots → ∃ t, exec (.shiftClose tag args) s = .next t ∧
      Answered ⟨tag, 12, args⟩ .ok (leBytes 2 old.shift) (after .request) t) ∧
    (0 < s.setup.shiftPeriodS → rp.shiftTimer = 0 → hasRoom s → ∃ t, exec .shiftTimerExpiry s = .next t ∧
      AfterTake (after .timer) t) ∧
    ((s.setup.shiftPeriodS = 0 ∨ 0 < rp.shiftTimer) → ∃ t, exec .shiftTimerExpiry s = .next t ∧ AfterTake s t) ∧
    (hasRoom s →
      (∀ r, rp.closed = some r → ∃ t, exec (.reportGet tag (1 :: rest)) s = .next t ∧
        Answered ⟨tag, 13, 1 :: rest⟩ .ok (1 :: (r.bytes ++ [if rp.unread then 1 else 0]))
          (s.withReport { rp with unread := false }) t) ∧
      (rp.closed = none → ∃ t, exec (.reportGet tag (1 :: rest)) s = .next t ∧
        Answered ⟨tag, 13, 1 :: rest⟩ .ok (List.replicate 282 0) (s.withReport { rp with unread := false }) t) ∧
      ∀ sel : Byte, 2 ≤ sel.toNat → ∃ t, exec (.reportGet tag (sel :: rest)) s = .next t ∧
        Answered ⟨tag, 13, sel :: rest⟩ .malformed [] s t)

/-- With room in the urgent queue: outside STANDBY, or with no ACTIVE bank in a group, RUN_START is answered NOT_NOW;
with d_div at or below d_cut, else d_cut at or below cut_lead + confirm_window, else net_hi at or below net_lo,
INVALID with code 10, 11 or 12 and index 0; nothing changes. In STANDBY as a run leaves it (schedule, map and queue
empty, lanes IDLE or DISABLED, no GRADE bank COMMITTING, an order of length 1 or more) with every check passed: the
run state is INSPECT, E absent, S0 = P + start_offset is C_last and the start cut PLANNED, its CUT entry alone
stands in the schedule at S0 + d_cut - cut_lead, the cursor is the lowest enabled spec, the last divert position is
absent, every tracker is empty, IDLE lanes are WAITING with their gap at S0, DISABLED lanes stay, H is S0, or P
where no lane waits, the planner waits on the horizon, and the answer is OK with S0 in six bytes. (12.6 Run control
(R173); 6.3 Start of a run (R88); 9.7 Setup parameters (R143); 2.3 Lane states (R22); 5.6 The inspection horizon
(R82, R83).) -/
def Obligations.RunStart : Prop :=
  ∀ (s : State) (tag : Byte) (args : List Byte), hasRoom s →
    let st := s.setup
    let s0 := s.pos.p + st.startOffset
    let cmd := exec (.runStart tag args) s
    let answers : Status → List Byte → Prop := fun status body =>
      ∃ t, cmd = .next t ∧ Answered ⟨tag, 7, args⟩ status body s t
    let actives : Prop := s.store.detect.active ≠ none ∧ s.store.grade.active ≠ none
    let tables := s.store.grade.activeTables
    (s.trunk.run ≠ .standby ∨ ¬actives → answers .notNow []) ∧
    (s.trunk.run = .standby → actives →
      (st.dDiv ≤ st.dCut → answers .invalid [10, 0, 0]) ∧
      (st.dCut < st.dDiv → st.dCut ≤ st.cutLead + st.confirmWindow → answers .invalid [11, 0, 0]) ∧
      (st.dCut < st.dDiv → st.cutLead + st.confirmWindow < st.dCut → st.netHi ≤ st.netLo → answers .invalid [12, 0, 0]) ∧
      (st.dCut < st.dDiv → st.cutLead + st.confirmWindow < st.dCut → st.netLo < st.netHi →
        (∀ i, (s.rx i).state = .idle ∨ (s.rx i).state = .disabled) → (∀ i, (s.rx i).inHand = none) →
        s.pos.schedule = [] → s.pos.firing = [] → s.map.records = [] → s.plan.queue = [] →
        s.store.grade.find .committing = none → 1 ≤ (tables.specs.getD (firstEnabled tables) default).length →
        s0 < 2 ^ 48 →
        ∃ t, cmd = .next t ∧ t.trunk.run = .inspect ∧ t.trunk.stopEnd = none ∧ t.pos.p = s.pos.p ∧
          t.plan.cLast = s0 ∧ t.plan.startCut = some ⟨s0, .planned, none, none, none⟩ ∧
          t.plan.trailing = ⟨.planned, s0⟩ ∧ t.plan.cursor = firstEnabled tables ∧ t.plan.complete = false ∧
          t.plan.queue = [] ∧ t.plan.wait = .horizon ∧ t.pos.schedule = [⟨s0 + st.dCut - st.cutLead, .cut, 0⟩] ∧
          t.divert = { s.divert with last := none } ∧ (∀ i, (t.lane i).tracker = Tracker.empty) ∧
          (∀ i, (s.rx i).state = .idle → (t.rx i).state = .waiting ∧ (t.rx i).seeded = false ∧
            (t.rx i).lastPosition = none ∧ (t.rx i).openGap = some ((s.rx i).openGap.getD s0)) ∧
          (∀ i, (s.rx i).state = .disabled → (t.rx i).state = .disabled) ∧
          ((∃ i, (s.rx i).state = .idle) → t.map.h = s0) ∧ ((∀ i, (s.rx i).state = .disabled) → t.map.h = s.pos.p) ∧
          urgentInFlight t = urgentInFlight s ++ [.response tag 7 .ok (leBytes 6 s0)] ∧
          requestOver ⟨tag, 7, args⟩ s t))

/-- With room in the urgent queue RUN_STOP is answered NOT_NOW in STANDBY and STOPPING and nothing changes. In INSPECT,
with the glass of the lanes' last lines below 2^48: E is the lowest last taken position + line_pitch of the RUNNING
lanes, or P where none is RUNNING; E is stored; every WAITING, RUNNING or SILENT lane is IDLE with its last taken
trigger and position absent, other lanes keep their state, and no lane has an open gap; each RUNNING lane's blob
table is flushed and, where the tracker's law held, empty; every other lane's stays; an open gap that starts below E
makes E the lane's last closed gap; H is the larger of E and the H that the flushes leave, and not below what it
was; the run state is STOPPING, or STANDBY where nothing was left to do; P, the setup and the output controls stay.
THE MODEL'S CHOICE (log entry 29): the lanes flush in ascending order. THE MODEL'S READINGS (DEDUCED): log entry 6,
the lanes' move to IDLE does not recompute H, so that R83 alone gives it; log entry 13, a gap that closes at or
below its start leaves the last closed gap. With room for it when the planner's attempt is over, the answer is OK
with E in six bytes. (12.6 Run control (R174); 2.10 Stopping (R34); 5.6 The inspection horizon (R83); 2.8 Gap
records (R32).) -/
def Obligations.RunStop : Prop :=
  ∀ (s : State) (tag : Byte) (args : List Byte),
    let cmd := exec (.runStop tag args) s
    (hasRoom s → s.trunk.run ≠ .inspect → ∃ t, cmd = .next t ∧ Answered ⟨tag, 8, args⟩ .notNow [] s t) ∧
    (s.trunk.run = .inspect →
      (∀ i, (s.rx i).state = .running → ∃ x, (s.rx i).lastPosition = some x ∧ x + s.setup.linePitch < 2 ^ 48) →
      ∃ stop t, cmd = .next t ∧ t.trunk.stopEnd = some stop ∧
        ((∀ i, (s.rx i).state ≠ .running) → stop = s.pos.p) ∧
        (∀ i x, (s.rx i).state = .running → (s.rx i).lastPosition = some x → stop ≤ x + s.setup.linePitch) ∧
        ((∃ i, (s.rx i).state = .running) →
          ∃ i x, (s.rx i).state = .running ∧ (s.rx i).lastPosition = some x ∧ stop = x + s.setup.linePitch) ∧
        (∀ i, (s.rx i).state = .waiting ∨ (s.rx i).state = .running ∨ (s.rx i).state = .silent →
          (t.rx i).state = .idle ∧ (t.rx i).lastTrigger = none ∧ (t.rx i).lastPosition = none) ∧
        (∀ i, (s.rx i).state = .idle ∨ (s.rx i).state = .disabled → (t.rx i).state = (s.rx i).state) ∧
        (∀ i, (t.rx i).openGap = none) ∧
        (∀ i g, (s.rx i).openGap = some g → (t.rx i).lastClosedGap =
          if g < stop then some (heldSum stop) else (s.rx i).lastClosedGap) ∧
        (∀ i, ((s.rx i).state = .running → (s.lane i).tracker.Ok → (t.lane i).tracker = ⟨List.replicate 32 .free, []⟩) ∧
          ((s.rx i).state ≠ .running → (t.lane i).tracker = (s.lane i).tracker)) ∧
        (let flushed := ([0, 1, 2, 3] : List LaneId).foldl (fun u i => if (s.rx i).state = .running then flush i u else u) s
         t.map.h = max flushed.map.h stop) ∧ s.map.h ≤ t.map.h ∧
        (let w := (stopLanes s).1
         let u := planningAttempt ((w.withMap { w.map with h := max w.map.h stop }).withTrunk
           { w.trunk with run := .stopping, stopEnd := some stop })
         hasRoom u → Answered ⟨tag, 8, args⟩ .ok (leBytes 6 stop) u t) ∧
        (t.trunk.run = .stopping ∨ t.trunk.run = .standby) ∧ t.pos.p = s.pos.p ∧ t.setup = s.setup ∧
        t.outputs = s.outputs)

/-- After either reset P, the debt, the trigger phase and number and the millisecond position state are 0, the
quadrature state is the inputs', the schedule, map, plate queue, trackers and the request and FLAW queues are empty,
H and the flaw ids are 0, C_last, the cursor and the trailing boundary 0, the latter PLANNED, the next plate 1, the
wait state NONE, plan complete clear, backgrounds unseeded at 0, lanes DISABLED with forward OFF, their counters,
silence timer and saturation run 0, no cut outstanding or pending, no last capture and no requested hold, the fault
level the input's, the gate REJECT, both condition records vacant with counters 0, the run state STANDBY, E absent,
the last lane served 3, nothing being sent but the first urgent record where the link is UP; link states stay. The
power-on reset also sets the setup to the values of 9.7, both banks of both groups EMPTY with every field at its
clamped zero (3.9, 4.9, 6.2, 8.6), every latch 0 under MANUAL, the time 0, shift 0 open by POWER_ON with every
counter 0 and its timer at 0, and has one STARTED record of POWER_ON in flight. PART_RESET keeps setup, table
contents, latches, owners and the time, makes COMMITTING and RETIRING banks LOADED, closes the report with cause
RESET, opens the next shift by RESET at P 0 with every counter 0 and the shift timer at shift_period_s, and has
STARTED with SOFT, the time and the number of discarded requests in flight, then the REPORT record. THE MODEL'S
CHOICE (log entry 32): the discarded requests are those that wait as the command runs. (12.6 Run control (R175);
12.1 Trunk Interface state (R165); 1.1 Position Unit state (R1); 2.1 Receiver state (R19); 9.2 Bank state (R132);
9.7 Setup parameters (R142); 10.2 Condition Unit state (R145); 11.1 Report Unit state (R157); 7.2 Cutter Interface
state (R103); 7.6 Divert (R113, R114); 7.7 Discrete outputs (R115); 5.1 Map state (R73).) -/
def Obligations.Resets : Prop :=
  ∀ s : State,
    let opened : Nat → OpenCause → Nat → Report := fun shift cause ms =>
      { shift := shift, openedBy := cause, closedBy := none, openP := 0, closeP := none, openMs := ms, closeMs := none,
        linesInspected := ⟨0, 0, 0, 0⟩, behindHorizon := 0, runsOverflowed := 0, blobsRefused := 0, overlapDrops := 0,
        edgeDrops := 0, noiseDrops := 0, beforePlan := 0, flawsByClass := List.replicate 16 0,
        platesByGrade := List.replicate 7 0, lengthByGrade := List.replicate 7 0, cutsRequested := 0, cutsConfirmed := 0,
        cutsDeviated := 0, cutsMissed := 0, cutsSkipped := 0, staleConfirms := 0, conditions := List.replicate 17 0,
        gapLength := ⟨0, 0, 0, 0⟩, overwrote := false }
    let common : State → Prop := fun t =>
      t.pos.p = 0 ∧ t.pos.debt = 0 ∧ t.pos.excursion = none ∧ t.pos.reverseArmed = true ∧ t.pos.stallTimer = 0 ∧
      t.pos.stallArmed = true ∧ t.pos.phase = 0 ∧ t.pos.trigger = 0 ∧ t.pos.triggerSeen = false ∧
      (∀ n, t.pos.history.getD n none = none) ∧ t.pos.schedule = [] ∧
      (∀ i, (t.rx i).state = .disabled ∧ (t.rx i).forward = .off ∧ (t.rx i).slot = none ∧ (t.rx i).lastTrigger = none ∧
        (t.rx i).seeded = false ∧ (t.rx i).openGap = none ∧ (t.rx i).malformed = 0 ∧ (t.rx i).stale = 0 ∧
        (t.rx i).outOfOrder = 0 ∧ (t.rx i).forwardDropped = 0 ∧ (t.rx i).lastPosition = none ∧ (t.rx i).lastClosedGap = none ∧
        (t.rx i).missing = 0 ∧ (t.rx i).silenceTimer = 0 ∧ (t.rx i).silentSince = none ∧ (t.rx i).satRun = 0 ∧
        (t.rx i).inHand = none ∧ (t.rx i).lineBinding = none ∧ (t.rx i).link = (s.rx i).link ∧
        (t.lane i).tracker = Tracker.empty ∧ (t.lane i).profile = List.replicate 4096 ⟨0, false⟩) ∧
      t.flawId = 0 ∧ t.map = ⟨[], none, 0⟩ ∧ t.plan = ⟨0, 0, 1, none, ⟨.planned, 0⟩, .none, false, []⟩ ∧
      t.cutter.outstanding = none ∧ t.cutter.pendingCut = none ∧ t.cutter.requestedHold = false ∧ t.cutter.lastCapture = none ∧
      t.cutter.seqLevel = false ∧ t.divert = ⟨.reject, none⟩ ∧ t.grader = ⟨none, false, none⟩ ∧
      t.cond = ⟨none, none, List.replicate 17 0⟩ ∧ t.trunk.run = .standby ∧ t.trunk.stopEnd = none ∧
      t.trunk.requests = [] ∧ t.trunk.executing = none ∧ flawsInFlight t = [] ∧ t.trunk.link = s.trunk.link ∧
      t.trunk.lastLane = 3 ∧
      (t.trunk.link = .down → t.trunk.sending = none) ∧
      (t.trunk.link = .up → t.trunk.sending = (urgentInFlight t).head?.map Outbound.urgent) ∧
      t.trunk.headDrops = 0 ∧ t.trunk.flawDrops = 0 ∧ t.trunk.sendAborts = 0 ∧ t.trunk.crcErrors = 0 ∧ t.trunk.badFrames = 0 ∧ t.trunk.urgentDrops = 0 ∧ t.store.tSw = none ∧
      t.pending = s.pending
    (∀ lv : InputLevels, ∃ t, exec (.powerOnReset lv) s = .next t ∧ common t ∧ t.pos.encA = lv.encA ∧
      t.pos.encB = lv.encB ∧ t.cutter.faultHigh = lv.cutterFault ∧ t.cutter.ackHigh = lv.cutAck ∧
      t.setup = ⟨20000, 5, 1000, 50000, 400, 500, 100, 150000, 1000, 0, 8000000, 500, 50, 2000, 0, 0, 0⟩ ∧
      (∀ b, t.store.detect.get b = ⟨.empty, ⟨PerLane.all ⟨0, 0, 0, 2, 0, 0, 0, 1, 0, 10, 0, 0⟩, List.replicate 60 0,
            List.replicate 64 ⟨1, 1⟩, List.replicate 16 ⟨.dark, 0, 0, 0, 0, 0, .any, 0, false⟩⟩⟩ ∧
          t.store.grade.get b = ⟨.empty, ⟨List.replicate 3 ⟨0, 0⟩, List.replicate 192 0, List.replicate 16 false,
            List.replicate 7 .stack0, List.replicate 8 ⟨1, .a, false⟩, 0, 1⟩⟩) ∧
      (∀ o, t.outputs.get o = ⟨false, .manual⟩) ∧ t.msTime = 0 ∧ t.report = ⟨opened 0 .powerOn 0, none, false, 0, 0⟩ ∧
      urgentInFlight t = [.started .powerOn 0 0]) ∧
    ∀ (tag : Byte) (args : List Byte), ∃ t, exec (.partReset tag args) s = .next t ∧ common t ∧
      t.pos.encA = s.pos.encA ∧ t.pos.encB = s.pos.encB ∧ t.cutter.faultHigh = s.cutter.faultHigh ∧
      t.setup = s.setup ∧ t.outputs = s.outputs ∧ t.msTime = s.msTime ∧
      (∀ b, (t.store.detect.get b).tables = (s.store.detect.get b).tables ∧
        (t.store.grade.get b).tables = (s.store.grade.get b).tables ∧
        (t.store.detect.get b).state = (match (s.store.detect.get b).state with
          | .committing => .loaded
          | .retiring => .loaded
          | x => x) ∧
        (t.store.grade.get b).state = (match (s.store.grade.get b).state with
          | .committing => .loaded
          | .retiring => .loaded
          | x => x)) ∧
      t.report = ⟨opened ((s.report.current.shift + 1) % 65536) .reset s.msTime, some (closedReport .reset s), true,
        s.setup.shiftPeriodS, 0⟩ ∧
      urgentInFlight t =
        [.started .soft s.msTime s.trunk.requests.length, .report (closedReport .reset s)]

/-- The state after reset meets the laws of the Position Unit, the trigger history, the schedule, the trunk's queues,
the flaw map, the planner, the banks, the masks, the backgrounds and the trackers, and no line is in handling. (12.6
Run control (R175); 1.1 Position Unit state (R1); 12.1 Trunk Interface state (R165).) -/
def Obligations.ResetKeepsTheLaws : Prop :=
  LinesOk State.reset ∧ PositionOk State.reset ∧ HistoryOk State.reset ∧ ScheduleOk State.reset ∧ QueuesOk State.reset ∧
    MapOk State.reset ∧ PlannerOk State.reset ∧ BanksOk State.reset ∧ MasksOk State.reset ∧ ProfilesOk State.reset ∧
    TrackersOk State.reset

/-- From every state in which no line is in handling and the laws of the Position Unit, the trigger history and the
schedule hold, every step answers a state in which they hold: P below 2^48, the debt at most 255 with an excursion
exactly while it is above 0, each valid history slot one of the 256 latest triggers in its place with rising
positions, the schedule in order above P within 64 entries. (1.1 Position Unit state; 1.2 Encoder counting (R3, R4);
1.5 Trigger history (R9); 1.6 The position schedule (R12, R13).) -/
def Obligations.PositionLawsAreKept : Prop :=
  ∀ s t : State, LinesOk s → PositionOk s → HistoryOk s → ScheduleOk s → step s = .next t →
    LinesOk t ∧ PositionOk t ∧ HistoryOk t ∧ ScheduleOk t

/-- From every state in which no line is in handling and the laws of the trunk's queues, the flaw map and the plate
queue hold, every step answers a state in which they hold: at most 4 requests wait and only while one executes, at
most 32 urgent and 128 FLAW records wait, at most 2048 map records in lead order, at most 128 plates and none in
STANDBY. (12.1 Trunk Interface state; 5.2 Order and entry (R74, R75); 6.4 Planning attempts (R89); 6.8 Stopping
(R101); 12.3 Requests (R168); 12.5 The outbound side (R171).) -/
def Obligations.CollectionLawsAreKept : Prop :=
  ∀ s t : State, LinesOk s → QueuesOk s → MapOk s → PlannerOk s → step s = .next t → QueuesOk t ∧ MapOk t ∧ PlannerOk t

/-- From every state in which no line is in handling, no group has two ACTIVE banks, bank 1 of a group is COMMITTING
only beside an ACTIVE bank 0 and the masks keep their held bits at 0, every step answers a state in which these
hold. (9.2 Bank state (R132); 9.5 Switch points (R139); 9.7 Setup parameters (R142); 10.4 Delegation masks (R148).) -/
def Obligations.TableLawsAreKept : Prop :=
  ∀ s t : State, LinesOk s → BanksOk s → MasksOk s → step s = .next t → BanksOk t ∧ MasksOk t

/-- From every state in which no line is in handling, every lane has 4096 columns with backgrounds at most 65472, and
every tracker has 32 slots whose age order holds each slot that is not FREE once and no other, every step answers a
state in which these hold. (4.1 The open blob table; 3.1 Datapath state (R37); 3.6 The background (R44).) -/
def Obligations.LaneLawsAreKept : Prop :=
  ∀ s t : State, LinesOk s → ProfilesOk s → TrackersOk s → step s = .next t → LinesOk t ∧ ProfilesOk t ∧ TrackersOk t

/-- In every state in which no line is in handling, every command but the two resets leaves P as it is, or, for an
ENCODER_INCREMENT, as it is or one greater; and every command but the two resets and RUN_START leaves H at or above
what it was. (1.2 Encoder counting (R3); 5.6 The inspection horizon (R82, R83).) -/
def Obligations.PositionAndHorizonNeverFall : Prop :=
  ∀ (c : Instr) (s t : State), LinesOk s → exec c s = .next t → (∀ lv, c ≠ .powerOnReset lv) →
    (∀ tag args, c ≠ .partReset tag args) →
    (t.pos.p = s.pos.p ∨ (t.pos.p = s.pos.p + 1 ∧ ∃ a b, c = .encoderIncrement a b)) ∧
    ((∀ tag args, c ≠ .runStart tag args) → s.map.h ≤ t.map.h)

/-- In every state in which no line is in handling, a command leaves the run state as it is, but that RUN_START takes
STANDBY to INSPECT, RUN_STOP takes INSPECT to STOPPING, or on to STANDBY where nothing is left to do, any command
may end a stop, taking STOPPING to STANDBY, and the resets give STANDBY. (12.6 Run control (R173, R174, R175); 6.8
Stopping (R101).) -/
def Obligations.RunStateMoves : Prop :=
  ∀ (c : Instr) (s t : State), LinesOk s → exec c s = .next t →
    t.trunk.run = s.trunk.run ∨
    (s.trunk.run = .standby ∧ t.trunk.run = .inspect ∧ ∃ tag args, c = .runStart tag args) ∨
    (s.trunk.run = .inspect ∧ t.trunk.run ≠ .inspect ∧ ∃ tag args, c = .runStop tag args) ∨
    (s.trunk.run = .stopping ∧ t.trunk.run = .standby) ∨
    (t.trunk.run = .standby ∧ ((∃ lv, c = .powerOnReset lv) ∨ ∃ tag args, c = .partReset tag args))

/-- In every state in which no line is in handling, every command but the resets, TRUNK_SEND_DONE and TRUNK_LINK_DOWN
keeps the urgent and the FLAW records in flight, in their order, with what it adds behind them; TRUNK_SEND_DONE and
TRUNK_LINK_DOWN take away the record being sent alone. (12.5 The outbound side (R171, R172); 12.2 Frames and the
link (R167).) -/
def Obligations.OutboundRecordsKeepTheirOrder : Prop :=
  ∀ (c : Instr) (s t : State), LinesOk s → exec c s = .next t → (∀ lv, c ≠ .powerOnReset lv) →
    (∀ tag args, c ≠ .partReset tag args) →
    (c ≠ .trunkSendDone → c ≠ .trunkLinkDown →
      urgentInFlight s <+: urgentInFlight t ∧ flawsInFlight s <+: flawsInFlight t) ∧
    (c = .trunkSendDone ∨ c = .trunkLinkDown → urgentInFlight t = s.trunk.urgent ∧ flawsInFlight t = s.trunk.flaws)

end
end

