-- ==== Sys2Proof/Laws/Bytes.lean ====
section
/-! SUPPORT. Numbers in bytes, and the fields of a request read back (R177). -/

namespace Sys2Proof.Machine

@[simp] theorem leBytes_length (n v : Nat) : (leBytes n v).length = n := by
  induction n generalizing v with
  | zero => rfl
  | succ n ih => simp [leBytes, ih]

/-- A number written in n bytes reads back modulo 256^n. -/
theorem ofLE_leBytes (n v : Nat) : ofLE (leBytes n v) = v % 256 ^ n := by
  induction n generalizing v with
  | zero => simp [leBytes, ofLE, Nat.mod_one]
  | succ n ih =>
    unfold leBytes ofLE
    have h : v % 2 ^ 8 = v % 256 := rfl
    rw [ih, BitVec.toNat_ofNat, h, pow_succ', Nat.mod_mul]

/-- The front of the arguments reads as the number written there. -/
theorem readFields_cons (w v : Nat) (ws : List Nat) (rest : List Byte) :
    readFields (w :: ws) (leBytes w v ++ rest) = (readFields ws rest).map (v % 256 ^ w :: ·) := by
  have h : ¬(leBytes w v ++ rest).length < w := by simp
  rw [readFields, if_neg h, List.drop_left' (leBytes_length w v), List.take_left' (leBytes_length w v), ofLE_leBytes]

/-- Numbers written in given widths read back, each modulo its width, whatever follows them. -/
theorem readFields_writeFields (ws vs : List Nat) (rest : List Byte) (h : vs.length = ws.length) :
    readFields ws (writeFields ws vs ++ rest) = some (List.zipWith (fun w v => v % 256 ^ w) ws vs) := by
  induction ws generalizing vs with
  | nil => simp [readFields]
  | cons w ws ih =>
    cases vs with
    | nil => simp at h
    | cons v vs =>
      have e : writeFields (w :: ws) (v :: vs) ++ rest = leBytes w v ++ (writeFields ws vs ++ rest) := by
        simp [writeFields]
      rw [e, readFields_cons, ih vs (by simpa using h)]
      rfl

/-- A single argument byte. -/
theorem readFields_byte (b : Byte) (ws : List Nat) (rest : List Byte) :
    readFields (1 :: ws) (b :: rest) = (readFields ws rest).map (b.toNat :: ·) := by
  have h : ¬(b :: rest).length < 1 := by simp
  rw [readFields, if_neg h]
  simp [ofLE]

/-- Arguments too short for the first field. -/
theorem readFields_short (w : Nat) (ws : List Nat) (bs : List Byte) (h : bs.length < w) :
    readFields (w :: ws) bs = none := by
  unfold readFields
  exact if_pos h

/-- Arguments too short for all the fields. -/
theorem readFields_none (ws : List Nat) (bs : List Byte) (h : bs.length < ws.sum) : readFields ws bs = none := by
  induction ws generalizing bs with
  | nil => simp at h
  | cons w ws ih =>
    unfold readFields
    split
    · rfl
    · rw [ih (bs.drop w) (by simp at *; omega)]
      rfl

/-- A frame whose body is as long as its length field says reads back from its bytes (R166). -/
theorem frameOfBytes?_frameBytes (f : Frame) (h : f.body.length = f.len.toNat) :
    frameOfBytes? (frameBytes f) = some f := by
  obtain ⟨t, l, body, crc⟩ := f
  have hl : ofLE (leBytes 2 l.toNat) = l.toNat := by
    rw [ofLE_leBytes]; exact Nat.mod_eq_of_lt l.isLt
  have hc : ofLE (leBytes 2 crc.toNat) = crc.toNat := by
    rw [ofLE_leBytes]; exact Nat.mod_eq_of_lt crc.isLt
  have e : frameBytes ⟨t, l, body, crc⟩ =
      t :: BitVec.ofNat 8 l.toNat :: BitVec.ofNat 8 (l.toNat / 256) :: (body ++ leBytes 2 crc.toNat) := rfl
  have hl' : ofLE [BitVec.ofNat 8 l.toNat, BitVec.ofNat 8 (l.toNat / 256)] = l.toNat := hl
  rw [e]
  have h : body.length = l.toNat := h
  unfold frameOfBytes?
  dsimp only
  rw [hl', if_pos (by rw [List.length_append, leBytes_length, h]), ← h, List.take_left, List.drop_left, hc, h,
    BitVec.ofNat_toNat, BitVec.ofNat_toNat, BitVec.setWidth_eq, BitVec.setWidth_eq]

end Sys2Proof.Machine
end

