-- ==== Sys2Proof/Laws/State.lean ====
section
/-! SUPPORT. One lemma for each component of State and each setter, so that no proof unfolds a record update. -/

namespace Sys2Proof.Machine

/-! ### withPos -/

@[simp] theorem State.withPos_pos (s : State) (x : PositionUnit) : (s.withPos x).pos = x := rfl
@[simp] theorem State.withPos_pulses (s : State) (x : PositionUnit) : (s.withPos x).pulses = s.pulses := rfl
@[simp] theorem State.withPos_lanes (s : State) (x : PositionUnit) : (s.withPos x).lanes = s.lanes := rfl
@[simp] theorem State.withPos_flawId (s : State) (x : PositionUnit) : (s.withPos x).flawId = s.flawId := rfl
@[simp] theorem State.withPos_map (s : State) (x : PositionUnit) : (s.withPos x).map = s.map := rfl
@[simp] theorem State.withPos_plan (s : State) (x : PositionUnit) : (s.withPos x).plan = s.plan := rfl
@[simp] theorem State.withPos_cutter (s : State) (x : PositionUnit) : (s.withPos x).cutter = s.cutter := rfl
@[simp] theorem State.withPos_divert (s : State) (x : PositionUnit) : (s.withPos x).divert = s.divert := rfl
@[simp] theorem State.withPos_grader (s : State) (x : PositionUnit) : (s.withPos x).grader = s.grader := rfl
@[simp] theorem State.withPos_outputs (s : State) (x : PositionUnit) : (s.withPos x).outputs = s.outputs := rfl
@[simp] theorem State.withPos_store (s : State) (x : PositionUnit) : (s.withPos x).store = s.store := rfl
@[simp] theorem State.withPos_cond (s : State) (x : PositionUnit) : (s.withPos x).cond = s.cond := rfl
@[simp] theorem State.withPos_report (s : State) (x : PositionUnit) : (s.withPos x).report = s.report := rfl
@[simp] theorem State.withPos_trunk (s : State) (x : PositionUnit) : (s.withPos x).trunk = s.trunk := rfl
@[simp] theorem State.withPos_msTime (s : State) (x : PositionUnit) : (s.withPos x).msTime = s.msTime := rfl
@[simp] theorem State.withPos_pending (s : State) (x : PositionUnit) : (s.withPos x).pending = s.pending := rfl
@[simp] theorem State.withPos_lane (s : State) (x : PositionUnit) (i : LaneId) : (s.withPos x).lane i = s.lane i := rfl
@[simp] theorem State.withPos_rx (s : State) (x : PositionUnit) (i : LaneId) : (s.withPos x).rx i = s.rx i := rfl

/-! ### withPulses -/

@[simp] theorem State.withPulses_pos (s : State) (x : Pulses) : (s.withPulses x).pos = s.pos := rfl
@[simp] theorem State.withPulses_pulses (s : State) (x : Pulses) : (s.withPulses x).pulses = x := rfl
@[simp] theorem State.withPulses_lanes (s : State) (x : Pulses) : (s.withPulses x).lanes = s.lanes := rfl
@[simp] theorem State.withPulses_flawId (s : State) (x : Pulses) : (s.withPulses x).flawId = s.flawId := rfl
@[simp] theorem State.withPulses_map (s : State) (x : Pulses) : (s.withPulses x).map = s.map := rfl
@[simp] theorem State.withPulses_plan (s : State) (x : Pulses) : (s.withPulses x).plan = s.plan := rfl
@[simp] theorem State.withPulses_cutter (s : State) (x : Pulses) : (s.withPulses x).cutter = s.cutter := rfl
@[simp] theorem State.withPulses_divert (s : State) (x : Pulses) : (s.withPulses x).divert = s.divert := rfl
@[simp] theorem State.withPulses_grader (s : State) (x : Pulses) : (s.withPulses x).grader = s.grader := rfl
@[simp] theorem State.withPulses_outputs (s : State) (x : Pulses) : (s.withPulses x).outputs = s.outputs := rfl
@[simp] theorem State.withPulses_store (s : State) (x : Pulses) : (s.withPulses x).store = s.store := rfl
@[simp] theorem State.withPulses_cond (s : State) (x : Pulses) : (s.withPulses x).cond = s.cond := rfl
@[simp] theorem State.withPulses_report (s : State) (x : Pulses) : (s.withPulses x).report = s.report := rfl
@[simp] theorem State.withPulses_trunk (s : State) (x : Pulses) : (s.withPulses x).trunk = s.trunk := rfl
@[simp] theorem State.withPulses_msTime (s : State) (x : Pulses) : (s.withPulses x).msTime = s.msTime := rfl
@[simp] theorem State.withPulses_pending (s : State) (x : Pulses) : (s.withPulses x).pending = s.pending := rfl
@[simp] theorem State.withPulses_lane (s : State) (x : Pulses) (i : LaneId) : (s.withPulses x).lane i = s.lane i := rfl
@[simp] theorem State.withPulses_rx (s : State) (x : Pulses) (i : LaneId) : (s.withPulses x).rx i = s.rx i := rfl

/-! ### withLanes -/

@[simp] theorem State.withLanes_pos (s : State) (x : PerLane Lane) : (s.withLanes x).pos = s.pos := rfl
@[simp] theorem State.withLanes_pulses (s : State) (x : PerLane Lane) : (s.withLanes x).pulses = s.pulses := rfl
@[simp] theorem State.withLanes_lanes (s : State) (x : PerLane Lane) : (s.withLanes x).lanes = x := rfl
@[simp] theorem State.withLanes_flawId (s : State) (x : PerLane Lane) : (s.withLanes x).flawId = s.flawId := rfl
@[simp] theorem State.withLanes_map (s : State) (x : PerLane Lane) : (s.withLanes x).map = s.map := rfl
@[simp] theorem State.withLanes_plan (s : State) (x : PerLane Lane) : (s.withLanes x).plan = s.plan := rfl
@[simp] theorem State.withLanes_cutter (s : State) (x : PerLane Lane) : (s.withLanes x).cutter = s.cutter := rfl
@[simp] theorem State.withLanes_divert (s : State) (x : PerLane Lane) : (s.withLanes x).divert = s.divert := rfl
@[simp] theorem State.withLanes_grader (s : State) (x : PerLane Lane) : (s.withLanes x).grader = s.grader := rfl
@[simp] theorem State.withLanes_outputs (s : State) (x : PerLane Lane) : (s.withLanes x).outputs = s.outputs := rfl
@[simp] theorem State.withLanes_store (s : State) (x : PerLane Lane) : (s.withLanes x).store = s.store := rfl
@[simp] theorem State.withLanes_cond (s : State) (x : PerLane Lane) : (s.withLanes x).cond = s.cond := rfl
@[simp] theorem State.withLanes_report (s : State) (x : PerLane Lane) : (s.withLanes x).report = s.report := rfl
@[simp] theorem State.withLanes_trunk (s : State) (x : PerLane Lane) : (s.withLanes x).trunk = s.trunk := rfl
@[simp] theorem State.withLanes_msTime (s : State) (x : PerLane Lane) : (s.withLanes x).msTime = s.msTime := rfl
@[simp] theorem State.withLanes_pending (s : State) (x : PerLane Lane) : (s.withLanes x).pending = s.pending := rfl
@[simp] theorem State.withLanes_lane (s : State) (x : PerLane Lane) (i : LaneId) : (s.withLanes x).lane i = x.get i := rfl
@[simp] theorem State.withLanes_rx (s : State) (x : PerLane Lane) (i : LaneId) : (s.withLanes x).rx i = (x.get i).rx := rfl

/-! ### withFlawId -/

@[simp] theorem State.withFlawId_pos (s : State) (x : Nat) : (s.withFlawId x).pos = s.pos := rfl
@[simp] theorem State.withFlawId_pulses (s : State) (x : Nat) : (s.withFlawId x).pulses = s.pulses := rfl
@[simp] theorem State.withFlawId_lanes (s : State) (x : Nat) : (s.withFlawId x).lanes = s.lanes := rfl
@[simp] theorem State.withFlawId_flawId (s : State) (x : Nat) : (s.withFlawId x).flawId = x := rfl
@[simp] theorem State.withFlawId_map (s : State) (x : Nat) : (s.withFlawId x).map = s.map := rfl
@[simp] theorem State.withFlawId_plan (s : State) (x : Nat) : (s.withFlawId x).plan = s.plan := rfl
@[simp] theorem State.withFlawId_cutter (s : State) (x : Nat) : (s.withFlawId x).cutter = s.cutter := rfl
@[simp] theorem State.withFlawId_divert (s : State) (x : Nat) : (s.withFlawId x).divert = s.divert := rfl
@[simp] theorem State.withFlawId_grader (s : State) (x : Nat) : (s.withFlawId x).grader = s.grader := rfl
@[simp] theorem State.withFlawId_outputs (s : State) (x : Nat) : (s.withFlawId x).outputs = s.outputs := rfl
@[simp] theorem State.withFlawId_store (s : State) (x : Nat) : (s.withFlawId x).store = s.store := rfl
@[simp] theorem State.withFlawId_cond (s : State) (x : Nat) : (s.withFlawId x).cond = s.cond := rfl
@[simp] theorem State.withFlawId_report (s : State) (x : Nat) : (s.withFlawId x).report = s.report := rfl
@[simp] theorem State.withFlawId_trunk (s : State) (x : Nat) : (s.withFlawId x).trunk = s.trunk := rfl
@[simp] theorem State.withFlawId_msTime (s : State) (x : Nat) : (s.withFlawId x).msTime = s.msTime := rfl
@[simp] theorem State.withFlawId_pending (s : State) (x : Nat) : (s.withFlawId x).pending = s.pending := rfl
@[simp] theorem State.withFlawId_lane (s : State) (x : Nat) (i : LaneId) : (s.withFlawId x).lane i = s.lane i := rfl
@[simp] theorem State.withFlawId_rx (s : State) (x : Nat) (i : LaneId) : (s.withFlawId x).rx i = s.rx i := rfl

/-! ### withMap -/

@[simp] theorem State.withMap_pos (s : State) (x : FlawMap) : (s.withMap x).pos = s.pos := rfl
@[simp] theorem State.withMap_pulses (s : State) (x : FlawMap) : (s.withMap x).pulses = s.pulses := rfl
@[simp] theorem State.withMap_lanes (s : State) (x : FlawMap) : (s.withMap x).lanes = s.lanes := rfl
@[simp] theorem State.withMap_flawId (s : State) (x : FlawMap) : (s.withMap x).flawId = s.flawId := rfl
@[simp] theorem State.withMap_map (s : State) (x : FlawMap) : (s.withMap x).map = x := rfl
@[simp] theorem State.withMap_plan (s : State) (x : FlawMap) : (s.withMap x).plan = s.plan := rfl
@[simp] theorem State.withMap_cutter (s : State) (x : FlawMap) : (s.withMap x).cutter = s.cutter := rfl
@[simp] theorem State.withMap_divert (s : State) (x : FlawMap) : (s.withMap x).divert = s.divert := rfl
@[simp] theorem State.withMap_grader (s : State) (x : FlawMap) : (s.withMap x).grader = s.grader := rfl
@[simp] theorem State.withMap_outputs (s : State) (x : FlawMap) : (s.withMap x).outputs = s.outputs := rfl
@[simp] theorem State.withMap_store (s : State) (x : FlawMap) : (s.withMap x).store = s.store := rfl
@[simp] theorem State.withMap_cond (s : State) (x : FlawMap) : (s.withMap x).cond = s.cond := rfl
@[simp] theorem State.withMap_report (s : State) (x : FlawMap) : (s.withMap x).report = s.report := rfl
@[simp] theorem State.withMap_trunk (s : State) (x : FlawMap) : (s.withMap x).trunk = s.trunk := rfl
@[simp] theorem State.withMap_msTime (s : State) (x : FlawMap) : (s.withMap x).msTime = s.msTime := rfl
@[simp] theorem State.withMap_pending (s : State) (x : FlawMap) : (s.withMap x).pending = s.pending := rfl
@[simp] theorem State.withMap_lane (s : State) (x : FlawMap) (i : LaneId) : (s.withMap x).lane i = s.lane i := rfl
@[simp] theorem State.withMap_rx (s : State) (x : FlawMap) (i : LaneId) : (s.withMap x).rx i = s.rx i := rfl

/-! ### withPlan -/

@[simp] theorem State.withPlan_pos (s : State) (x : Planner) : (s.withPlan x).pos = s.pos := rfl
@[simp] theorem State.withPlan_pulses (s : State) (x : Planner) : (s.withPlan x).pulses = s.pulses := rfl
@[simp] theorem State.withPlan_lanes (s : State) (x : Planner) : (s.withPlan x).lanes = s.lanes := rfl
@[simp] theorem State.withPlan_flawId (s : State) (x : Planner) : (s.withPlan x).flawId = s.flawId := rfl
@[simp] theorem State.withPlan_map (s : State) (x : Planner) : (s.withPlan x).map = s.map := rfl
@[simp] theorem State.withPlan_plan (s : State) (x : Planner) : (s.withPlan x).plan = x := rfl
@[simp] theorem State.withPlan_cutter (s : State) (x : Planner) : (s.withPlan x).cutter = s.cutter := rfl
@[simp] theorem State.withPlan_divert (s : State) (x : Planner) : (s.withPlan x).divert = s.divert := rfl
@[simp] theorem State.withPlan_grader (s : State) (x : Planner) : (s.withPlan x).grader = s.grader := rfl
@[simp] theorem State.withPlan_outputs (s : State) (x : Planner) : (s.withPlan x).outputs = s.outputs := rfl
@[simp] theorem State.withPlan_store (s : State) (x : Planner) : (s.withPlan x).store = s.store := rfl
@[simp] theorem State.withPlan_cond (s : State) (x : Planner) : (s.withPlan x).cond = s.cond := rfl
@[simp] theorem State.withPlan_report (s : State) (x : Planner) : (s.withPlan x).report = s.report := rfl
@[simp] theorem State.withPlan_trunk (s : State) (x : Planner) : (s.withPlan x).trunk = s.trunk := rfl
@[simp] theorem State.withPlan_msTime (s : State) (x : Planner) : (s.withPlan x).msTime = s.msTime := rfl
@[simp] theorem State.withPlan_pending (s : State) (x : Planner) : (s.withPlan x).pending = s.pending := rfl
@[simp] theorem State.withPlan_lane (s : State) (x : Planner) (i : LaneId) : (s.withPlan x).lane i = s.lane i := rfl
@[simp] theorem State.withPlan_rx (s : State) (x : Planner) (i : LaneId) : (s.withPlan x).rx i = s.rx i := rfl

/-! ### withCutter -/

@[simp] theorem State.withCutter_pos (s : State) (x : Cutter) : (s.withCutter x).pos = s.pos := rfl
@[simp] theorem State.withCutter_pulses (s : State) (x : Cutter) : (s.withCutter x).pulses = s.pulses := rfl
@[simp] theorem State.withCutter_lanes (s : State) (x : Cutter) : (s.withCutter x).lanes = s.lanes := rfl
@[simp] theorem State.withCutter_flawId (s : State) (x : Cutter) : (s.withCutter x).flawId = s.flawId := rfl
@[simp] theorem State.withCutter_map (s : State) (x : Cutter) : (s.withCutter x).map = s.map := rfl
@[simp] theorem State.withCutter_plan (s : State) (x : Cutter) : (s.withCutter x).plan = s.plan := rfl
@[simp] theorem State.withCutter_cutter (s : State) (x : Cutter) : (s.withCutter x).cutter = x := rfl
@[simp] theorem State.withCutter_divert (s : State) (x : Cutter) : (s.withCutter x).divert = s.divert := rfl
@[simp] theorem State.withCutter_grader (s : State) (x : Cutter) : (s.withCutter x).grader = s.grader := rfl
@[simp] theorem State.withCutter_outputs (s : State) (x : Cutter) : (s.withCutter x).outputs = s.outputs := rfl
@[simp] theorem State.withCutter_store (s : State) (x : Cutter) : (s.withCutter x).store = s.store := rfl
@[simp] theorem State.withCutter_cond (s : State) (x : Cutter) : (s.withCutter x).cond = s.cond := rfl
@[simp] theorem State.withCutter_report (s : State) (x : Cutter) : (s.withCutter x).report = s.report := rfl
@[simp] theorem State.withCutter_trunk (s : State) (x : Cutter) : (s.withCutter x).trunk = s.trunk := rfl
@[simp] theorem State.withCutter_msTime (s : State) (x : Cutter) : (s.withCutter x).msTime = s.msTime := rfl
@[simp] theorem State.withCutter_pending (s : State) (x : Cutter) : (s.withCutter x).pending = s.pending := rfl
@[simp] theorem State.withCutter_lane (s : State) (x : Cutter) (i : LaneId) : (s.withCutter x).lane i = s.lane i := rfl
@[simp] theorem State.withCutter_rx (s : State) (x : Cutter) (i : LaneId) : (s.withCutter x).rx i = s.rx i := rfl

/-! ### withDivert -/

@[simp] theorem State.withDivert_pos (s : State) (x : Divert) : (s.withDivert x).pos = s.pos := rfl
@[simp] theorem State.withDivert_pulses (s : State) (x : Divert) : (s.withDivert x).pulses = s.pulses := rfl
@[simp] theorem State.withDivert_lanes (s : State) (x : Divert) : (s.withDivert x).lanes = s.lanes := rfl
@[simp] theorem State.withDivert_flawId (s : State) (x : Divert) : (s.withDivert x).flawId = s.flawId := rfl
@[simp] theorem State.withDivert_map (s : State) (x : Divert) : (s.withDivert x).map = s.map := rfl
@[simp] theorem State.withDivert_plan (s : State) (x : Divert) : (s.withDivert x).plan = s.plan := rfl
@[simp] theorem State.withDivert_cutter (s : State) (x : Divert) : (s.withDivert x).cutter = s.cutter := rfl
@[simp] theorem State.withDivert_divert (s : State) (x : Divert) : (s.withDivert x).divert = x := rfl
@[simp] theorem State.withDivert_grader (s : State) (x : Divert) : (s.withDivert x).grader = s.grader := rfl
@[simp] theorem State.withDivert_outputs (s : State) (x : Divert) : (s.withDivert x).outputs = s.outputs := rfl
@[simp] theorem State.withDivert_store (s : State) (x : Divert) : (s.withDivert x).store = s.store := rfl
@[simp] theorem State.withDivert_cond (s : State) (x : Divert) : (s.withDivert x).cond = s.cond := rfl
@[simp] theorem State.withDivert_report (s : State) (x : Divert) : (s.withDivert x).report = s.report := rfl
@[simp] theorem State.withDivert_trunk (s : State) (x : Divert) : (s.withDivert x).trunk = s.trunk := rfl
@[simp] theorem State.withDivert_msTime (s : State) (x : Divert) : (s.withDivert x).msTime = s.msTime := rfl
@[simp] theorem State.withDivert_pending (s : State) (x : Divert) : (s.withDivert x).pending = s.pending := rfl
@[simp] theorem State.withDivert_lane (s : State) (x : Divert) (i : LaneId) : (s.withDivert x).lane i = s.lane i := rfl
@[simp] theorem State.withDivert_rx (s : State) (x : Divert) (i : LaneId) : (s.withDivert x).rx i = s.rx i := rfl

/-! ### withGrader -/

@[simp] theorem State.withGrader_pos (s : State) (x : Grader) : (s.withGrader x).pos = s.pos := rfl
@[simp] theorem State.withGrader_pulses (s : State) (x : Grader) : (s.withGrader x).pulses = s.pulses := rfl
@[simp] theorem State.withGrader_lanes (s : State) (x : Grader) : (s.withGrader x).lanes = s.lanes := rfl
@[simp] theorem State.withGrader_flawId (s : State) (x : Grader) : (s.withGrader x).flawId = s.flawId := rfl
@[simp] theorem State.withGrader_map (s : State) (x : Grader) : (s.withGrader x).map = s.map := rfl
@[simp] theorem State.withGrader_plan (s : State) (x : Grader) : (s.withGrader x).plan = s.plan := rfl
@[simp] theorem State.withGrader_cutter (s : State) (x : Grader) : (s.withGrader x).cutter = s.cutter := rfl
@[simp] theorem State.withGrader_divert (s : State) (x : Grader) : (s.withGrader x).divert = s.divert := rfl
@[simp] theorem State.withGrader_grader (s : State) (x : Grader) : (s.withGrader x).grader = x := rfl
@[simp] theorem State.withGrader_outputs (s : State) (x : Grader) : (s.withGrader x).outputs = s.outputs := rfl
@[simp] theorem State.withGrader_store (s : State) (x : Grader) : (s.withGrader x).store = s.store := rfl
@[simp] theorem State.withGrader_cond (s : State) (x : Grader) : (s.withGrader x).cond = s.cond := rfl
@[simp] theorem State.withGrader_report (s : State) (x : Grader) : (s.withGrader x).report = s.report := rfl
@[simp] theorem State.withGrader_trunk (s : State) (x : Grader) : (s.withGrader x).trunk = s.trunk := rfl
@[simp] theorem State.withGrader_msTime (s : State) (x : Grader) : (s.withGrader x).msTime = s.msTime := rfl
@[simp] theorem State.withGrader_pending (s : State) (x : Grader) : (s.withGrader x).pending = s.pending := rfl
@[simp] theorem State.withGrader_lane (s : State) (x : Grader) (i : LaneId) : (s.withGrader x).lane i = s.lane i := rfl
@[simp] theorem State.withGrader_rx (s : State) (x : Grader) (i : LaneId) : (s.withGrader x).rx i = s.rx i := rfl

/-! ### withOutputs -/

@[simp] theorem State.withOutputs_pos (s : State) (x : Outputs) : (s.withOutputs x).pos = s.pos := rfl
@[simp] theorem State.withOutputs_pulses (s : State) (x : Outputs) : (s.withOutputs x).pulses = s.pulses := rfl
@[simp] theorem State.withOutputs_lanes (s : State) (x : Outputs) : (s.withOutputs x).lanes = s.lanes := rfl
@[simp] theorem State.withOutputs_flawId (s : State) (x : Outputs) : (s.withOutputs x).flawId = s.flawId := rfl
@[simp] theorem State.withOutputs_map (s : State) (x : Outputs) : (s.withOutputs x).map = s.map := rfl
@[simp] theorem State.withOutputs_plan (s : State) (x : Outputs) : (s.withOutputs x).plan = s.plan := rfl
@[simp] theorem State.withOutputs_cutter (s : State) (x : Outputs) : (s.withOutputs x).cutter = s.cutter := rfl
@[simp] theorem State.withOutputs_divert (s : State) (x : Outputs) : (s.withOutputs x).divert = s.divert := rfl
@[simp] theorem State.withOutputs_grader (s : State) (x : Outputs) : (s.withOutputs x).grader = s.grader := rfl
@[simp] theorem State.withOutputs_outputs (s : State) (x : Outputs) : (s.withOutputs x).outputs = x := rfl
@[simp] theorem State.withOutputs_store (s : State) (x : Outputs) : (s.withOutputs x).store = s.store := rfl
@[simp] theorem State.withOutputs_cond (s : State) (x : Outputs) : (s.withOutputs x).cond = s.cond := rfl
@[simp] theorem State.withOutputs_report (s : State) (x : Outputs) : (s.withOutputs x).report = s.report := rfl
@[simp] theorem State.withOutputs_trunk (s : State) (x : Outputs) : (s.withOutputs x).trunk = s.trunk := rfl
@[simp] theorem State.withOutputs_msTime (s : State) (x : Outputs) : (s.withOutputs x).msTime = s.msTime := rfl
@[simp] theorem State.withOutputs_pending (s : State) (x : Outputs) : (s.withOutputs x).pending = s.pending := rfl
@[simp] theorem State.withOutputs_lane (s : State) (x : Outputs) (i : LaneId) : (s.withOutputs x).lane i = s.lane i := rfl
@[simp] theorem State.withOutputs_rx (s : State) (x : Outputs) (i : LaneId) : (s.withOutputs x).rx i = s.rx i := rfl

/-! ### withStore -/

@[simp] theorem State.withStore_pos (s : State) (x : TableStore) : (s.withStore x).pos = s.pos := rfl
@[simp] theorem State.withStore_pulses (s : State) (x : TableStore) : (s.withStore x).pulses = s.pulses := rfl
@[simp] theorem State.withStore_lanes (s : State) (x : TableStore) : (s.withStore x).lanes = s.lanes := rfl
@[simp] theorem State.withStore_flawId (s : State) (x : TableStore) : (s.withStore x).flawId = s.flawId := rfl
@[simp] theorem State.withStore_map (s : State) (x : TableStore) : (s.withStore x).map = s.map := rfl
@[simp] theorem State.withStore_plan (s : State) (x : TableStore) : (s.withStore x).plan = s.plan := rfl
@[simp] theorem State.withStore_cutter (s : State) (x : TableStore) : (s.withStore x).cutter = s.cutter := rfl
@[simp] theorem State.withStore_divert (s : State) (x : TableStore) : (s.withStore x).divert = s.divert := rfl
@[simp] theorem State.withStore_grader (s : State) (x : TableStore) : (s.withStore x).grader = s.grader := rfl
@[simp] theorem State.withStore_outputs (s : State) (x : TableStore) : (s.withStore x).outputs = s.outputs := rfl
@[simp] theorem State.withStore_store (s : State) (x : TableStore) : (s.withStore x).store = x := rfl
@[simp] theorem State.withStore_cond (s : State) (x : TableStore) : (s.withStore x).cond = s.cond := rfl
@[simp] theorem State.withStore_report (s : State) (x : TableStore) : (s.withStore x).report = s.report := rfl
@[simp] theorem State.withStore_trunk (s : State) (x : TableStore) : (s.withStore x).trunk = s.trunk := rfl
@[simp] theorem State.withStore_msTime (s : State) (x : TableStore) : (s.withStore x).msTime = s.msTime := rfl
@[simp] theorem State.withStore_pending (s : State) (x : TableStore) : (s.withStore x).pending = s.pending := rfl
@[simp] theorem State.withStore_lane (s : State) (x : TableStore) (i : LaneId) : (s.withStore x).lane i = s.lane i := rfl
@[simp] theorem State.withStore_rx (s : State) (x : TableStore) (i : LaneId) : (s.withStore x).rx i = s.rx i := rfl

/-! ### withCond -/

@[simp] theorem State.withCond_pos (s : State) (x : ConditionUnit) : (s.withCond x).pos = s.pos := rfl
@[simp] theorem State.withCond_pulses (s : State) (x : ConditionUnit) : (s.withCond x).pulses = s.pulses := rfl
@[simp] theorem State.withCond_lanes (s : State) (x : ConditionUnit) : (s.withCond x).lanes = s.lanes := rfl
@[simp] theorem State.withCond_flawId (s : State) (x : ConditionUnit) : (s.withCond x).flawId = s.flawId := rfl
@[simp] theorem State.withCond_map (s : State) (x : ConditionUnit) : (s.withCond x).map = s.map := rfl
@[simp] theorem State.withCond_plan (s : State) (x : ConditionUnit) : (s.withCond x).plan = s.plan := rfl
@[simp] theorem State.withCond_cutter (s : State) (x : ConditionUnit) : (s.withCond x).cutter = s.cutter := rfl
@[simp] theorem State.withCond_divert (s : State) (x : ConditionUnit) : (s.withCond x).divert = s.divert := rfl
@[simp] theorem State.withCond_grader (s : State) (x : ConditionUnit) : (s.withCond x).grader = s.grader := rfl
@[simp] theorem State.withCond_outputs (s : State) (x : ConditionUnit) : (s.withCond x).outputs = s.outputs := rfl
@[simp] theorem State.withCond_store (s : State) (x : ConditionUnit) : (s.withCond x).store = s.store := rfl
@[simp] theorem State.withCond_cond (s : State) (x : ConditionUnit) : (s.withCond x).cond = x := rfl
@[simp] theorem State.withCond_report (s : State) (x : ConditionUnit) : (s.withCond x).report = s.report := rfl
@[simp] theorem State.withCond_trunk (s : State) (x : ConditionUnit) : (s.withCond x).trunk = s.trunk := rfl
@[simp] theorem State.withCond_msTime (s : State) (x : ConditionUnit) : (s.withCond x).msTime = s.msTime := rfl
@[simp] theorem State.withCond_pending (s : State) (x : ConditionUnit) : (s.withCond x).pending = s.pending := rfl
@[simp] theorem State.withCond_lane (s : State) (x : ConditionUnit) (i : LaneId) : (s.withCond x).lane i = s.lane i := rfl
@[simp] theorem State.withCond_rx (s : State) (x : ConditionUnit) (i : LaneId) : (s.withCond x).rx i = s.rx i := rfl

/-! ### withReport -/

@[simp] theorem State.withReport_pos (s : State) (x : ReportUnit) : (s.withReport x).pos = s.pos := rfl
@[simp] theorem State.withReport_pulses (s : State) (x : ReportUnit) : (s.withReport x).pulses = s.pulses := rfl
@[simp] theorem State.withReport_lanes (s : State) (x : ReportUnit) : (s.withReport x).lanes = s.lanes := rfl
@[simp] theorem State.withReport_flawId (s : State) (x : ReportUnit) : (s.withReport x).flawId = s.flawId := rfl
@[simp] theorem State.withReport_map (s : State) (x : ReportUnit) : (s.withReport x).map = s.map := rfl
@[simp] theorem State.withReport_plan (s : State) (x : ReportUnit) : (s.withReport x).plan = s.plan := rfl
@[simp] theorem State.withReport_cutter (s : State) (x : ReportUnit) : (s.withReport x).cutter = s.cutter := rfl
@[simp] theorem State.withReport_divert (s : State) (x : ReportUnit) : (s.withReport x).divert = s.divert := rfl
@[simp] theorem State.withReport_grader (s : State) (x : ReportUnit) : (s.withReport x).grader = s.grader := rfl
@[simp] theorem State.withReport_outputs (s : State) (x : ReportUnit) : (s.withReport x).outputs = s.outputs := rfl
@[simp] theorem State.withReport_store (s : State) (x : ReportUnit) : (s.withReport x).store = s.store := rfl
@[simp] theorem State.withReport_cond (s : State) (x : ReportUnit) : (s.withReport x).cond = s.cond := rfl
@[simp] theorem State.withReport_report (s : State) (x : ReportUnit) : (s.withReport x).report = x := rfl
@[simp] theorem State.withReport_trunk (s : State) (x : ReportUnit) : (s.withReport x).trunk = s.trunk := rfl
@[simp] theorem State.withReport_msTime (s : State) (x : ReportUnit) : (s.withReport x).msTime = s.msTime := rfl
@[simp] theorem State.withReport_pending (s : State) (x : ReportUnit) : (s.withReport x).pending = s.pending := rfl
@[simp] theorem State.withReport_lane (s : State) (x : ReportUnit) (i : LaneId) : (s.withReport x).lane i = s.lane i := rfl
@[simp] theorem State.withReport_rx (s : State) (x : ReportUnit) (i : LaneId) : (s.withReport x).rx i = s.rx i := rfl

/-! ### withTrunk -/

@[simp] theorem State.withTrunk_pos (s : State) (x : Trunk) : (s.withTrunk x).pos = s.pos := rfl
@[simp] theorem State.withTrunk_pulses (s : State) (x : Trunk) : (s.withTrunk x).pulses = s.pulses := rfl
@[simp] theorem State.withTrunk_lanes (s : State) (x : Trunk) : (s.withTrunk x).lanes = s.lanes := rfl
@[simp] theorem State.withTrunk_flawId (s : State) (x : Trunk) : (s.withTrunk x).flawId = s.flawId := rfl
@[simp] theorem State.withTrunk_map (s : State) (x : Trunk) : (s.withTrunk x).map = s.map := rfl
@[simp] theorem State.withTrunk_plan (s : State) (x : Trunk) : (s.withTrunk x).plan = s.plan := rfl
@[simp] theorem State.withTrunk_cutter (s : State) (x : Trunk) : (s.withTrunk x).cutter = s.cutter := rfl
@[simp] theorem State.withTrunk_divert (s : State) (x : Trunk) : (s.withTrunk x).divert = s.divert := rfl
@[simp] theorem State.withTrunk_grader (s : State) (x : Trunk) : (s.withTrunk x).grader = s.grader := rfl
@[simp] theorem State.withTrunk_outputs (s : State) (x : Trunk) : (s.withTrunk x).outputs = s.outputs := rfl
@[simp] theorem State.withTrunk_store (s : State) (x : Trunk) : (s.withTrunk x).store = s.store := rfl
@[simp] theorem State.withTrunk_cond (s : State) (x : Trunk) : (s.withTrunk x).cond = s.cond := rfl
@[simp] theorem State.withTrunk_report (s : State) (x : Trunk) : (s.withTrunk x).report = s.report := rfl
@[simp] theorem State.withTrunk_trunk (s : State) (x : Trunk) : (s.withTrunk x).trunk = x := rfl
@[simp] theorem State.withTrunk_msTime (s : State) (x : Trunk) : (s.withTrunk x).msTime = s.msTime := rfl
@[simp] theorem State.withTrunk_pending (s : State) (x : Trunk) : (s.withTrunk x).pending = s.pending := rfl
@[simp] theorem State.withTrunk_lane (s : State) (x : Trunk) (i : LaneId) : (s.withTrunk x).lane i = s.lane i := rfl
@[simp] theorem State.withTrunk_rx (s : State) (x : Trunk) (i : LaneId) : (s.withTrunk x).rx i = s.rx i := rfl

/-! ### withMsTime -/

@[simp] theorem State.withMsTime_pos (s : State) (x : Nat) : (s.withMsTime x).pos = s.pos := rfl
@[simp] theorem State.withMsTime_pulses (s : State) (x : Nat) : (s.withMsTime x).pulses = s.pulses := rfl
@[simp] theorem State.withMsTime_lanes (s : State) (x : Nat) : (s.withMsTime x).lanes = s.lanes := rfl
@[simp] theorem State.withMsTime_flawId (s : State) (x : Nat) : (s.withMsTime x).flawId = s.flawId := rfl
@[simp] theorem State.withMsTime_map (s : State) (x : Nat) : (s.withMsTime x).map = s.map := rfl
@[simp] theorem State.withMsTime_plan (s : State) (x : Nat) : (s.withMsTime x).plan = s.plan := rfl
@[simp] theorem State.withMsTime_cutter (s : State) (x : Nat) : (s.withMsTime x).cutter = s.cutter := rfl
@[simp] theorem State.withMsTime_divert (s : State) (x : Nat) : (s.withMsTime x).divert = s.divert := rfl
@[simp] theorem State.withMsTime_grader (s : State) (x : Nat) : (s.withMsTime x).grader = s.grader := rfl
@[simp] theorem State.withMsTime_outputs (s : State) (x : Nat) : (s.withMsTime x).outputs = s.outputs := rfl
@[simp] theorem State.withMsTime_store (s : State) (x : Nat) : (s.withMsTime x).store = s.store := rfl
@[simp] theorem State.withMsTime_cond (s : State) (x : Nat) : (s.withMsTime x).cond = s.cond := rfl
@[simp] theorem State.withMsTime_report (s : State) (x : Nat) : (s.withMsTime x).report = s.report := rfl
@[simp] theorem State.withMsTime_trunk (s : State) (x : Nat) : (s.withMsTime x).trunk = s.trunk := rfl
@[simp] theorem State.withMsTime_msTime (s : State) (x : Nat) : (s.withMsTime x).msTime = x := rfl
@[simp] theorem State.withMsTime_pending (s : State) (x : Nat) : (s.withMsTime x).pending = s.pending := rfl
@[simp] theorem State.withMsTime_lane (s : State) (x : Nat) (i : LaneId) : (s.withMsTime x).lane i = s.lane i := rfl
@[simp] theorem State.withMsTime_rx (s : State) (x : Nat) (i : LaneId) : (s.withMsTime x).rx i = s.rx i := rfl

/-! ### withPending -/

@[simp] theorem State.withPending_pos (s : State) (x : List Instr) : (s.withPending x).pos = s.pos := rfl
@[simp] theorem State.withPending_pulses (s : State) (x : List Instr) : (s.withPending x).pulses = s.pulses := rfl
@[simp] theorem State.withPending_lanes (s : State) (x : List Instr) : (s.withPending x).lanes = s.lanes := rfl
@[simp] theorem State.withPending_flawId (s : State) (x : List Instr) : (s.withPending x).flawId = s.flawId := rfl
@[simp] theorem State.withPending_map (s : State) (x : List Instr) : (s.withPending x).map = s.map := rfl
@[simp] theorem State.withPending_plan (s : State) (x : List Instr) : (s.withPending x).plan = s.plan := rfl
@[simp] theorem State.withPending_cutter (s : State) (x : List Instr) : (s.withPending x).cutter = s.cutter := rfl
@[simp] theorem State.withPending_divert (s : State) (x : List Instr) : (s.withPending x).divert = s.divert := rfl
@[simp] theorem State.withPending_grader (s : State) (x : List Instr) : (s.withPending x).grader = s.grader := rfl
@[simp] theorem State.withPending_outputs (s : State) (x : List Instr) : (s.withPending x).outputs = s.outputs := rfl
@[simp] theorem State.withPending_store (s : State) (x : List Instr) : (s.withPending x).store = s.store := rfl
@[simp] theorem State.withPending_cond (s : State) (x : List Instr) : (s.withPending x).cond = s.cond := rfl
@[simp] theorem State.withPending_report (s : State) (x : List Instr) : (s.withPending x).report = s.report := rfl
@[simp] theorem State.withPending_trunk (s : State) (x : List Instr) : (s.withPending x).trunk = s.trunk := rfl
@[simp] theorem State.withPending_msTime (s : State) (x : List Instr) : (s.withPending x).msTime = s.msTime := rfl
@[simp] theorem State.withPending_pending (s : State) (x : List Instr) : (s.withPending x).pending = x := rfl
@[simp] theorem State.withPending_lane (s : State) (x : List Instr) (i : LaneId) : (s.withPending x).lane i = s.lane i := rfl
@[simp] theorem State.withPending_rx (s : State) (x : List Instr) (i : LaneId) : (s.withPending x).rx i = s.rx i := rfl

end Sys2Proof.Machine
end

