-- ==== Sys2Proof/Laws/Lanes.lean ====
section
/-! SUPPORT. The four-lane record, and reading a lane after a change of one. -/

namespace Sys2Proof

@[simp] theorem PerLane.get_set_same {α : Type} (x : PerLane α) (i : LaneId) (v : α) : (x.set i v).get i = v := by
  fin_cases i <;> rfl

theorem PerLane.get_set_ne {α : Type} (x : PerLane α) {i j : LaneId} (v : α) (h : j ≠ i) :
    (x.set i v).get j = x.get j := by
  fin_cases i <;> fin_cases j <;> first | rfl | exact absurd rfl h

theorem PerLane.get_set {α : Type} (x : PerLane α) (i j : LaneId) (v : α) :
    (x.set i v).get j = if j = i then v else x.get j := by
  split
  · next h => rw [h, PerLane.get_set_same]
  · next h => exact PerLane.get_set_ne x v h

@[simp] theorem PerLane.get_map {α β : Type} (f : α → β) (x : PerLane α) (i : LaneId) :
    (x.map f).get i = f (x.get i) := by
  fin_cases i <;> rfl

@[simp] theorem PerLane.get_all {α : Type} (v : α) (i : LaneId) : (PerLane.all v).get i = v := by
  fin_cases i <;> rfl

theorem PerLane.ext_get {α : Type} {x y : PerLane α} (h : ∀ i, x.get i = y.get i) : x = y := by
  cases x; cases y
  have h0 := h 0; have h1 := h 1; have h2 := h 2; have h3 := h 3
  simp only [PerLane.get] at h0 h1 h2 h3
  simp_all

end Sys2Proof

namespace Sys2Proof.Machine

theorem State.setLane_lane (s : State) (i j : LaneId) (l : Lane) :
    (s.setLane i l).lane j = if j = i then l else s.lane j := PerLane.get_set s.lanes i j l

@[simp] theorem State.setLane_lane_same (s : State) (i : LaneId) (l : Lane) : (s.setLane i l).lane i = l :=
  PerLane.get_set_same s.lanes i l

theorem State.modRx_rx (s : State) (i j : LaneId) (f : Receiver → Receiver) :
    (s.modRx i f).rx j = if j = i then f (s.rx i) else s.rx j := by
  unfold State.modRx State.rx
  rw [State.setLane_lane]
  split <;> rfl

@[simp] theorem State.modRx_rx_same (s : State) (i : LaneId) (f : Receiver → Receiver) :
    (s.modRx i f).rx i = f (s.rx i) := by
  rw [State.modRx_rx, if_pos rfl]

@[simp] theorem State.modRx_tracker (s : State) (i j : LaneId) (f : Receiver → Receiver) :
    ((s.modRx i f).lane j).tracker = (s.lane j).tracker := by
  unfold State.modRx
  rw [State.setLane_lane]
  split
  · next h => rw [h]
  · rfl

@[simp] theorem State.modRx_profile (s : State) (i j : LaneId) (f : Receiver → Receiver) :
    ((s.modRx i f).lane j).profile = (s.lane j).profile := by
  unfold State.modRx
  rw [State.setLane_lane]
  split
  · next h => rw [h]
  · rfl

@[simp] theorem State.setTracker_rx (s : State) (i j : LaneId) (t : Tracker) : (s.setTracker i t).rx j = s.rx j := by
  unfold State.setTracker State.rx
  rw [State.setLane_lane]
  split
  · next h => rw [h]
  · rfl

@[simp] theorem State.setProfile_rx (s : State) (i j : LaneId) (p : List Column) : (s.setProfile i p).rx j = s.rx j := by
  unfold State.setProfile State.rx
  rw [State.setLane_lane]
  split
  · next h => rw [h]
  · rfl

end Sys2Proof.Machine
end

