-- ==== Sys2Proof/Laws/Setters.lean ====
section
/-! SUPPORT. What the lane setters and the counting operations leave alone. -/

namespace Sys2Proof.Machine

@[simp] theorem State.setLane_pos (s : State) (i : LaneId) (l : Lane) : (s.setLane i l).pos = s.pos := rfl
@[simp] theorem State.setLane_pulses (s : State) (i : LaneId) (l : Lane) : (s.setLane i l).pulses = s.pulses := rfl
@[simp] theorem State.setLane_flawId (s : State) (i : LaneId) (l : Lane) : (s.setLane i l).flawId = s.flawId := rfl
@[simp] theorem State.setLane_map (s : State) (i : LaneId) (l : Lane) : (s.setLane i l).map = s.map := rfl
@[simp] theorem State.setLane_plan (s : State) (i : LaneId) (l : Lane) : (s.setLane i l).plan = s.plan := rfl
@[simp] theorem State.setLane_cutter (s : State) (i : LaneId) (l : Lane) : (s.setLane i l).cutter = s.cutter := rfl
@[simp] theorem State.setLane_divert (s : State) (i : LaneId) (l : Lane) : (s.setLane i l).divert = s.divert := rfl
@[simp] theorem State.setLane_grader (s : State) (i : LaneId) (l : Lane) : (s.setLane i l).grader = s.grader := rfl
@[simp] theorem State.setLane_outputs (s : State) (i : LaneId) (l : Lane) : (s.setLane i l).outputs = s.outputs := rfl
@[simp] theorem State.setLane_store (s : State) (i : LaneId) (l : Lane) : (s.setLane i l).store = s.store := rfl
@[simp] theorem State.setLane_cond (s : State) (i : LaneId) (l : Lane) : (s.setLane i l).cond = s.cond := rfl
@[simp] theorem State.setLane_report (s : State) (i : LaneId) (l : Lane) : (s.setLane i l).report = s.report := rfl
@[simp] theorem State.setLane_trunk (s : State) (i : LaneId) (l : Lane) : (s.setLane i l).trunk = s.trunk := rfl
@[simp] theorem State.setLane_msTime (s : State) (i : LaneId) (l : Lane) : (s.setLane i l).msTime = s.msTime := rfl
@[simp] theorem State.setLane_pending (s : State) (i : LaneId) (l : Lane) : (s.setLane i l).pending = s.pending := rfl

@[simp] theorem State.modRx_pos (s : State) (i : LaneId) (f : Receiver → Receiver) : (s.modRx i f).pos = s.pos := rfl
@[simp] theorem State.modRx_pulses (s : State) (i : LaneId) (f : Receiver → Receiver) : (s.modRx i f).pulses = s.pulses := rfl
@[simp] theorem State.modRx_flawId (s : State) (i : LaneId) (f : Receiver → Receiver) : (s.modRx i f).flawId = s.flawId := rfl
@[simp] theorem State.modRx_map (s : State) (i : LaneId) (f : Receiver → Receiver) : (s.modRx i f).map = s.map := rfl
@[simp] theorem State.modRx_plan (s : State) (i : LaneId) (f : Receiver → Receiver) : (s.modRx i f).plan = s.plan := rfl
@[simp] theorem State.modRx_cutter (s : State) (i : LaneId) (f : Receiver → Receiver) : (s.modRx i f).cutter = s.cutter := rfl
@[simp] theorem State.modRx_divert (s : State) (i : LaneId) (f : Receiver → Receiver) : (s.modRx i f).divert = s.divert := rfl
@[simp] theorem State.modRx_grader (s : State) (i : LaneId) (f : Receiver → Receiver) : (s.modRx i f).grader = s.grader := rfl
@[simp] theorem State.modRx_outputs (s : State) (i : LaneId) (f : Receiver → Receiver) : (s.modRx i f).outputs = s.outputs := rfl
@[simp] theorem State.modRx_store (s : State) (i : LaneId) (f : Receiver → Receiver) : (s.modRx i f).store = s.store := rfl
@[simp] theorem State.modRx_cond (s : State) (i : LaneId) (f : Receiver → Receiver) : (s.modRx i f).cond = s.cond := rfl
@[simp] theorem State.modRx_report (s : State) (i : LaneId) (f : Receiver → Receiver) : (s.modRx i f).report = s.report := rfl
@[simp] theorem State.modRx_trunk (s : State) (i : LaneId) (f : Receiver → Receiver) : (s.modRx i f).trunk = s.trunk := rfl
@[simp] theorem State.modRx_msTime (s : State) (i : LaneId) (f : Receiver → Receiver) : (s.modRx i f).msTime = s.msTime := rfl
@[simp] theorem State.modRx_pending (s : State) (i : LaneId) (f : Receiver → Receiver) : (s.modRx i f).pending = s.pending := rfl

@[simp] theorem State.setTracker_pos (s : State) (i : LaneId) (t : Tracker) : (s.setTracker i t).pos = s.pos := rfl
@[simp] theorem State.setTracker_pulses (s : State) (i : LaneId) (t : Tracker) : (s.setTracker i t).pulses = s.pulses := rfl
@[simp] theorem State.setTracker_flawId (s : State) (i : LaneId) (t : Tracker) : (s.setTracker i t).flawId = s.flawId := rfl
@[simp] theorem State.setTracker_map (s : State) (i : LaneId) (t : Tracker) : (s.setTracker i t).map = s.map := rfl
@[simp] theorem State.setTracker_plan (s : State) (i : LaneId) (t : Tracker) : (s.setTracker i t).plan = s.plan := rfl
@[simp] theorem State.setTracker_cutter (s : State) (i : LaneId) (t : Tracker) : (s.setTracker i t).cutter = s.cutter := rfl
@[simp] theorem State.setTracker_divert (s : State) (i : LaneId) (t : Tracker) : (s.setTracker i t).divert = s.divert := rfl
@[simp] theorem State.setTracker_grader (s : State) (i : LaneId) (t : Tracker) : (s.setTracker i t).grader = s.grader := rfl
@[simp] theorem State.setTracker_outputs (s : State) (i : LaneId) (t : Tracker) : (s.setTracker i t).outputs = s.outputs := rfl
@[simp] theorem State.setTracker_store (s : State) (i : LaneId) (t : Tracker) : (s.setTracker i t).store = s.store := rfl
@[simp] theorem State.setTracker_cond (s : State) (i : LaneId) (t : Tracker) : (s.setTracker i t).cond = s.cond := rfl
@[simp] theorem State.setTracker_report (s : State) (i : LaneId) (t : Tracker) : (s.setTracker i t).report = s.report := rfl
@[simp] theorem State.setTracker_trunk (s : State) (i : LaneId) (t : Tracker) : (s.setTracker i t).trunk = s.trunk := rfl
@[simp] theorem State.setTracker_msTime (s : State) (i : LaneId) (t : Tracker) : (s.setTracker i t).msTime = s.msTime := rfl
@[simp] theorem State.setTracker_pending (s : State) (i : LaneId) (t : Tracker) : (s.setTracker i t).pending = s.pending := rfl

@[simp] theorem State.setProfile_pos (s : State) (i : LaneId) (p : List Column) : (s.setProfile i p).pos = s.pos := rfl
@[simp] theorem State.setProfile_pulses (s : State) (i : LaneId) (p : List Column) : (s.setProfile i p).pulses = s.pulses := rfl
@[simp] theorem State.setProfile_flawId (s : State) (i : LaneId) (p : List Column) : (s.setProfile i p).flawId = s.flawId := rfl
@[simp] theorem State.setProfile_map (s : State) (i : LaneId) (p : List Column) : (s.setProfile i p).map = s.map := rfl
@[simp] theorem State.setProfile_plan (s : State) (i : LaneId) (p : List Column) : (s.setProfile i p).plan = s.plan := rfl
@[simp] theorem State.setProfile_cutter (s : State) (i : LaneId) (p : List Column) : (s.setProfile i p).cutter = s.cutter := rfl
@[simp] theorem State.setProfile_divert (s : State) (i : LaneId) (p : List Column) : (s.setProfile i p).divert = s.divert := rfl
@[simp] theorem State.setProfile_grader (s : State) (i : LaneId) (p : List Column) : (s.setProfile i p).grader = s.grader := rfl
@[simp] theorem State.setProfile_outputs (s : State) (i : LaneId) (p : List Column) : (s.setProfile i p).outputs = s.outputs := rfl
@[simp] theorem State.setProfile_store (s : State) (i : LaneId) (p : List Column) : (s.setProfile i p).store = s.store := rfl
@[simp] theorem State.setProfile_cond (s : State) (i : LaneId) (p : List Column) : (s.setProfile i p).cond = s.cond := rfl
@[simp] theorem State.setProfile_report (s : State) (i : LaneId) (p : List Column) : (s.setProfile i p).report = s.report := rfl
@[simp] theorem State.setProfile_trunk (s : State) (i : LaneId) (p : List Column) : (s.setProfile i p).trunk = s.trunk := rfl
@[simp] theorem State.setProfile_msTime (s : State) (i : LaneId) (p : List Column) : (s.setProfile i p).msTime = s.msTime := rfl
@[simp] theorem State.setProfile_pending (s : State) (i : LaneId) (p : List Column) : (s.setProfile i p).pending = s.pending := rfl

@[simp] theorem State.count_pos (s : State) (f : Report → Report) : (s.count f).pos = s.pos := rfl
@[simp] theorem State.count_pulses (s : State) (f : Report → Report) : (s.count f).pulses = s.pulses := rfl
@[simp] theorem State.count_lanes (s : State) (f : Report → Report) : (s.count f).lanes = s.lanes := rfl
@[simp] theorem State.count_flawId (s : State) (f : Report → Report) : (s.count f).flawId = s.flawId := rfl
@[simp] theorem State.count_map (s : State) (f : Report → Report) : (s.count f).map = s.map := rfl
@[simp] theorem State.count_plan (s : State) (f : Report → Report) : (s.count f).plan = s.plan := rfl
@[simp] theorem State.count_cutter (s : State) (f : Report → Report) : (s.count f).cutter = s.cutter := rfl
@[simp] theorem State.count_divert (s : State) (f : Report → Report) : (s.count f).divert = s.divert := rfl
@[simp] theorem State.count_grader (s : State) (f : Report → Report) : (s.count f).grader = s.grader := rfl
@[simp] theorem State.count_outputs (s : State) (f : Report → Report) : (s.count f).outputs = s.outputs := rfl
@[simp] theorem State.count_store (s : State) (f : Report → Report) : (s.count f).store = s.store := rfl
@[simp] theorem State.count_cond (s : State) (f : Report → Report) : (s.count f).cond = s.cond := rfl
@[simp] theorem State.count_trunk (s : State) (f : Report → Report) : (s.count f).trunk = s.trunk := rfl
@[simp] theorem State.count_msTime (s : State) (f : Report → Report) : (s.count f).msTime = s.msTime := rfl
@[simp] theorem State.count_pending (s : State) (f : Report → Report) : (s.count f).pending = s.pending := rfl
@[simp] theorem State.count_current (s : State) (f : Report → Report) :
    (s.count f).report.current = f s.report.current := rfl
@[simp] theorem State.count_lane (s : State) (f : Report → Report) (i : LaneId) : (s.count f).lane i = s.lane i := rfl
@[simp] theorem State.count_rx (s : State) (f : Report → Report) (i : LaneId) : (s.count f).rx i = s.rx i := rfl

end Sys2Proof.Machine
end

