-- ==== Sys2Proof/Laws/Inner.lean ====
section
/-! SUPPORT. `Inner s t` says once what every operation below the commands can do to the parts of the state that the laws of
Safety.lean speak of: what it leaves alone, and which bounds and orders it keeps. It is reflexive and transitive; each
operation has one lemma. -/

namespace Sys2Proof.Machine

/-- The records of the map are in order (R74). -/
def mapSorted (rs : List MapRecord) : Prop := rs.Pairwise fun a b => a.lead ≤ b.lead

/-- The schedule is in order (R12). -/
def schedSorted (es : List Entry) : Prop := es.Pairwise fun a b => a.fire ≤ b.fire

/-- What an inner operation keeps. -/
structure Inner (s t : State) : Prop where
  p : t.pos.p = s.pos.p
  debt : t.pos.debt = s.pos.debt
  excursion : t.pos.excursion = s.pos.excursion
  reverseArmed : t.pos.reverseArmed = s.pos.reverseArmed
  encA : t.pos.encA = s.pos.encA
  encB : t.pos.encB = s.pos.encB
  stallTimer : t.pos.stallTimer = s.pos.stallTimer
  stallArmed : t.pos.stallArmed = s.pos.stallArmed
  phase : t.pos.phase = s.pos.phase
  trigger : t.pos.trigger = s.pos.trigger
  triggerSeen : t.pos.triggerSeen = s.pos.triggerSeen
  history : t.pos.history = s.pos.history
  trig : t.pulses.trig = s.pulses.trig
  sorted : schedSorted s.pos.schedule → schedSorted t.pos.schedule
  above : (∀ e ∈ s.pos.schedule, s.pos.p < e.fire) → ∀ e ∈ t.pos.schedule, s.pos.p < e.fire
  schedLe : t.pos.schedule.length ≤ max s.pos.schedule.length Config.scheduleSlots
  firing : t.pos.firing.length ≤ s.pos.firing.length
  inHand : ∀ i, (t.rx i).inHand = (s.rx i).inHand
  link : ∀ i, (t.rx i).link = (s.rx i).link
  headSending : ∀ i, (t.rx i).headSending = (s.rx i).headSending
  forward : ∀ i, (t.rx i).forward = (s.rx i).forward
  profile : ∀ i, profileOk (s.lane i).profile → profileOk (t.lane i).profile
  tracker : ∀ i, (s.lane i).tracker.Ok → (t.lane i).tracker.Ok
  outputs : t.outputs = s.outputs
  msTime : t.msTime = s.msTime
  pending : t.pending = s.pending
  setup : t.store.setup = s.store.setup
  detect : s.store.detect.Ok → t.store.detect.Ok
  grade : s.store.grade.Ok → t.store.grade.Ok
  requests : t.trunk.requests = s.trunk.requests
  executing : t.trunk.executing = s.trunk.executing
  trunkLink : t.trunk.link = s.trunk.link
  sending : t.trunk.sending = s.trunk.sending
  stopEnd : t.trunk.stopEnd = s.trunk.stopEnd
  lastLane : t.trunk.lastLane = s.trunk.lastLane
  crcErrors : t.trunk.crcErrors = s.trunk.crcErrors
  badFrames : t.trunk.badFrames = s.trunk.badFrames
  headDrops : t.trunk.headDrops = s.trunk.headDrops
  sendAborts : t.trunk.sendAborts = s.trunk.sendAborts
  urgentPre : s.trunk.urgent <+: t.trunk.urgent
  flawsPre : s.trunk.flaws <+: t.trunk.flaws
  urgentLe : t.trunk.urgent.length ≤ max s.trunk.urgent.length Config.urgentSlots
  flawsLe : t.trunk.flaws.length ≤ max s.trunk.flaws.length Config.flawSlots
  run : t.trunk.run = s.trunk.run ∨ (s.trunk.run = .stopping ∧ t.trunk.run = .standby)
  horizon : s.map.h ≤ t.map.h
  mapSorted : mapSorted s.map.records → mapSorted t.map.records
  mapLe : t.map.records.length ≤ max s.map.records.length Config.mapRecords
  queueLe : t.plan.queue.length ≤ max s.plan.queue.length Config.plateSlots
  standby : (s.trunk.run = .standby → s.plan.queue = []) → t.trunk.run = .standby → t.plan.queue = []

theorem Inner.refl (s : State) : Inner s s := by
  constructor <;> simp

theorem Inner.trans {s t u : State} (a : Inner s t) (b : Inner t u) : Inner s u where
  p := b.p.trans a.p
  debt := b.debt.trans a.debt
  excursion := b.excursion.trans a.excursion
  reverseArmed := b.reverseArmed.trans a.reverseArmed
  encA := b.encA.trans a.encA
  encB := b.encB.trans a.encB
  stallTimer := b.stallTimer.trans a.stallTimer
  stallArmed := b.stallArmed.trans a.stallArmed
  phase := b.phase.trans a.phase
  trigger := b.trigger.trans a.trigger
  triggerSeen := b.triggerSeen.trans a.triggerSeen
  history := b.history.trans a.history
  trig := b.trig.trans a.trig
  sorted h := b.sorted (a.sorted h)
  above h := by
    have := b.above
    rw [a.p] at this
    exact this (a.above h)
  schedLe := by have := a.schedLe; have := b.schedLe; omega
  firing := b.firing.trans a.firing
  inHand i := (b.inHand i).trans (a.inHand i)
  link i := (b.link i).trans (a.link i)
  headSending i := (b.headSending i).trans (a.headSending i)
  forward i := (b.forward i).trans (a.forward i)
  profile i h := b.profile i (a.profile i h)
  tracker i h := b.tracker i (a.tracker i h)
  outputs := b.outputs.trans a.outputs
  msTime := b.msTime.trans a.msTime
  pending := b.pending.trans a.pending
  setup := b.setup.trans a.setup
  detect h := b.detect (a.detect h)
  grade h := b.grade (a.grade h)
  requests := b.requests.trans a.requests
  executing := b.executing.trans a.executing
  trunkLink := b.trunkLink.trans a.trunkLink
  sending := b.sending.trans a.sending
  stopEnd := b.stopEnd.trans a.stopEnd
  lastLane := b.lastLane.trans a.lastLane
  crcErrors := b.crcErrors.trans a.crcErrors
  badFrames := b.badFrames.trans a.badFrames
  headDrops := b.headDrops.trans a.headDrops
  sendAborts := b.sendAborts.trans a.sendAborts
  urgentPre := a.urgentPre.trans b.urgentPre
  flawsPre := a.flawsPre.trans b.flawsPre
  urgentLe := by have := a.urgentLe; have := b.urgentLe; omega
  flawsLe := by have := a.flawsLe; have := b.flawsLe; omega
  run := by
    rcases a.run with h | ⟨h, h'⟩ <;> rcases b.run with k | ⟨k, k'⟩
    · exact .inl (k.trans h)
    · exact .inr ⟨h ▸ k, k'⟩
    · exact .inr ⟨h, k.trans h'⟩
    · rw [h'] at k; cases k
  horizon := a.horizon.trans b.horizon
  mapSorted h := b.mapSorted (a.mapSorted h)
  mapLe := by have := a.mapLe; have := b.mapLe; omega
  queueLe := by have := a.queueLe; have := b.queueLe; omega
  standby h := b.standby (a.standby h)

/-! ### The setters -/

theorem Inner.report (s : State) (x : ReportUnit) : Inner s (s.withReport x) := by constructor <;> simp
theorem Inner.cond (s : State) (x : ConditionUnit) : Inner s (s.withCond x) := by constructor <;> simp
theorem Inner.pulses (s : State) (x : Pulses) (h : x.trig = s.pulses.trig) : Inner s (s.withPulses x) := by
  constructor <;> simp [h]
theorem Inner.cutter (s : State) (x : Cutter) : Inner s (s.withCutter x) := by constructor <;> simp
theorem Inner.divert (s : State) (x : Divert) : Inner s (s.withDivert x) := by constructor <;> simp
theorem Inner.grader (s : State) (x : Grader) : Inner s (s.withGrader x) := by constructor <;> simp
theorem Inner.flawId (s : State) (x : Nat) : Inner s (s.withFlawId x) := by constructor <;> simp
theorem Inner.count (s : State) (f : Report → Report) : Inner s (s.count f) := Inner.report s _

/-- A change of the planner's own fields: the queue keeps its bound, and stays empty where it must. -/
theorem Inner.plan (s : State) (x : Planner)
    (h : x.queue.length ≤ max s.plan.queue.length Config.plateSlots)
    (h0 : s.plan.queue = [] → s.trunk.run = .standby → x.queue = []) : Inner s (s.withPlan x) := by
  constructor <;> try simp
  · simpa using h
  · exact fun a b => h0 (a b) b

/-- A change of the planner that leaves the queue alone. -/
theorem Inner.planQueue (s : State) (x : Planner) (h : x.queue = s.plan.queue) : Inner s (s.withPlan x) :=
  Inner.plan s x (by simp [h]) (fun a _ => h.trans a)

/-- A change of the map. -/
theorem Inner.map (s : State) (x : FlawMap) (h : s.map.h ≤ x.h)
    (hs : Machine.mapSorted s.map.records → Machine.mapSorted x.records)
    (hl : x.records.length ≤ max s.map.records.length Config.mapRecords) : Inner s (s.withMap x) := by
  constructor <;> try simp
  · exact h
  · exact hs
  · simpa using hl

/-- A change of the map's records. -/
theorem Inner.records (s : State) (rs : List MapRecord)
    (hs : Machine.mapSorted s.map.records → Machine.mapSorted rs)
    (hl : rs.length ≤ max s.map.records.length Config.mapRecords) : Inner s (s.withRecords rs) :=
  Inner.map s _ (le_refl _) hs hl

/-- A change of the overflow mark. -/
theorem Inner.mark (s : State) (m : Option OverflowMark) : Inner s (s.withMark m) :=
  Inner.map s _ (le_refl _) id (by simp)

/-- A change of the banks. -/
theorem Inner.store (s : State) (x : TableStore) (h : x.setup = s.store.setup)
    (hd : s.store.detect.Ok → x.detect.Ok) (hg : s.store.grade.Ok → x.grade.Ok) :
    Inner s (s.withStore x) := by
  constructor <;> try simp
  · exact h
  · exact hd
  · exact hg

/-- What a change of a receiver keeps. -/
def rxKept (x y : Receiver) : Prop :=
  y.inHand = x.inHand ∧ y.link = x.link ∧ y.headSending = x.headSending ∧ y.forward = x.forward

/-- A change of all lanes. -/
theorem Inner.lanes (s : State) (x : PerLane Lane) (h : ∀ i, rxKept (s.rx i) (x.get i).rx)
    (hp : ∀ i, profileOk (s.lane i).profile → profileOk (x.get i).profile)
    (ht : ∀ i, (s.lane i).tracker.Ok → (x.get i).tracker.Ok) : Inner s (s.withLanes x) := by
  constructor <;> try simp
  · exact fun i => (h i).1
  · exact fun i => (h i).2.1
  · exact fun i => (h i).2.2.1
  · exact fun i => (h i).2.2.2
  · exact hp
  · exact ht

/-- A change of one lane. -/
theorem Inner.lane (s : State) (i : LaneId) (l : Lane) (h : rxKept (s.rx i) l.rx)
    (hp : profileOk (s.lane i).profile → profileOk l.profile) (ht : (s.lane i).tracker.Ok → l.tracker.Ok) :
    Inner s (s.setLane i l) := by
  refine Inner.lanes s _ ?_ ?_ ?_ <;> intro j <;> rw [PerLane.get_set] <;> split
  · next hj => subst hj; exact h
  · exact ⟨rfl, rfl, rfl, rfl⟩
  · next hj => subst hj; exact hp
  · exact id
  · next hj => subst hj; exact ht
  · exact id

/-- A change of a receiver. -/
theorem Inner.modRx (s : State) (i : LaneId) (f : Receiver → Receiver) (h : rxKept (s.rx i) (f (s.rx i))) :
    Inner s (s.modRx i f) := Inner.lane s i _ h id id

theorem Inner.setTracker (s : State) (i : LaneId) (t : Tracker) (h : (s.lane i).tracker.Ok → t.Ok) :
    Inner s (s.setTracker i t) := Inner.lane s i _ ⟨rfl, rfl, rfl, rfl⟩ id h

theorem Inner.setProfile (s : State) (i : LaneId) (p : List Column) (h : profileOk (s.lane i).profile → profileOk p) :
    Inner s (s.setProfile i p) := Inner.lane s i _ ⟨rfl, rfl, rfl, rfl⟩ h id

/-- What a change of the trunk's outbound side keeps. -/
def trunkKept (x y : Trunk) : Prop :=
  y.requests = x.requests ∧ y.executing = x.executing ∧ y.link = x.link ∧ y.sending = x.sending ∧
    y.stopEnd = x.stopEnd ∧ y.run = x.run ∧ y.lastLane = x.lastLane ∧ y.crcErrors = x.crcErrors ∧
    y.badFrames = x.badFrames ∧ y.headDrops = x.headDrops ∧ y.sendAborts = x.sendAborts

/-- A change of the trunk's outbound side. -/
theorem Inner.trunk (s : State) (x : Trunk) (h : trunkKept s.trunk x)
    (hu : x.urgent.length ≤ max s.trunk.urgent.length Config.urgentSlots) (hup : s.trunk.urgent <+: x.urgent)
    (hf : x.flaws.length ≤ max s.trunk.flaws.length Config.flawSlots) (hfp : s.trunk.flaws <+: x.flaws) :
    Inner s (s.withTrunk x) := by
  obtain ⟨h1, h2, h3, h4, h5, h6, h7, h8, h9, h10, h11⟩ := h
  constructor <;> try simp
  · exact h1
  · exact h2
  · exact h3
  · exact h4
  · exact h5
  · exact h7
  · exact h8
  · exact h9
  · exact h10
  · exact h11
  · exact hup
  · exact hfp
  · simpa using hu
  · simpa using hf
  · exact .inl h6
  · rw [h6]; exact fun a b => a b

/-- What a change of the schedule or the firing list keeps. -/
def posKept (x y : PositionUnit) : Prop :=
  y.p = x.p ∧ y.debt = x.debt ∧ y.excursion = x.excursion ∧ y.reverseArmed = x.reverseArmed ∧ y.encA = x.encA ∧
    y.encB = x.encB ∧ y.stallTimer = x.stallTimer ∧ y.stallArmed = x.stallArmed ∧ y.phase = x.phase ∧
    y.trigger = x.trigger ∧ y.triggerSeen = x.triggerSeen ∧ y.history = x.history

theorem posKept.refl (x : PositionUnit) : posKept x x := ⟨rfl, rfl, rfl, rfl, rfl, rfl, rfl, rfl, rfl, rfl, rfl, rfl⟩

/-- A change of the position schedule and the firing list. -/
theorem Inner.pos (s : State) (x : PositionUnit) (h : posKept s.pos x)
    (hs : schedSorted s.pos.schedule → schedSorted x.schedule)
    (ha : (∀ e ∈ s.pos.schedule, s.pos.p < e.fire) → ∀ e ∈ x.schedule, s.pos.p < e.fire)
    (hl : x.schedule.length ≤ max s.pos.schedule.length Config.scheduleSlots)
    (hf : x.firing.length ≤ s.pos.firing.length) : Inner s (s.withPos x) := by
  obtain ⟨h1, h2, h3, h4, h5, h6, h7, h8, h9, h10, h11, h12⟩ := h
  constructor <;> try simp
  · exact h1
  · exact h2
  · exact h3
  · exact h4
  · exact h5
  · exact h6
  · exact h7
  · exact h8
  · exact h9
  · exact h10
  · exact h11
  · exact h12
  · exact hs
  · exact ha
  · simpa using hl
  · exact hf

end Sys2Proof.Machine
end

