-- ==== Sys2Proof/Laws/Lists.lean ====
section
/-! SUPPORT. Placing an entry in the schedule and a record in the map: what it puts where, and the order it keeps (R12,
R74). -/

namespace Sys2Proof.Machine

/-! ### placeEntry -/

@[simp] theorem placeEntry_length (e : Entry) (es : List Entry) : (placeEntry e es).length = es.length + 1 := by
  induction es with
  | nil => rfl
  | cons x xs ih => unfold placeEntry; split <;> simp [ih]

@[simp] theorem mem_placeEntry {e a : Entry} {es : List Entry} : a ∈ placeEntry e es ↔ a = e ∨ a ∈ es := by
  induction es with
  | nil => simp [placeEntry]
  | cons x xs ih =>
    unfold placeEntry
    split
    · rw [List.mem_cons, ih, List.mem_cons]; tauto
    · rw [List.mem_cons]

theorem placeEntry_sorted {e : Entry} {es : List Entry} (h : es.Pairwise fun a b => a.fire ≤ b.fire) :
    (placeEntry e es).Pairwise fun a b => a.fire ≤ b.fire := by
  induction es with
  | nil => simp [placeEntry]
  | cons x xs ih =>
    have hx := List.pairwise_cons.1 h
    unfold placeEntry
    split
    · next hle =>
      refine List.pairwise_cons.2 ⟨?_, ih hx.2⟩
      intro a ha
      rcases mem_placeEntry.1 ha with rfl | ha
      · exact hle
      · exact hx.1 a ha
    · next hlt =>
      refine List.pairwise_cons.2 ⟨?_, h⟩
      intro a ha
      rcases List.mem_cons.1 ha with rfl | ha
      · omega
      · have := hx.1 a ha; omega

/-! ### placeRecord -/

@[simp] theorem placeRecord_length (r : MapRecord) (rs : List MapRecord) :
    (placeRecord r rs).length = rs.length + 1 := by
  induction rs with
  | nil => rfl
  | cons x xs ih => unfold placeRecord; split <;> simp [ih]

@[simp] theorem mem_placeRecord {r a : MapRecord} {rs : List MapRecord} : a ∈ placeRecord r rs ↔ a = r ∨ a ∈ rs := by
  induction rs with
  | nil => simp [placeRecord]
  | cons x xs ih =>
    unfold placeRecord
    split
    · rw [List.mem_cons, ih, List.mem_cons]; tauto
    · rw [List.mem_cons]

theorem placeRecord_sorted {r : MapRecord} {rs : List MapRecord} (h : rs.Pairwise fun a b => a.lead ≤ b.lead) :
    (placeRecord r rs).Pairwise fun a b => a.lead ≤ b.lead := by
  induction rs with
  | nil => simp [placeRecord]
  | cons x xs ih =>
    have hx := List.pairwise_cons.1 h
    unfold placeRecord
    split
    · next hle =>
      refine List.pairwise_cons.2 ⟨?_, ih hx.2⟩
      intro a ha
      rcases mem_placeRecord.1 ha with rfl | ha
      · exact hle
      · exact hx.1 a ha
    · next hlt =>
      refine List.pairwise_cons.2 ⟨?_, h⟩
      intro a ha
      rcases List.mem_cons.1 ha with rfl | ha
      · omega
      · have := hx.1 a ha; omega

/-! ### Changes that keep every lead -/

@[simp] theorem MapRecord.withStop_lead (stop : Nat) (r : MapRecord) : (r.withStop stop).lead = r.lead := by
  cases r <;> rfl

/-- A map whose leads are the same, place by place, is in the same order. -/
theorem sorted_of_leads {rs ts : List MapRecord} (h : ts.map MapRecord.lead = rs.map MapRecord.lead)
    (hs : rs.Pairwise fun a b => a.lead ≤ b.lead) : ts.Pairwise fun a b => a.lead ≤ b.lead := by
  have := List.pairwise_map.2 hs
  rw [← h] at this
  exact List.pairwise_map.1 this

theorem changeLast_go_leads (test : MapRecord → Bool) (f : MapRecord → MapRecord) (hf : ∀ r, (f r).lead = r.lead)
    (rs : List MapRecord) : (changeLast.go test f rs).map MapRecord.lead = rs.map MapRecord.lead := by
  induction rs with
  | nil => rfl
  | cons x xs ih => unfold changeLast.go; split <;> simp [hf, ih]

theorem changeLast_leads (test : MapRecord → Bool) (f : MapRecord → MapRecord) (hf : ∀ r, (f r).lead = r.lead)
    (rs : List MapRecord) : (changeLast test f rs).map MapRecord.lead = rs.map MapRecord.lead := by
  unfold changeLast
  rw [List.map_reverse, changeLast_go_leads test f hf, List.map_reverse, List.reverse_reverse]

@[simp] theorem changeLast_length (test : MapRecord → Bool) (f : MapRecord → MapRecord) (hf : ∀ r, (f r).lead = r.lead)
    (rs : List MapRecord) : (changeLast test f rs).length = rs.length := by
  have := congrArg List.length (changeLast_leads test f hf rs)
  simpa using this

end Sys2Proof.Machine
end

