-- ==== Sys2Proof/Laws/InnerOps.lean ====
section
/-! SUPPORT. `Inner` for raises, outbound records, banks, schedule and flaw map. -/

namespace Sys2Proof.Machine

/-! ### Raises and outbound records -/

theorem handUrgent_inner (r : Urgent) (s : State) : Inner s (handUrgent r s).1 := by
  unfold handUrgent
  split
  · next h =>
    exact Inner.trunk s _ (⟨rfl, rfl, rfl, rfl, rfl, rfl, rfl, rfl, rfl, rfl, rfl⟩) (by simp; omega) (List.prefix_append _ _) (by simp) (List.prefix_refl _)
  · exact Inner.trunk s _ (⟨rfl, rfl, rfl, rfl, rfl, rfl, rfl, rfl, rfl, rfl, rfl⟩) (by simp) (List.prefix_refl _) (by simp) (List.prefix_refl _)

theorem countRaise_inner (k : CondKind) (s : State) : Inner s (countRaise k s) :=
  (Inner.cond s _).trans (Inner.count _ _)

theorem handleLine_inner (k : CondKind) (lane : Option LaneId) (d1 d2 : Nat) (e : Bool) (s : State) :
    Inner s (handleLine k lane d1 d2 e s).1 := by
  unfold handleLine
  split
  · exact (Inner.cond s _).trans (handUrgent_inner _ _)
  · exact Inner.cond s _

theorem handleGantry_inner (k : CondKind) (lane : Option LaneId) (d1 d2 : Nat) (s : State) :
    Inner s (handleGantry k lane d1 d2 s).1 := by
  unfold handleGantry
  split
  · exact (Inner.cond s _).trans (handUrgent_inner _ _)
  · exact (Inner.cond s _).trans (handleLine_inner _ _ _ _ _ _)

theorem raiseOnce_inner (k : CondKind) (lane : Option LaneId) (d1 d2 : Nat) (s : State) :
    Inner s (raiseOnce k lane d1 d2 s).1 := by
  unfold raiseOnce
  refine (countRaise_inner k s).trans ?_
  dsimp only
  split
  · exact Inner.refl _
  · exact handleGantry_inner _ _ _ _ _
  · exact handleLine_inner _ _ _ _ _ _

theorem raise_inner (k : CondKind) (lane : Option LaneId) (d1 d2 : Nat) (s : State) : Inner s (raise k lane d1 d2 s) := by
  unfold raise
  dsimp only
  split
  · exact (raiseOnce_inner _ _ _ _ _).trans (raiseOnce_inner _ _ _ _ _)
  · exact raiseOnce_inner _ _ _ _ _

theorem raiseOverrun_inner (r : Urgent) (s : State) : Inner s (raiseOverrun r s) := raise_inner _ _ _ _ _

theorem handRecord_inner (r : Urgent) (s : State) : Inner s (handRecord r s) := by
  unfold handRecord
  dsimp only
  split
  · exact (handUrgent_inner r s).trans (raiseOverrun_inner r _)
  · exact handUrgent_inner r s

theorem copyFlaw_inner (r : FlawRecord) (s : State) : Inner s (copyFlaw r s) := by
  unfold copyFlaw
  split
  · next h =>
    exact Inner.trunk s _ (⟨rfl, rfl, rfl, rfl, rfl, rfl, rfl, rfl, rfl, rfl, rfl⟩) (by simp) (List.prefix_refl _) (by simp; omega) (List.prefix_append _ _)
  · exact Inner.trunk s _ (⟨rfl, rfl, rfl, rfl, rfl, rfl, rfl, rfl, rfl, rfl, rfl⟩) (by simp) (List.prefix_refl _) (by simp) (List.prefix_refl _)

/-! A raise reaches no lane. -/

@[simp] theorem handUrgent_lanes (r : Urgent) (s : State) : (handUrgent r s).1.lanes = s.lanes := by
  unfold handUrgent
  split <;> rfl

@[simp] theorem handleLine_lanes (k : CondKind) (lane : Option LaneId) (d1 d2 : Nat) (e : Bool) (s : State) :
    (handleLine k lane d1 d2 e s).1.lanes = s.lanes := by
  unfold handleLine
  split
  · exact handUrgent_lanes _ _
  · rfl

@[simp] theorem handleGantry_lanes (k : CondKind) (lane : Option LaneId) (d1 d2 : Nat) (s : State) :
    (handleGantry k lane d1 d2 s).1.lanes = s.lanes := by
  unfold handleGantry
  split
  · exact handUrgent_lanes _ _
  · exact handleLine_lanes _ _ _ _ _ _

@[simp] theorem raiseOnce_lanes (k : CondKind) (lane : Option LaneId) (d1 d2 : Nat) (s : State) :
    (raiseOnce k lane d1 d2 s).1.lanes = s.lanes := by
  unfold raiseOnce
  dsimp only
  split
  · rfl
  · exact handleGantry_lanes _ _ _ _ _
  · exact handleLine_lanes _ _ _ _ _ _

@[simp] theorem raise_lanes (k : CondKind) (lane : Option LaneId) (d1 d2 : Nat) (s : State) :
    (raise k lane d1 d2 s).lanes = s.lanes := by
  unfold raise
  dsimp only
  split
  · rw [raiseOnce_lanes, raiseOnce_lanes]
  · exact raiseOnce_lanes _ _ _ _ _

@[simp] theorem copyFlaw_lanes (r : FlawRecord) (s : State) : (copyFlaw r s).lanes = s.lanes := by
  unfold copyFlaw
  split <;> rfl

/-! ### Banks -/

/-- A bank that is not ACTIVE given a state that is neither ACTIVE nor COMMITTING. -/
theorem setState_ok {α : Type} {g : Group α} {b : BankId} {st : BankState} (hb : (g.get b).state ≠ .active)
    (h : st ≠ .active) (h' : st ≠ .committing) (hg : g.Ok) : (g.setState b st).Ok := by
  obtain ⟨h1, h2⟩ := hg
  match b with
  | 0 =>
    refine ⟨fun x => h x.1, fun x => ?_⟩
    exact absurd (h2 x) hb
  | 1 => exact ⟨fun x => h x.2, fun x => absurd x h'⟩

theorem toLoaded_ok {α : Type} {g : Group α} {st : BankState} (h : st ≠ .active) (hg : g.Ok) : (g.toLoaded st).Ok := by
  obtain ⟨h1, h2⟩ := hg
  have act : ∀ b : Bank α, (if b.state == st then { b with state := .loaded } else b).state = .active ↔
      b.state = .active := by
    intro b
    split
    · next hb =>
      rw [beq_iff_eq] at hb
      exact ⟨fun x => (nomatch x), fun x => absurd (hb.symm.trans x) h⟩
    · exact Iff.rfl
  have com : ∀ b : Bank α, (if b.state == st then { b with state := .loaded } else b).state = .committing →
      b.state = .committing := by
    intro b
    split
    · exact fun x => nomatch x
    · exact id
  exact ⟨fun x => h1 ⟨(act _).1 x.1, (act _).1 x.2⟩, fun x => (act _).2 (h2 (com _ x))⟩

/-- The bank found in a state is in that state. -/
theorem find_state {α : Type} {g : Group α} {a : BankState} {i : BankId} (h : g.find a = some i) : (g.get i).state = a := by
  unfold Group.find at h
  split at h
  · next h0 => cases h; exact beq_iff_eq.1 h0
  · split at h
    · next h1 => cases h; exact beq_iff_eq.1 h1
    · cases h

theorem find_none {α : Type} {g : Group α} {a : BankState} (h : g.find a = none) (i : BankId) : (g.get i).state ≠ a := by
  unfold Group.find at h
  split at h
  · cases h
  · next h0 =>
    split at h
    · cases h
    · next h1 =>
      match i with
      | 0 => exact fun x => h0 (beq_iff_eq.2 x)
      | 1 => exact fun x => h1 (beq_iff_eq.2 x)

theorem find_ne {α : Type} {g : Group α} {a b : BankState} {i j : BankId} (hab : a ≠ b) (hi : g.find a = some i)
    (hj : g.find b = some j) : i ≠ j := by
  rintro rfl
  exact hab ((find_state hi).symm.trans (find_state hj))

theorem switch_ok {α : Type} {g : Group α} {new : BankId} {old : Option BankId} {bound : Bool} (hg : g.Ok)
    (hc : (g.get new).state = .committing) (hn : ∀ b, old = some b → b ≠ new) (hf : old = none → g.active = none) :
    (g.switch new old bound).Ok := by
  have hst : ∀ x, (if bound then BankState.retiring else BankState.loaded) = x → x ≠ .active ∧ x ≠ .committing := by
    intro x hx; subst hx; split <;> decide
  obtain ⟨h1, h2⟩ := hg
  cases old with
  | some b =>
    have h := hn b rfl
    unfold Group.switch
    match b, new with
    | 0, 0 => exact absurd rfl h
    | 0, 1 => exact ⟨fun x => (hst _ x.1).1 rfl, fun x => nomatch x⟩
    | 1, 0 => exact ⟨fun x => (hst _ x.2).1 rfl, fun x => absurd rfl (hst _ x).2⟩
    | 1, 1 => exact absurd rfl h
  | none =>
    have hf := find_none (hf rfl)
    unfold Group.switch
    match new with
    | 0 => exact ⟨fun x => hf 1 x.2, fun _ => rfl⟩
    | 1 => exact ⟨fun x => hf 0 x.1, fun x => nomatch x⟩

theorem settleDetect_inner (s : State) : Inner s (settleDetect s) := by
  unfold settleDetect
  split
  · next b hb =>
    split
    · exact Inner.store s _ rfl (setState_ok (by rw [find_state hb]; decide) (by decide) (by decide)) id
    · exact Inner.refl s
  · exact Inner.refl s

theorem settleGrade_inner (s : State) : Inner s (settleGrade s) := by
  unfold settleGrade
  split
  · next b hb =>
    split
    · exact Inner.store s _ rfl id (setState_ok (by rw [find_state hb]; decide) (by decide) (by decide))
    · exact Inner.refl s
  · exact Inner.refl s

theorem releaseLineBinding_inner (i : LaneId) (s : State) : Inner s (releaseLineBinding i s) :=
  (Inner.modRx s i _ ⟨rfl, rfl, rfl, rfl⟩).trans (settleDetect_inner _)

theorem giveLineBindings_inner (old : BankId) (s : State) : Inner s (giveLineBindings old s) := by
  unfold giveLineBindings
  split
  · exact Inner.refl s
  · refine Inner.lanes s _ (fun i => ?_) (fun i => ?_) (fun i => ?_)
    all_goals rw [PerLane.get_map]
    · split <;> exact ⟨rfl, rfl, rfl, rfl⟩
    · split <;> exact id
    · split <;> exact id

@[simp] theorem giveLineBindings_store (old : BankId) (s : State) : (giveLineBindings old s).store = s.store := by
  unfold giveLineBindings
  split <;> rfl

theorem switchDetect_inner (t : Option Nat) (s : State) : Inner s (switchDetect t s) := by
  unfold switchDetect
  split
  · exact Inner.refl s
  · next new hnew =>
    split
    · next hold =>
      exact Inner.store s _ rfl (fun g => switch_ok (old := none) (bound := false) g (find_state hnew) (fun _ h => (nomatch h)) (fun _ => hold)) id
    · next old hold =>
      refine (giveLineBindings_inner old s).trans (Inner.store _ _ rfl ?_ id)
      rw [giveLineBindings_store]
      exact fun g => switch_ok (old := some old) g (find_state hnew)
        (fun b h => by cases h; exact find_ne (by decide) hold hnew) (fun h => (nomatch h))

theorem switchGrade_inner (s : State) : Inner s (switchGrade s) := by
  unfold switchGrade
  split
  · exact Inner.refl s
  · next new hnew =>
    split
    · next hold =>
      exact Inner.store s _ rfl id (fun g => switch_ok (old := none) (bound := false) g (find_state hnew) (fun _ h => (nomatch h)) (fun _ => hold))
    · next old hold =>
      exact Inner.store s _ rfl id (fun g => switch_ok (old := some old) g (find_state hnew)
        (fun b h => by cases h; exact find_ne (by decide) hold hnew) (fun h => (nomatch h)))

theorem dropLineBindings_inner (s : State) : Inner s (dropLineBindings s) := by
  refine Inner.lanes s _ ?_ ?_ ?_ <;> intro i <;> rw [PerLane.get_map]
  · exact ⟨rfl, rfl, rfl, rfl⟩
  · exact id
  · exact id

theorem banksAtStandby_inner (s : State) : Inner s (banksAtStandby s) := by
  unfold banksAtStandby
  refine ((switchDetect_inner none s).trans ((switchGrade_inner _).trans (dropLineBindings_inner _))).trans ?_
  exact Inner.store _ _ rfl (toLoaded_ok (by decide)) (toLoaded_ok (by decide))

/-! ### Schedule -/

theorem insertEntry_inner {e : Entry} {s s1 : State} (h : insertEntry e s = .held s1) : Inner s s1 := by
  unfold insertEntry at h
  split at h
  · cases h
  · next hp =>
    split at h
    · next hr =>
      cases h
      refine Inner.pos s _ (posKept.refl _) placeEntry_sorted ?_ ?_ (le_refl _)
      · intro ha a hm
        rcases mem_placeEntry.1 hm with rfl | hm
        · omega
        · exact ha a hm
      · have hr' : s.pos.schedule.length ≤ 63 := by
          revert hr; unfold roomFor; split <;> simp <;> omega
        simp only [placeEntry_length, Config.scheduleSlots]; omega
    · cases h

/-- What an insertion can come to (R13, R14). -/
theorem insertEntry_cases (e : Entry) (s : State) :
    (e.fire ≤ s.pos.p ∧ insertEntry e s = .atOnce) ∨
    (s.pos.p < e.fire ∧ roomFor e.kind s.pos.schedule.length = true ∧
      insertEntry e s = .held (s.withPos { s.pos with schedule := placeEntry e s.pos.schedule })) ∨
    (s.pos.p < e.fire ∧ roomFor e.kind s.pos.schedule.length = false ∧ insertEntry e s = .refused) := by
  unfold insertEntry
  split
  · next h => exact .inl ⟨h, rfl⟩
  · next h =>
    split
    · next hr => exact .inr (.inl ⟨by omega, hr, rfl⟩)
    · next hr => exact .inr (.inr ⟨by omega, by simpa using hr, rfl⟩)

theorem removeEntry_inner (k : EntryKind) (n : Nat) (s : State) : Inner s (removeEntry k n s) := by
  refine Inner.pos s _ (posKept.refl _) (List.Pairwise.filter _) ?_ ?_ ?_
  · exact fun h e he => h e (List.mem_filter.1 he).1
  · exact (List.length_filter_le _ _).trans (le_max_left _ _)
  · exact List.length_filter_le _ _

theorem emptySchedule_inner (s : State) : Inner s (emptySchedule s) :=
  Inner.pos s _ (posKept.refl _) (fun _ => List.Pairwise.nil) (fun _ _ h => nomatch h) (by simp) (by simp)

/-! ### Flaw map -/

theorem refuseFlaw_inner (r : FlawRecord) (s : State) : Inner s (refuseFlaw r s) :=
  (Inner.mark s _).trans (raise_inner _ _ _ _ _)

theorem refuseClosedGap_inner (i : LaneId) (a b : Nat) (s : State) : Inner s (refuseClosedGap i a b s) :=
  (Inner.mark s _).trans (raise_inner _ _ _ _ _)

theorem refuseOpenGap_inner (i : LaneId) (a : Nat) (s : State) : Inner s (refuseOpenGap i a s) :=
  (Inner.mark s _).trans (raise_inner _ _ _ _ _)

/-- A record placed in the map while it has room. -/
theorem place_inner (r : MapRecord) (s : State) (h : s.map.records.length < Config.mapRecords) :
    Inner s (s.withRecords (placeRecord r s.map.records)) :=
  Inner.records s _ placeRecord_sorted (by simp only [placeRecord_length]; omega)

theorem enterFlaw_inner (r : FlawRecord) (s : State) : Inner s (enterFlaw r s) := by
  unfold enterFlaw
  split
  · exact Inner.count s _
  · split
    · exact refuseFlaw_inner r s
    · exact place_inner _ s (by omega)

@[simp] theorem enterFlaw_lanes (r : FlawRecord) (s : State) : (enterFlaw r s).lanes = s.lanes := by
  unfold enterFlaw
  split
  · rfl
  · split
    · exact raise_lanes _ _ _ _ _
    · rfl

theorem enterOpenGap_inner (i : LaneId) (a : Nat) (s : State) : Inner s (enterOpenGap i a s) := by
  unfold enterOpenGap
  split
  · exact place_inner _ s (by assumption)
  · exact refuseOpenGap_inner i a s

theorem enterClosedGap_inner (i : LaneId) (a b : Nat) (s : State) : Inner s (enterClosedGap i a b s).1 := by
  unfold enterClosedGap
  split
  · exact Inner.refl s
  · split
    · exact Inner.records s _
        (sorted_of_leads (changeLast_leads _ _ (MapRecord.withStop_lead _) _))
        (by rw [changeLast_length _ _ (MapRecord.withStop_lead _)]; exact le_max_left _ _)
    · split
      · exact place_inner _ s (by assumption)
      · exact refuseClosedGap_inner i a b s

theorem closeMapGap_inner (i : LaneId) (a b : Nat) (s : State) : Inner s (closeMapGap i a b s) := by
  unfold closeMapGap
  split
  · split
    · refine Inner.records s _ (sorted_of_leads ?_) (by simp)
      rw [List.map_map]
      apply List.map_congr_left
      intro r _
      dsimp only [Function.comp]
      split <;> simp
    · exact Inner.records s _ (List.Pairwise.filter _) ((List.length_filter_le _ _).trans (le_max_left _ _))
  · split
    · exact Inner.refl s
    · exact Inner.mark s _

theorem openGap_inner (i : LaneId) (a : Nat) (s : State) : Inner s (openGap i a s) :=
  (enterOpenGap_inner i a s).trans (Inner.modRx _ i _ ⟨rfl, rfl, rfl, rfl⟩)

theorem openGapIfNone_inner (i : LaneId) (a : Nat) (s : State) : Inner s (openGapIfNone i a s) := by
  unfold openGapIfNone
  split
  · exact Inner.refl s
  · exact openGap_inner i a s

theorem closeGap_inner (i : LaneId) (b : Nat) (s : State) : Inner s (closeGap i b s) := by
  unfold closeGap
  split
  · exact Inner.refl s
  · next a _ =>
    refine (closeMapGap_inner i a b s).trans ?_
    dsimp only
    split
    · exact (Inner.modRx _ i _ ⟨rfl, rfl, rfl, rfl⟩).trans (Inner.count _ _)
    · exact Inner.modRx _ i _ ⟨rfl, rfl, rfl, rfl⟩

theorem closedGap_inner (i : LaneId) (a b : Nat) (s : State) : Inner s (closedGap i a b s) := by
  unfold closedGap
  split
  · exact (enterClosedGap_inner i a b s).trans ((Inner.modRx _ i _ ⟨rfl, rfl, rfl, rfl⟩).trans (Inner.count _ _))
  · exact Inner.refl s

theorem removeBehind_inner (a : Nat) (s : State) : Inner s (removeBehind a s) := by
  unfold removeBehind
  refine Inner.trans (t := s.withRecords (s.map.records.filter fun r => !r.behind a))
    (Inner.records s _ (List.Pairwise.filter _) ((List.length_filter_le _ _).trans (le_max_left _ _))) ?_
  dsimp only
  split
  · exact Inner.refl _
  · split
    · exact Inner.mark _ _
    · exact Inner.refl _

theorem emptyMap_inner (s : State) : Inner s (emptyMap s) :=
  Inner.map s _ (le_refl _) (fun _ => List.Pairwise.nil) (by simp)

end Sys2Proof.Machine
end

