-- ==== Sys2Proof/Laws/InnerPlan.lean ====
section
/-! SUPPORT. `Inner` for the Cut Planner: boundaries, commits, planning attempts, the horizon and the entry to STANDBY. -/

namespace Sys2Proof.Machine

/-! ### Boundaries -/

@[simp] theorem changeInQueue_length (n : Nat) (c : BoundaryChange) (ps : List Plate) :
    (changeInQueue n c ps).1.length = ps.length := by
  induction ps with
  | nil => rfl
  | cons p rest ih =>
    unfold changeInQueue
    split
    · cases rest <;> rfl
    · simpa using ih

theorem changeBoundary_inner (n : Nat) (c : BoundaryChange) (s : State) : Inner s (changeBoundary n c s) := by
  unfold changeBoundary
  dsimp only
  split
  · split
    · next h => exact Inner.planQueue s _ rfl
    · next q more h =>
      refine Inner.plan s _ ?_ ?_
      · have : s.plan.queue = q :: more := h
        simp [this]
      · intro e
        have : s.plan.queue = q :: more := h
        rw [e] at this; cases this
  · refine Inner.plan s _ (by simp) ?_
    intro e _
    dsimp only
    rw [e]; rfl

/-- Changing boundaries leaves the trunk alone. -/
@[simp] theorem changeBoundary_trunk (n : Nat) (c : BoundaryChange) (s : State) :
    (changeBoundary n c s).trunk = s.trunk := by
  unfold changeBoundary
  dsimp only
  split
  · split <;> rfl
  · rfl

theorem setWait_inner (w : WaitState) (s : State) : Inner s (setWait w s) := Inner.planQueue s _ rfl

theorem waitForSchedule_inner (s : State) : Inner s (waitForSchedule s) := by
  unfold waitForSchedule
  split
  · exact Inner.refl s
  · exact (raise_inner _ _ _ _ _).trans (setWait_inner _ _)

theorem endInWait_inner (w : WaitState) (s : State) : Inner s (endInWait w s) := by
  unfold endInWait
  split
  · exact waitForSchedule_inner s
  · exact setWait_inner _ s
  · exact setWait_inner _ s
  · exact setWait_inner _ s

/-! ### Commit -/

/-- What a held insertion leaves alone. -/
theorem insertEntry_held {e : Entry} {s s1 : State} (h : insertEntry e s = .held s1) :
    s1 = s.withPos { s.pos with schedule := placeEntry e s.pos.schedule } ∧ s.pos.p < e.fire ∧
      roomFor e.kind s.pos.schedule.length = true := by
  rcases insertEntry_cases e s with ⟨_, hc⟩ | ⟨hp, hr, hc⟩ | ⟨_, _, hc⟩
  · rw [hc] at h; cases h
  · rw [hc] at h; cases h; exact ⟨rfl, hp, hr⟩
  · rw [hc] at h; cases h

theorem placePlate_inner {k : PlateKind} {o : Option Nat} {g : Grade} {c f : Nat} {late : Bool} {s t : State}
    (h : placePlate k o g c f late s = some t) (hq : s.plan.queue.length < Config.plateSlots)
    (hr : s.trunk.run ≠ .standby) : Inner s t := by
  unfold placePlate at h
  split at h
  · next s1 hi =>
    cases h
    refine (insertEntry_inner hi).trans (Inner.plan _ _ ?_ ?_)
    · obtain ⟨rfl, _, _⟩ := insertEntry_held hi
      simp only [State.withPos_plan, List.length_append, List.length_cons, List.length_nil]
      omega
    · intro _ h0
      obtain ⟨rfl, _, _⟩ := insertEntry_held hi
      exact absurd h0 hr
  · cases h
  · cases h

theorem commitPlate_inner {k : PlateKind} {o : Option Nat} {g : Grade} {c : Nat} {s t : State}
    (h : commitPlate k o g c s = some t) (hq : s.plan.queue.length < Config.plateSlots)
    (hr : s.trunk.run ≠ .standby) : Inner s t := by
  unfold commitPlate at h
  dsimp only at h
  split at h
  · obtain ⟨u, hu, rfl⟩ := Option.map_eq_some_iff.1 h
    exact (placePlate_inner hu hq hr).trans (raise_inner _ _ _ _ _)
  · exact placePlate_inner h hq hr

/-! ### Attempts -/

/-- A commit is found only while the plate queue has room, and never in STANDBY (R89, R100). -/
theorem withRoom_commit {s : State} {n : PlanStep} {k : PlateKind} {o : Option Nat} {g : Grade} {c : Nat}
    (h : withRoom s n = .commit k o g c) : s.plan.queue.length < Config.plateSlots ∧ n = .commit k o g c := by
  unfold withRoom at h
  split at h
  · cases h
  · split at h
    · cases h
    · exact ⟨by omega, h⟩

theorem planStep_commit {s : State} {k : PlateKind} {o : Option Nat} {g : Grade} {c : Nat}
    (h : planStep s = .commit k o g c) : s.plan.queue.length < Config.plateSlots ∧ s.trunk.run ≠ .standby := by
  unfold planStep at h
  split at h
  · next hr =>
    refine ⟨?_, by rw [hr]; decide⟩
    unfold inspectStep at h
    split at h
    · exact (withRoom_commit h).1
    · cases h
  · next hr _ =>
    refine ⟨?_, by rw [hr]; decide⟩
    unfold stoppingStep at h
    split at h
    · exact (withRoom_commit h).1
    · split at h
      · exact (withRoom_commit h).1
      · cases h
  · cases h
  · cases h

theorem planLoop_inner (n : Nat) (s : State) : Inner s (planLoop n s) := by
  induction n generalizing s with
  | zero => exact Inner.refl s
  | succ n ih =>
    unfold planLoop
    split
    · exact endInWait_inner _ s
    · exact Inner.planQueue s _ rfl
    · next h =>
      split
      · exact waitForSchedule_inner s
      · next s1 hc =>
        have hp := planStep_commit h
        have hs := commitPlate_inner hc hp.1 hp.2
        split
        · exact hs.trans (Inner.planQueue _ _ rfl)
        · exact hs.trans (ih s1)

theorem takeGradeSwitch_inner (s : State) : Inner s (takeGradeSwitch s) := by
  unfold takeGradeSwitch
  split
  · exact Inner.refl s
  · exact (switchGrade_inner s).trans (Inner.planQueue _ _ rfl)

/-! ### The end of a stop -/

theorem abandonCut_inner (n : Option Nat) (s : State) : Inner s (abandonCut n s) := by
  unfold abandonCut
  split
  · exact Inner.refl s
  · exact (changeBoundary_inner _ _ s).trans ((Inner.count _ _).trans (raise_inner _ _ _ _ _))

/-- The run state becomes STANDBY with the plate queue empty. -/
theorem toStandby_inner (s : State) (hr : s.trunk.run = .stopping) (hq : s.plan.queue = []) :
    Inner s (s.withTrunk { s.trunk with run := .standby }) := by
  constructor <;> try simp
  · exact Or.inr hr
  · exact fun _ => hq

theorem enterStandby_inner (s : State) (hr : s.trunk.run = .stopping) (hq : s.plan.queue = []) :
    Inner s (enterStandby s) := by
  unfold enterStandby
  dsimp only
  refine Inner.trans ?_ (setWait_inner _ _)
  refine Inner.trans ?_ (banksAtStandby_inner _)
  refine Inner.trans ?_ (emptyMap_inner _)
  refine Inner.trans ?_ (abandonCut_inner _ _)
  refine Inner.trans ?_ (abandonCut_inner _ _)
  refine Inner.trans ?_ (Inner.cutter _ _)
  exact (toStandby_inner s hr hq).trans (emptySchedule_inner _)

theorem checkStopEnd_inner (s : State) : Inner s (checkStopEnd s) := by
  unfold checkStopEnd
  split
  · next h =>
    simp only [Bool.and_eq_true, beq_iff_eq, List.isEmpty_iff] at h
    exact enterStandby_inner s h.1.1 h.2
  · exact Inner.refl s

theorem planningAttempt_inner (s : State) : Inner s (planningAttempt s) := by
  unfold planningAttempt
  split
  · exact Inner.refl s
  · refine (takeGradeSwitch_inner s).trans ?_
    dsimp only
    split
    · exact checkStopEnd_inner _
    · exact (planLoop_inner _ _).trans (checkStopEnd_inner _)

theorem recomputeH_inner (s : State) : Inner s (recomputeH s) := by
  unfold recomputeH
  split
  · dsimp only
    split
    · next h =>
      refine Inner.trans ?_ (planningAttempt_inner _)
      exact Inner.map s _ (le_max_left _ _) id (by simp)
    · exact Inner.refl s
  · exact Inner.refl s

end Sys2Proof.Machine
end

