-- ==== Sys2Proof/Laws/InnerCut.lean ====
section
/-! SUPPORT. `Inner` for the Divert Unit, the Grader and the Cutter Interface, and for a firing list handed whole. -/

namespace Sys2Proof.Machine

/-! ### Divert and grading -/

theorem fireDivert_inner (n : Nat) (s : State) : Inner s (fireDivert n s) := by
  unfold fireDivert
  split
  · exact Inner.refl s
  · refine Inner.trans ?_ (planningAttempt_inner _)
    refine (Inner.divert s _).trans (Inner.plan _ _ ?_ ?_)
    · exact (List.length_filter_le _ _).trans (le_max_left _ _)
    · intro h _
      dsimp only
      rw [h]; rfl

theorem setLastDivert_inner (f : Int) (s : State) : Inner s (setLastDivert f s) := Inner.divert s _

theorem divertAtOnce_inner (n : Nat) (f : Int) (s : State) : Inner s (divertAtOnce n f s) :=
  (raise_inner _ _ _ _ _).trans ((setLastDivert_inner _ _).trans (fireDivert_inner _ _))

theorem beginDivertWait_inner (n f : Nat) (s : State) : Inner s (beginDivertWait n f s) := by
  unfold beginDivertWait
  refine Inner.trans ?_ (Inner.grader _ _)
  split
  · exact Inner.refl s
  · exact raise_inner _ _ _ _ _

theorem scheduleDivert_inner (n a : Nat) (s : State) : Inner s (scheduleDivert n a s) := by
  unfold scheduleDivert
  dsimp only
  split
  · next h => exact (insertEntry_inner h).trans (setLastDivert_inner _ _)
  · exact divertAtOnce_inner _ _ s
  · exact beginDivertWait_inner _ _ s

theorem countPlate_inner (p : Plate) (g : Grade) (t : Tally) (s : State) : Inner s (countPlate p g t s) := Inner.count s _

theorem replacePlate_inner (p : Plate) (s : State) : Inner s (replacePlate p s) :=
  Inner.plan s _ (by simp) (fun h _ => by dsimp only; rw [h]; rfl)

theorem gradePlate_inner (p : Plate) (s : State) : Inner s (gradePlate p s) := by
  unfold gradePlate
  dsimp only
  split
  · refine Inner.trans ?_ (raiseOverrun_inner _ _)
    refine Inner.trans ?_ (scheduleDivert_inner _ _ _)
    refine Inner.trans ?_ (Inner.grader _ _)
    refine Inner.trans ?_ (settleGrade_inner _)
    refine Inner.trans ?_ (countPlate_inner _ _ _ _)
    exact (replacePlate_inner _ s).trans ((removeBehind_inner _ _).trans (handUrgent_inner _ _))
  · refine Inner.trans ?_ (scheduleDivert_inner _ _ _)
    refine Inner.trans ?_ (Inner.grader _ _)
    refine Inner.trans ?_ (settleGrade_inner _)
    refine Inner.trans ?_ (countPlate_inner _ _ _ _)
    exact (replacePlate_inner _ s).trans ((removeBehind_inner _ _).trans (handUrgent_inner _ _))

theorem gradeLoop_inner (n : Nat) (s : State) : Inner s (gradeLoop n s) := by
  induction n generalizing s with
  | zero => exact Inner.refl s
  | succ n ih =>
    unfold gradeLoop
    split
    · exact Inner.refl s
    · split
      · exact (gradePlate_inner _ s).trans (ih _)
      · exact Inner.refl s

theorem gradeTest_inner (s : State) : Inner s (gradeTest s) := gradeLoop_inner _ s

theorem endDivertWait_inner (s : State) : Inner s (endDivertWait s) := Inner.grader s _

theorem retryDivert_inner (s : State) : Inner s (retryDivert s) := by
  unfold retryDivert
  split
  · exact Inner.refl s
  · split
    · next h =>
      refine Inner.trans ?_ (gradeTest_inner _)
      refine Inner.trans ?_ (endDivertWait_inner _)
      exact (insertEntry_inner h).trans (setLastDivert_inner _ _)
    · refine Inner.trans ?_ (gradeTest_inner _)
      exact (endDivertWait_inner s).trans (divertAtOnce_inner _ _ _)
    · exact Inner.refl s

theorem afterDeparture_inner (s : State) : Inner s (afterDeparture s) :=
  (retryDivert_inner s).trans (planningAttempt_inner _)

/-! ### The Cutter Interface -/

theorem missBoundary_inner (n r : Nat) (s : State) : Inner s (missBoundary n r s) :=
  (changeBoundary_inner _ _ s).trans ((Inner.count _ _).trans (raise_inner _ _ _ _ _))

theorem skipBoundary_inner (n : Nat) (s : State) : Inner s (skipBoundary n s) :=
  (changeBoundary_inner _ _ s).trans (Inner.count _ _)

theorem clearPendingCut_inner (s : State) : Inner s (clearPendingCut s) := Inner.cutter s _

theorem clearOutstanding_inner (s : State) : Inner s (clearOutstanding s) := Inner.cutter s _

theorem requestCut_inner (n c : Nat) (s : State) : Inner s (requestCut n c s) := by
  unfold requestCut
  dsimp only
  refine Inner.trans ?_ (Inner.cutter _ _)
  refine Inner.trans ?_ (changeBoundary_inner _ _ _)
  exact Inner.pulses s _ rfl

theorem missOutstanding_inner (n : Nat) (s : State) : Inner s (missOutstanding n s) :=
  (missBoundary_inner _ _ s).trans ((clearOutstanding_inner _).trans (gradeTest_inner _))

theorem raiseRefused_inner (e : Entry) (s : State) : Inner s (raiseRefused e s) := raise_inner _ _ _ _ _

theorem issueCut_inner (d n c : Nat) (s : State) : Inner s (issueCut d n c s) := by
  induction d generalizing n c s with
  | zero => exact Inner.refl s
  | succ d ih =>
    have missed : ∀ u : State, Inner u
        (match (missOutstanding n u).cutter.pendingCut with
        | none => missOutstanding n u
        | some p =>
          if (missOutstanding n u).cutter.busy then missOutstanding n u
          else issueCut d p.plate p.c (removeEntry .issueLimit p.plate (clearPendingCut (missOutstanding n u)))) := by
      intro u
      refine (missOutstanding_inner n u).trans ?_
      split
      · exact Inner.refl _
      · split
        · exact Inner.refl _
        · exact (clearPendingCut_inner _).trans ((removeEntry_inner _ _ _).trans (ih _ _ _))
    unfold issueCut
    dsimp only
    refine Inner.trans ?_ (Inner.count _ _)
    refine (requestCut_inner n c s).trans ?_
    split
    · next h => exact insertEntry_inner h
    · exact missed _
    · exact (missed _).trans (raiseRefused_inner _ _)

theorem issuePending_inner (s : State) : Inner s (issuePending s) := by
  unfold issuePending
  split
  · exact Inner.refl s
  · split
    · exact Inner.refl s
    · exact (clearPendingCut_inner s).trans ((removeEntry_inner _ _ _).trans (issueCut_inner _ _ _ _))

theorem fireIssueLimit_inner (n : Nat) (s : State) : Inner s (fireIssueLimit n s) := by
  unfold fireIssueLimit
  split
  · exact Inner.refl s
  · split
    · exact (missBoundary_inner _ _ s).trans ((clearPendingCut_inner _).trans (gradeTest_inner _))
    · exact Inner.refl s

theorem fireDeadline_inner (n : Nat) (s : State) : Inner s (fireDeadline n s) := by
  unfold fireDeadline
  split
  · exact Inner.refl s
  · split
    · exact (missOutstanding_inner _ s).trans (issuePending_inner _)
    · exact Inner.refl s

theorem makePending_inner (n c : Nat) (s : State) : Inner s (makePending n c s) := by
  unfold makePending
  dsimp only
  have h0 : ∀ x, Inner s ((changeBoundary n (.statusOnly .pending) s).withCutter x) :=
    fun x => (changeBoundary_inner n (.statusOnly .pending) s).trans (Inner.cutter _ x)
  split
  · next h => exact (h0 _).trans (insertEntry_inner h)
  · exact (h0 _).trans (fireIssueLimit_inner _ _)
  · exact (h0 _).trans ((fireIssueLimit_inner _ _).trans (raiseRefused_inner _ _))

theorem displacePending_inner (s : State) : Inner s (displacePending s) := by
  unfold displacePending
  split
  · exact Inner.refl s
  · refine Inner.trans ?_ (gradeTest_inner _)
    exact (removeEntry_inner _ _ s).trans ((clearPendingCut_inner _).trans (missBoundary_inner _ _ _))

theorem fireCut_inner (n : Nat) (s : State) : Inner s (fireCut n s) := by
  unfold fireCut
  split
  · exact Inner.refl s
  · split
    · exact (skipBoundary_inner _ s).trans (gradeTest_inner _)
    · split
      · exact (displacePending_inner s).trans (makePending_inner _ _ _)
      · exact issueCut_inner _ _ _ s

theorem handEntry_inner (e : Entry) (s : State) : Inner s (handEntry e s) := by
  unfold handEntry
  split
  · exact fireCut_inner _ s
  · exact fireIssueLimit_inner _ s
  · exact fireDeadline_inner _ s
  · exact fireDivert_inner _ s

/-- One entry leaves the firing list. -/
theorem popFiring_inner {e : Entry} {rest : List Entry} {s : State} (h : s.pos.firing = e :: rest) :
    Inner s (s.withPos { s.pos with firing := rest }) :=
  Inner.pos s _ (posKept.refl _) id (fun ha => ha) (by simp) (by rw [h]; simp)

/-- A firing list no longer than the steps given is handed whole. -/
theorem handFiring_inner (n : Nat) (s : State) (hn : s.pos.firing.length ≤ n) :
    Inner s (handFiring n s) ∧ (handFiring n s).pos.firing = [] := by
  induction n generalizing s with
  | zero => exact ⟨Inner.refl s, List.eq_nil_of_length_eq_zero (by simpa [handFiring] using hn)⟩
  | succ n ih =>
    unfold handFiring
    split
    · next h => exact ⟨Inner.refl s, h⟩
    · next e rest h =>
      have h1 := popFiring_inner h
      have h2 := handEntry_inner e (s.withPos { s.pos with firing := rest })
      have hl : (handEntry e (s.withPos { s.pos with firing := rest })).pos.firing.length ≤ n := by
        have hr : rest.length ≤ n := by rw [h] at hn; simpa using hn
        exact h2.firing.trans hr
      exact ⟨h1.trans (h2.trans (ih _ hl).1), (ih _ hl).2⟩

/-! ### Edges, hold and fault -/

theorem setCapture_inner (pc : Nat) (b : Bool) (o : CaptureOutcome) (s : State) : Inner s (setCapture pc b o s) :=
  Inner.cutter s _

theorem confirmCut_inner (o : Outstanding) (pc : Nat) (b : Bool) (s : State) : Inner s (confirmCut o pc b s) := by
  unfold confirmCut
  dsimp only
  have tail : ∀ (h : Bool) (u : State), Inner u (if h then afterDeparture u else u) := by
    intro h u
    split
    · exact afterDeparture_inner u
    · exact Inner.refl u
  refine Inner.trans ?_ (tail _ _)
  refine Inner.trans ?_ (gradeTest_inner _)
  refine Inner.trans ?_ (Inner.count _ _)
  refine Inner.trans ?_ (setCapture_inner _ _ _ _)
  refine Inner.trans ?_ (clearOutstanding_inner _)
  refine Inner.trans ?_ (removeEntry_inner _ _ _)
  split
  · exact changeBoundary_inner _ _ s
  · exact (changeBoundary_inner _ _ s).trans (raise_inner _ _ _ _ _)

theorem staleEdge_inner (pc : Nat) (b : Bool) (s : State) : Inner s (staleEdge pc b s) := by
  unfold staleEdge
  refine Inner.trans ?_ (Inner.count _ _)
  exact (raise_inner _ _ _ _ s).trans (setCapture_inner _ _ _ _)

theorem ackRise_inner (b : Bool) (s : State) : Inner s (ackRise b s) := by
  unfold ackRise
  dsimp only
  refine (Inner.cutter s { s.cutter with ackHigh := true }).trans ?_
  split
  · exact staleEdge_inner _ _ _
  · split
    · exact confirmCut_inner _ _ _ _
    · exact staleEdge_inner _ _ _

theorem ackFall_inner (s : State) : Inner s (ackFall s) := by
  unfold ackFall
  dsimp only
  refine (Inner.cutter s { s.cutter with ackHigh := false }).trans ?_
  split
  · exact Inner.refl _
  · split
    · exact Inner.refl _
    · split
      · exact (issuePending_inner _).trans (afterDeparture_inner _)
      · exact issuePending_inner _

theorem holdOnset_inner (s : State) : Inner s (holdOnset s) := by
  unfold holdOnset
  split
  · exact Inner.refl s
  · next p _ =>
    have h : Inner s (gradeTest (clearPendingCut (skipBoundary p.plate (removeEntry .issueLimit p.plate s)))) := by
      refine Inner.trans ?_ (gradeTest_inner _)
      exact (removeEntry_inner _ _ s).trans ((skipBoundary_inner _ _).trans (clearPendingCut_inner _))
    dsimp only
    split
    · exact h.trans (afterDeparture_inner _)
    · exact h

theorem requestHold_inner (s : State) : Inner s (requestHold s) := by
  unfold requestHold
  dsimp only
  refine (Inner.cutter s { s.cutter with requestedHold := true }).trans ?_
  split
  · exact Inner.refl _
  · exact holdOnset_inner _

theorem releaseHold_inner (s : State) : Inner s (releaseHold s) := Inner.cutter s _

theorem faultRise_inner (s : State) : Inner s (faultRise s) := by
  unfold faultRise
  dsimp only
  refine (Inner.cutter s { s.cutter with faultHigh := true }).trans ?_
  split
  · exact raise_inner _ _ _ _ _
  · exact (raise_inner _ _ _ _ _).trans (holdOnset_inner _)

theorem faultFall_inner (s : State) : Inner s (faultFall s) := Inner.cutter s _

end Sys2Proof.Machine
end

