-- ==== Sys2Proof/Laws/Trackers.lean ====
section
/-! SUPPORT. What the background and the blob table keep: the profile's range (R44) and the tracker's slots and age order
(4.1). -/

namespace Sys2Proof.Machine

/-! ### Profiles -/

/-- The pixels of a payload are 10-bit values. -/
theorem mem_unpackPixels {p : Nat} {bs : List Byte} (h : p ∈ unpackPixels bs) : p ≤ 1023 := by
  fun_induction unpackPixels bs with
  | case1 a b c d e rest ih =>
    rcases List.mem_append.1 h with h | h
    · simp only [groupPixels, List.mem_cons, List.not_mem_nil, or_false] at h
      omega
    · exact ih h
  | case2 => cases h

/-- The background moves toward 64·p and stays between its old value and 64·p (R44). -/
theorem adapt_le {k p b : Nat} (hp : p ≤ 1023) (hb : b ≤ 65472) : adapt k p b ≤ 65472 := by
  unfold adapt deviation
  have h2 : (0 : Int) < 2 ^ k := by positivity
  have h3 : (64 * (p : Int) - b) / 2 ^ k ≤ max 0 (64 * (p : Int) - b) := by
    rcases le_total 0 (64 * (p : Int) - b) with h | h
    · exact (Int.ediv_le_self _ h).trans (le_max_right _ _)
    · exact (Int.ediv_nonpos_of_nonpos_of_neg h h2).trans (le_max_left _ _)
  omega

theorem detectColumn_b {t : Threshold} {k c p : Nat} {x : Column} (hp : p ≤ 1023) (hx : x.b ≤ 65472) :
    (detectColumn t k c p x).1.b ≤ 65472 := by
  unfold detectColumn
  split
  · dsimp only
    split
    · exact hx
    · exact adapt_le hp hx
  · dsimp only; omega

theorem detectColumns_length (e : LaneEntry) (bs : List Nat) (ts : List Threshold) (c : Nat) (ps : List Nat)
    (xs : List Column) : (detectColumns e bs ts c ps xs).1.length = xs.length := by
  induction xs generalizing c ps with
  | nil => simp [detectColumns]
  | cons x xs ih =>
    cases ps with
    | nil => simp [detectColumns]
    | cons p ps =>
      unfold detectColumns
      dsimp only
      split <;> simp [ih]

theorem detectColumns_b (e : LaneEntry) (bs : List Nat) (ts : List Threshold) (c : Nat) (ps : List Nat)
    (xs : List Column) (hp : ∀ p ∈ ps, p ≤ 1023) (hx : ∀ x ∈ xs, x.b ≤ 65472) :
    ∀ y ∈ (detectColumns e bs ts c ps xs).1, y.b ≤ 65472 := by
  induction xs generalizing c ps with
  | nil => simp [detectColumns]
  | cons x xs ih =>
    cases ps with
    | nil =>
      intro y hy
      simp only [detectColumns, List.mem_map] at hy
      obtain ⟨z, hz, rfl⟩ := hy
      exact hx z hz
    | cons p ps =>
      have ih' := ih (c + 1) ps (fun q hq => hp q (List.mem_cons_of_mem _ hq))
        (fun z hz => hx z (List.mem_cons_of_mem _ hz))
      have hx0 := hx x List.mem_cons_self
      unfold detectColumns
      dsimp only
      split
      · intro y hy
        rcases List.mem_cons.1 hy with rfl | hy
        · exact detectColumn_b (hp p List.mem_cons_self) hx0
        · exact ih' y hy
      · intro y hy
        rcases List.mem_cons.1 hy with rfl | hy
        · exact hx0
        · exact ih' y hy

/-- A detected line keeps the profile's law. -/
theorem detectColumns_ok {e : LaneEntry} {bs : List Nat} {ts : List Threshold} {l : Line} {p : List Column}
    (h : profileOk p) : profileOk (detectColumns e bs ts 0 l.pixels p).1 :=
  ⟨(detectColumns_length _ _ _ _ _ _).trans h.1, detectColumns_b _ _ _ _ _ _ (fun _ => mem_unpackPixels) h.2⟩

theorem seedColumns_length (e : LaneEntry) (c : Nat) (ps : List Nat) (xs : List Column) :
    (seedColumns e c ps xs).length = xs.length := by
  induction xs generalizing c ps with
  | nil => simp [seedColumns]
  | cons x xs ih => cases ps <;> simp [seedColumns, ih]

theorem seedColumns_b (e : LaneEntry) (c : Nat) (ps : List Nat) (xs : List Column) (hp : ∀ p ∈ ps, p ≤ 1023)
    (hx : ∀ x ∈ xs, x.b ≤ 65472) : ∀ y ∈ seedColumns e c ps xs, y.b ≤ 65472 := by
  induction xs generalizing c ps with
  | nil => simp [seedColumns]
  | cons x xs ih =>
    cases ps with
    | nil =>
      intro y hy
      simp only [seedColumns, List.mem_map] at hy
      obtain ⟨z, hz, rfl⟩ := hy
      exact hx z hz
    | cons p ps =>
      intro y hy
      rcases List.mem_cons.1 hy with rfl | hy
      · have := hp p List.mem_cons_self
        split
        · dsimp only; omega
        · exact hx x List.mem_cons_self
      · exact ih (c + 1) ps (fun q hq => hp q (List.mem_cons_of_mem _ hq))
          (fun z hz => hx z (List.mem_cons_of_mem _ hz)) y hy

/-- A seed line keeps the profile's law. -/
theorem seedColumns_ok {e : LaneEntry} {l : Line} {p : List Column} (h : profileOk p) :
    profileOk (seedColumns e 0 l.pixels p) :=
  ⟨(seedColumns_length _ _ _ _).trans h.1, seedColumns_b _ _ _ _ (fun _ => mem_unpackPixels) h.2⟩

/-! ### Slots and age order -/

theorem Tracker.slot_set (t : Tracker) (j k : Nat) (x : Slot) (a : List Nat) :
    (Tracker.mk (t.slots.set j x) a).slot k = if k = j ∧ j < t.slots.length then x else t.slot k := by
  unfold Tracker.slot
  simp only [List.getD_eq_getElem?_getD, List.getElem?_set]
  split
  · next h =>
    subst h
    split
    · next hj => rw [if_pos ⟨rfl, hj⟩]; rfl
    · next hj =>
      rw [if_neg (fun c => hj c.2), List.getElem?_eq_none (by omega)]
  · next h => rw [if_neg (fun c => h c.1.symm)]

/-- A slot in the age order is one of the 32. -/
theorem Tracker.Ok.lt {t : Tracker} (h : t.Ok) {j : Nat} (hj : j ∈ t.age) : j < t.slots.length := by
  by_contra hn
  have := (h.held j).1 hj
  rw [Tracker.slot, List.getD_eq_getElem?_getD, List.getElem?_eq_none (by omega)] at this
  cases this

/-- A slot in use replaced by another in use keeps its place. -/
theorem Tracker.setSlot_ok {t : Tracker} (h : t.Ok) {j : Nat} {x : Slot} (hj : (t.slot j).isFree = false)
    (hx : x.isFree = false) : (t.setSlot j x).Ok where
  slots := by simp [Tracker.setSlot, h.slots]
  once := h.once
  held k := by
    unfold Tracker.setSlot
    rw [Tracker.slot_set]
    split
    · next hk => rw [hk.1, hx]; exact ⟨fun _ => rfl, fun _ => (h.held j).2 hj⟩
    · exact h.held k

/-- A slot made FREE leaves the age order. -/
theorem Tracker.free_ok {t : Tracker} (h : t.Ok) (j : Nat) : (t.free j).Ok where
  slots := by simp [Tracker.free, h.slots]
  once := h.once.filter _
  held k := by
    unfold Tracker.free
    rw [Tracker.slot_set]
    simp only [List.mem_filter, bne_iff_ne]
    split
    · next hk => simp [hk.1, Slot.isFree]
    · next hk =>
      rw [h.held k]
      refine ⟨fun x => x.1, fun x => ⟨x, ?_⟩⟩
      rintro rfl
      exact hk ⟨rfl, h.lt ((h.held k).2 x)⟩

theorem Tracker.freeAll_ok {t : Tracker} (h : t.Ok) (js : List Nat) : (t.freeAll js).Ok := by
  unfold Tracker.freeAll
  induction js generalizing t with
  | nil => exact h
  | cons j js ih => exact ih (free_ok h j)

/-- A slot made OPEN or CONTINUATION becomes the youngest. -/
theorem Tracker.enter_ok {t : Tracker} (h : t.Ok) {j : Nat} {x : Slot} (hj : j < t.slots.length)
    (hx : x.isFree = false) : (t.enter j x).Ok where
  slots := by simp [Tracker.enter, h.slots]
  once := by
    unfold Tracker.enter
    rw [List.nodup_append]
    refine ⟨h.once.filter _, List.nodup_singleton j, ?_⟩
    rintro a ha b hb rfl
    simp only [List.mem_filter, bne_iff_ne, List.mem_singleton] at ha hb
    exact ha.2 hb
  held k := by
    unfold Tracker.enter
    rw [Tracker.slot_set]
    simp only [List.mem_append, List.mem_filter, bne_iff_ne, List.mem_singleton]
    by_cases hk : k = j
    · rw [if_pos ⟨hk, hj⟩, hx]; exact ⟨fun _ => rfl, fun _ => .inr hk⟩
    · rw [if_neg (fun c => hk c.1), ← h.held k]
      exact ⟨fun c => c.elim (fun d => d.1) (fun d => absurd d hk), fun c => .inl ⟨c, hk⟩⟩

theorem Tracker.foldInto_ok {t : Tracker} (h : t.Ok) (m x : Nat) : (Tracker.foldInto m t x).Ok := by
  unfold Tracker.foldInto
  split
  · next b c hb hc => exact free_ok (setSlot_ok h (by rw [hb]; rfl) rfl) x
  · exact h

theorem Tracker.foldAll_ok {t : Tracker} (h : t.Ok) (m : Nat) (xs : List Nat) :
    (xs.foldl (Tracker.foldInto m) t).Ok := by
  induction xs generalizing t with
  | nil => exact h
  | cons x xs ih => exact ih (foldInto_ok h m x)

theorem Tracker.joinRun_ok {t : Tracker} (h : t.Ok) (r : Run) (m : Nat) (cands conts : List Nat) :
    (t.joinRun r m cands conts).Ok := by
  unfold Tracker.joinRun
  split
  · next b hb => exact freeAll_ok (foldAll_ok (setSlot_ok h (by rw [hb]; rfl) rfl) m _) conts
  · exact h
  · exact h

@[simp] theorem Tracker.freeAll_slots_length (t : Tracker) (js : List Nat) :
    (t.freeAll js).slots.length = t.slots.length := by
  unfold Tracker.freeAll
  induction js generalizing t with
  | nil => rfl
  | cons j js ih => exact (ih (t.free j)).trans (by simp [Tracker.free])

theorem Tracker.openingSlot_lt {t : Tracker} (h : t.Ok) {conts : List Nat} (hc : ∀ j ∈ conts, j ∈ t.age) {j : Nat}
    (hj : t.openingSlot conts = some j) : j < t.slots.length := by
  unfold Tracker.openingSlot at hj
  split at hj
  · cases hj; exact h.lt (hc _ List.mem_cons_self)
  · split at hj
    · next hf => cases hj; exact (List.findIdx?_eq_some_iff_findIdx_eq.1 hf).1
    · exact h.lt (List.mem_of_find?_eq_some hj)

/-- One run taken keeps the tracker's law. -/
theorem Tracker.takeRun_ok {t : Tracker} (h : t.Ok) (lim : BankId → Nat) (tag : BankId) (p : Nat) (r : Run) :
    (t.takeRun lim tag p r).1.Ok := by
  unfold Tracker.takeRun
  dsimp only
  split
  · exact joinRun_ok h _ _ _ _
  · split
    · next j hj =>
      refine enter_ok (freeAll_ok h _) ?_ rfl
      rw [freeAll_slots_length]
      exact openingSlot_lt h (fun k hk => (List.mem_filter.1 hk).1) hj
    · exact h

theorem Slot.endLine_free (p : Nat) : Slot.endLine p .free = .free := rfl

/-- The end of a line keeps the tracker's law. -/
theorem Tracker.endLine_ok {t : Tracker} (h : t.Ok) (p : Nat) : (t.endLine p).Ok where
  slots := by simp [Tracker.endLine, h.slots]
  once := h.once.filter _
  held k := by
    have hs : ∀ j, (t.endLine p).slot j = (t.slot j).endLine p := by
      intro j
      unfold Tracker.endLine Tracker.slot
      simp only [List.getD_eq_getElem?_getD, List.getElem?_map]
      cases t.slots[j]? <;> rfl
    have hm : k ∈ (t.endLine p).age ↔ k ∈ t.age ∧ ((t.endLine p).slot k).isFree = false := by
      unfold Tracker.endLine
      simp only [List.mem_filter, Bool.not_eq_true']
      rfl
    rw [hm]
    refine ⟨fun x => x.2, fun x => ⟨(h.held k).2 ?_, x⟩⟩
    rw [hs] at x
    cases hk : t.slot k with
    | free => rw [hk] at x; cases x
    | blob b => rfl
    | continuation c => rfl

/-- The empty tracker keeps the law. -/
theorem Tracker.empty_ok : Tracker.empty.Ok where
  slots := by simp [Tracker.empty]
  once := List.nodup_nil
  held k := by
    have : Tracker.empty.slot k = .free := by
      unfold Tracker.slot Tracker.empty
      simp only [List.getD_eq_getElem?_getD, List.getElem?_replicate]
      split <;> rfl
    rw [this]
    simp [Tracker.empty, Slot.isFree]

end Sys2Proof.Machine
end

