-- ==== Sys2Proof/Laws/InnerLine.lean ====
section
/-! SUPPORT. `Inner` for detection, tracking and the Lane Receiver. -/

namespace Sys2Proof.Machine

/-! ### Detection -/

theorem seedLine_inner (i : LaneId) (b : BankId) (l : Line) (s : State) : Inner s (seedLine i b l s) :=
  Inner.setProfile s i _ seedColumns_ok

theorem overflowRuns_inner (i : LaneId) (d t : Nat) (s : State) : Inner s (overflowRuns i d t s) := by
  unfold overflowRuns
  split
  · exact Inner.refl s
  · exact (raise_inner _ _ _ _ s).trans (Inner.count _ _)

theorem detectLine_inner (i : LaneId) (b : BankId) (l : Line) (s : State) : Inner s (detectLine i b l s).1 :=
  (Inner.setProfile s i _ detectColumns_ok).trans (overflowRuns_inner _ _ _ _)

/-! ### Tracking -/

theorem settleBlob_inner (i : LaneId) (b : Blob) (c : Bool) (s : State) : Inner s (settleBlob i b c s) := by
  unfold settleBlob
  dsimp only
  split
  · exact Inner.count s _
  · exact Inner.count s _
  · exact Inner.count s _
  · exact (Inner.flawId s _).trans ((enterFlaw_inner _ _).trans (copyFlaw_inner _ _))

@[simp] theorem settleBlob_lanes (i : LaneId) (b : Blob) (c : Bool) (s : State) :
    (settleBlob i b c s).lanes = s.lanes := by
  unfold settleBlob
  dsimp only
  split
  · rfl
  · rfl
  · rfl
  · rw [copyFlaw_lanes, enterFlaw_lanes]; rfl

theorem closeSlot_inner (i : LaneId) (seg : Bool) (s : State) (j : Nat) : Inner s (closeSlot i seg s j) := by
  unfold closeSlot
  split
  · next b hb =>
    have hl : ∀ c, (settleBlob i b c s).lane i = s.lane i := fun c =>
      congrArg (fun x => PerLane.get x i) (settleBlob_lanes i b c s)
    dsimp only
    refine Inner.trans ?_ (recomputeH_inner _)
    refine Inner.trans ?_ (settleDetect_inner _)
    refine (settleBlob_inner i b seg s).trans (Inner.setTracker _ _ _ ?_)
    rw [hl]
    intro h
    have hj : j < (s.lane i).tracker.slots.length := h.lt ((h.held j).2 (by rw [hb]; rfl))
    split
    · exact Tracker.enter_ok h hj rfl
    · exact Tracker.free_ok h j
  · exact Inner.refl s
  · exact Inner.refl s

/-- A fold of inner operations is inner. -/
theorem Inner.foldl {α : Type} {f : State → α → State} (h : ∀ s a, Inner s (f s a)) (xs : List α) (s : State) :
    Inner s (xs.foldl f s) := by
  induction xs generalizing s with
  | nil => exact Inner.refl s
  | cons x xs ih => exact (h s x).trans (ih _)

theorem closeDue_inner (i : LaneId) (s : State) : Inner s (closeDue i s) := by
  unfold closeDue
  dsimp only
  refine Inner.foldl ?_ _ s
  intro u j
  split
  · exact closeSlot_inner _ _ _ _
  · exact closeSlot_inner _ _ _ _
  · exact Inner.refl u

theorem flush_inner (i : LaneId) (s : State) : Inner s (flush i s) := by
  unfold flush
  dsimp only
  refine Inner.trans (Inner.foldl (closeSlot_inner i false) _ s) (Inner.setTracker _ _ _ ?_)
  exact fun h => Tracker.freeAll_ok h _

theorem takeRun_inner (i : LaneId) (tag : BankId) (p : Nat) (x : State × Nat) (r : Run) :
    Inner x.1 (takeRun i tag p x r).1 := by
  unfold takeRun
  dsimp only
  have h := (Inner.setTracker x.1 i _ fun h => Tracker.takeRun_ok h (fun b => (x.1.laneEntry b i).idleLines) tag p r).trans
    (settleDetect_inner _)
  revert h
  generalize Tracker.takeRun _ _ _ _ _ = y
  intro h
  split
  · dsimp only
    exact h.trans (Inner.count (settleDetect (x.1.setTracker i y.1)) _)
  · exact h

theorem takeRuns_inner (i : LaneId) (tag : BankId) (p : Nat) (rs : List Run) (x : State × Nat) :
    Inner x.1 (rs.foldl (takeRun i tag p) x).1 := by
  induction rs generalizing x with
  | nil => exact Inner.refl _
  | cons r rs ih => exact (takeRun_inner i tag p x r).trans (ih _)

theorem endOfLine_inner (i : LaneId) (p : Nat) (s : State) : Inner s (endOfLine i p s) :=
  (Inner.setTracker s i _ fun h => Tracker.endLine_ok h p).trans (closeDue_inner _ _)

theorem trackRuns_inner (i : LaneId) (tag : BankId) (p t : Nat) (rs : List Run) (s : State) :
    Inner s (trackRuns i tag p t rs s) := by
  unfold trackRuns
  dsimp only
  have h := (takeRuns_inner i tag p rs (s, 0)).trans (endOfLine_inner i p _)
  split
  · exact h
  · exact h.trans (raise_inner _ _ _ _ _)

theorem trackIdle_inner (i : LaneId) (n : Nat) (s : State) : Inner s (trackIdle i n s) := by
  induction n generalizing s with
  | zero => exact Inner.refl s
  | succ n ih => exact (endOfLine_inner i 0 s).trans (ih _)

/-! ### The Lane Receiver -/

theorem copyForward_keeps (f : ForwardLine) (x : Receiver) :
    (x.copyForward f).inHand = x.inHand ∧ (x.copyForward f).link = x.link ∧
      (x.copyForward f).headSending = x.headSending ∧ (x.copyForward f).forward = x.forward := by
  unfold Receiver.copyForward
  split <;> exact ⟨rfl, rfl, rfl, rfl⟩

theorem copyIf_inner (m : ForwardMode) (i : LaneId) (l : Line) (p : Option Nat) (s : State) :
    Inner s (copyIf m i l p s) := by
  unfold copyIf
  split
  · exact Inner.modRx s i _ (copyForward_keeps _ _)
  · exact Inner.refl s

theorem setLaneState_inner (i : LaneId) (st : LaneState) (s : State) : Inner s (setLaneState i st s) :=
  (Inner.modRx s i _ ⟨rfl, rfl, rfl, rfl⟩).trans (recomputeH_inner _)

theorem enterWaiting_inner (i : LaneId) (a : Nat) (s : State) : Inner s (enterWaiting i a s) :=
  (Inner.modRx s i _ ⟨rfl, rfl, rfl, rfl⟩).trans (openGapIfNone_inner _ _ _)

theorem enterSilent_inner (i : LaneId) (a : Nat) (s : State) : Inner s (enterSilent i a s) := by
  unfold enterSilent
  dsimp only
  refine Inner.trans ?_ (setLaneState_inner _ _ _)
  refine Inner.trans ?_ (releaseLineBinding_inner _ _)
  refine Inner.trans ?_ (Inner.modRx _ i _ ⟨rfl, rfl, rfl, rfl⟩)
  refine Inner.trans ?_ (openGapIfNone_inner _ _ _)
  split
  · exact flush_inner i s
  · exact Inner.refl s

theorem goSilent_inner (i : LaneId) (c : Nat) (s : State) : Inner s (goSilent i c s) :=
  (enterSilent_inner _ _ s).trans (raise_inner _ _ _ _ _)

theorem silenceExpiry_inner (i : LaneId) (s : State) : Inner s (silenceExpiry i s) := by
  unfold silenceExpiry
  split
  · exact goSilent_inner i 1 s
  · exact Inner.refl s

theorem inspectLine_inner (i : LaneId) (x : Taken) (s : State) : Inner s (inspectLine i x s) := by
  unfold inspectLine
  dsimp only
  have h := detectLine_inner i x.bank x.line s
  have h2 : Inner s (if x.behind then
      (trackIdle i 1 (detectLine i x.bank x.line s).1).count
        fun c => { c with behindHorizon := bump32 c.behindHorizon }
    else
      (trackRuns i x.bank x.position x.line.trigger (detectLine i x.bank x.line s).2
          (detectLine i x.bank x.line s).1).count
        fun c => { c with linesInspected := c.linesInspected.set i (bump32 (c.linesInspected.get i)) }) := by
    split
    · exact (h.trans (trackIdle_inner _ _ _)).trans (Inner.count _ _)
    · exact (h.trans (trackRuns_inner _ _ _ _ _ _)).trans (Inner.count _ _)
  split
  · exact h2
  · exact h2.trans (copyIf_inner _ _ _ _ _)

theorem saturateLine_inner (i : LaneId) (x : Taken) (s : State) : Inner s (saturateLine i x s) := by
  unfold saturateLine
  dsimp only
  split
  · exact (Inner.modRx s i _ ⟨rfl, rfl, rfl, rfl⟩).trans (inspectLine_inner _ _ _)
  · split
    · exact (Inner.modRx s i _ ⟨rfl, rfl, rfl, rfl⟩).trans (inspectLine_inner _ _ _)
    · refine Inner.trans ?_ (enterSilent_inner _ _ _)
      exact (Inner.modRx s i _ ⟨rfl, rfl, rfl, rfl⟩).trans (raise_inner _ _ _ _ _)

theorem handleMissing_inner (i : LaneId) (t p : Nat) (s : State) : Inner s (handleMissing i t p s) := by
  unfold handleMissing
  split
  · exact Inner.refl s
  · dsimp only
    split
    · exact Inner.refl s
    · refine Inner.trans ?_ (closedGap_inner _ _ _ _)
      refine Inner.trans ?_ (trackIdle_inner _ _ _)
      exact (raise_inner _ _ _ _ s).trans (Inner.modRx _ i _ ⟨rfl, rfl, rfl, rfl⟩)

theorem finishOldBank_inner (i : LaneId) (t : Nat) (s : State) : Inner s (finishOldBank i t s) := by
  unfold finishOldBank
  split
  · split
    · exact releaseLineBinding_inner i s
    · exact Inner.refl s
  · exact Inner.refl s

theorem take_inner (i : LaneId) (t p : Nat) (s : State) : Inner s (s.modRx i (Receiver.take t p)) :=
  Inner.modRx s i _ ⟨rfl, rfl, rfl, rfl⟩

theorem lineInRunning_inner (i : LaneId) (x : Taken) (s : State) : Inner s (lineInRunning i x s) := by
  unfold lineInRunning
  dsimp only
  have h := ((finishOldBank_inner i x.line.trigger s).trans
    (handleMissing_inner i x.line.trigger x.position _)).trans (take_inner i x.line.trigger x.position _)
  split
  · exact h.trans (saturateLine_inner _ _ _)
  · exact h.trans ((trackIdle_inner _ _ _).trans (closedGap_inner _ _ _ _))

theorem seedFrom_inner (i : LaneId) (x : Taken) (s : State) : Inner s (seedFrom i x s) := by
  unfold seedFrom
  dsimp only
  refine Inner.trans ?_ (setLaneState_inner _ _ _)
  refine Inner.trans ?_ (Inner.modRx _ i _ ⟨rfl, rfl, rfl, rfl⟩)
  exact (seedLine_inner _ _ _ s).trans (closeGap_inner _ _ _)

theorem lineInWaiting_inner (i : LaneId) (x : Taken) (s : State) : Inner s (lineInWaiting i x s) := by
  unfold lineInWaiting
  dsimp only
  split
  · exact (take_inner _ _ _ s).trans (seedFrom_inner _ _ _)
  · exact take_inner _ _ _ s

theorem lineInSilent_inner (i : LaneId) (x : Taken) (s : State) : Inner s (lineInSilent i x s) := by
  unfold lineInSilent
  dsimp only
  refine (take_inner i x.line.trigger x.position s).trans ?_
  split
  · exact Inner.refl _
  · split
    · exact seedFrom_inner _ _ _
    · refine Inner.trans ?_ (saturateLine_inner _ _ _)
      refine Inner.trans ?_ (setLaneState_inner _ _ _)
      refine Inner.trans ?_ (Inner.modRx _ i _ ⟨rfl, rfl, rfl, rfl⟩)
      exact closeGap_inner _ _ _

/-- What happens while a line of a lane is in handling, between the two ends of the handling (R81). -/
theorem Inner.whileInHand {i : LaneId} {x : Nat} {s u : State} (h0 : (s.rx i).inHand = none)
    (h : Inner (s.modRx i fun r => { r with inHand := some x }) u) :
    Inner s (u.modRx i fun r => { r with inHand := none }) := by
  have e : ∀ j, ((s.modRx i fun r => { r with inHand := some x }).rx j) =
      if j = i then { s.rx i with inHand := some x } else s.rx j := fun j => State.modRx_rx _ _ _ _
  have e2 : ∀ j, ((u.modRx i fun r => { r with inHand := none }).rx j) =
      if j = i then { u.rx i with inHand := none } else u.rx j := fun j => State.modRx_rx _ _ _ _
  refine { h with inHand := ?_, link := ?_, headSending := ?_, forward := ?_, profile := ?_, tracker := ?_ }
  · intro j
    have := h.inHand j
    rw [e2]; rw [e] at this
    split
    · next hj => subst hj; exact h0.symm
    · next hj => simpa [hj] using this
  · intro j
    have := h.link j
    rw [e2]; rw [e] at this
    split
    · next hj => subst hj; simpa using this
    · next hj => simpa [hj] using this
  · intro j
    have := h.headSending j
    rw [e2]; rw [e] at this
    split
    · next hj => subst hj; simpa using this
    · next hj => simpa [hj] using this
  · intro j
    have := h.forward j
    rw [e2]; rw [e] at this
    split
    · next hj => subst hj; simpa using this
    · next hj => simpa [hj] using this
  · intro j
    have := h.profile j
    simpa using this
  · intro j
    have := h.tracker j
    simpa using this

theorem handleGood_inner (i : LaneId) (x : Taken) (s : State) (h0 : (s.rx i).inHand = none) :
    Inner s (handleGood i x s) := by
  unfold handleGood
  dsimp only
  refine Inner.trans (Inner.whileInHand (x := x.position) h0 ?_) (recomputeH_inner _)
  split
  · exact lineInWaiting_inner _ _ _
  · exact lineInRunning_inner _ _ _
  · exact lineInSilent_inner _ _ _
  · exact Inner.refl _
  · exact Inner.refl _

theorem placeLine_inner (i : LaneId) (l : Line) (b : Option BankId) (s : State) (h0 : (s.rx i).inHand = none) :
    Inner s (placeLine i l b s) := by
  unfold placeLine
  dsimp only
  have hc := copyIf_inner .all i l (lookupTrigger l.trigger s) s
  have h1 := (hc.inHand i).trans h0
  split
  · refine Inner.trans ?_ (recomputeH_inner _)
    exact hc.trans ((Inner.modRx _ i _ ⟨rfl, rfl, rfl, rfl⟩).trans (raise_inner _ _ _ _ _))
  · split
    · exact (hc.trans (Inner.modRx _ i _ ⟨rfl, rfl, rfl, rfl⟩)).trans (recomputeH_inner _)
    · exact hc.trans (handleGood_inner _ _ _ h1)

theorem countMalformed_inner (i : LaneId) (s : State) : Inner s (countMalformed i s) :=
  Inner.modRx s i _ ⟨rfl, rfl, rfl, rfl⟩

theorem lineArrives_inner (i : LaneId) (f : Frame) (s : State) (h0 : (s.rx i).inHand = none) :
    Inner s (lineArrives i f s) := by
  unfold lineArrives
  split
  · exact Inner.refl s
  · split
    · exact countMalformed_inner i s
    · exact copyIf_inner _ _ _ _ _
  all_goals
    split
    · exact countMalformed_inner i s
    · exact placeLine_inner _ _ _ _ h0

theorem enableLane_inner (i : LaneId) (s : State) : Inner s (enableLane i s) := by
  unfold enableLane
  split
  · exact (enterWaiting_inner _ _ s).trans (setLaneState_inner _ _ _)
  · exact setLaneState_inner _ _ s
  · exact setLaneState_inner _ _ s
  · exact Inner.refl s

theorem disableLane_inner (i : LaneId) (s : State) : Inner s (disableLane i s) := by
  unfold disableLane
  refine (Inner.modRx s i _ ⟨rfl, rfl, rfl, rfl⟩ : Inner s (discardSlot i s)).trans ?_
  dsimp only
  split
  · exact setLaneState_inner _ _ _
  · exact setLaneState_inner _ _ _
  · exact setLaneState_inner _ _ _
  · exact setLaneState_inner _ _ _
  · refine Inner.trans ?_ (setLaneState_inner _ _ _)
    refine Inner.trans ?_ (releaseLineBinding_inner _ _)
    exact (flush_inner _ _).trans (openGap_inner _ _ _)
  · exact Inner.refl _

theorem startLane_inner (a : Nat) (s : State) (i : LaneId) : Inner s (startLane a s i) := by
  unfold startLane
  split
  · exact (enterWaiting_inner i a s).trans (Inner.modRx _ i _ ⟨rfl, rfl, rfl, rfl⟩)
  · exact Inner.refl s

theorem idleLane_keeps (x : Receiver) : (idleLane x).inHand = x.inHand ∧ (idleLane x).link = x.link ∧
    (idleLane x).headSending = x.headSending ∧ (idleLane x).forward = x.forward := by
  unfold idleLane
  split <;> exact ⟨rfl, rfl, rfl, rfl⟩

theorem stopLanes_inner (s : State) : Inner s (stopLanes s).1 := by
  unfold stopLanes
  dsimp only
  refine Inner.trans ?_ (settleDetect_inner _)
  refine Inner.trans ?_ (Inner.foldl (fun u i => Inner.modRx u i idleLane (idleLane_keeps _)) _ _)
  refine Inner.trans ?_ (Inner.foldl (fun u i => closeGap_inner i _ u) _ _)
  refine Inner.foldl ?_ _ _
  intro u i
  split
  · exact flush_inner i u
  · exact Inner.refl u

end Sys2Proof.Machine
end

