-- ==== Sys2Proof/Laws/Quiet.lean ====
section
/-! SUPPORT. `Quiet s t` says once what raising, tracking, planning and grading leave of the Cutter Interface and of the Lane
Receivers: everything, but for the line bindings and for a start cut abandoned at an entry to STANDBY; and that it leaves the
profiles and the contents of the DETECT tables alone. -/

namespace Sys2Proof.Machine

/-- A receiver is the same but for its line binding. -/
def rxSame (x y : Receiver) : Prop := y = { x with lineBinding := y.lineBinding }

theorem rxSame.refl (x : Receiver) : rxSame x x := rfl

theorem rxSame.trans {x y z : Receiver} (h : rxSame x y) (k : rxSame y z) : rxSame x z := by
  unfold rxSame at *
  rw [h] at k
  exact k

/-- What raising, tracking, planning and grading keep. -/
structure Quiet (s t : State) : Prop where
  seqLevel : t.cutter.seqLevel = s.cutter.seqLevel
  requestedHold : t.cutter.requestedHold = s.cutter.requestedHold
  faultHigh : t.cutter.faultHigh = s.cutter.faultHigh
  ackHigh : t.cutter.ackHigh = s.cutter.ackHigh
  lastCapture : t.cutter.lastCapture = s.cutter.lastCapture
  outstanding : t.cutter.outstanding = s.cutter.outstanding ∨ (t.cutter.outstanding = none ∧ t.trunk.run = .standby)
  pendingCut : t.cutter.pendingCut = s.cutter.pendingCut ∨ (t.cutter.pendingCut = none ∧ t.trunk.run = .standby)
  pulses : t.pulses = s.pulses
  standby : s.trunk.run = .standby → t.trunk.run = .standby
  inspect : s.trunk.run = .inspect → t.trunk.run = .inspect
  rx : ∀ i, rxSame (s.rx i) (t.rx i)
  profile : ∀ i, (t.lane i).profile = (s.lane i).profile
  tables : ∀ b, t.detectTables b = s.detectTables b

theorem Quiet.refl (s : State) : Quiet s s :=
  ⟨rfl, rfl, rfl, rfl, rfl, .inl rfl, .inl rfl, rfl, id, id, fun _ => rfl, fun _ => rfl, fun _ => rfl⟩

theorem Quiet.trans {s t u : State} (a : Quiet s t) (b : Quiet t u) : Quiet s u where
  seqLevel := b.seqLevel.trans a.seqLevel
  requestedHold := b.requestedHold.trans a.requestedHold
  faultHigh := b.faultHigh.trans a.faultHigh
  ackHigh := b.ackHigh.trans a.ackHigh
  lastCapture := b.lastCapture.trans a.lastCapture
  outstanding := by
    rcases b.outstanding with h | h
    · rcases a.outstanding with k | k
      · exact .inl (h.trans k)
      · exact .inr ⟨h.trans k.1, b.standby k.2⟩
    · exact .inr h
  pendingCut := by
    rcases b.pendingCut with h | h
    · rcases a.pendingCut with k | k
      · exact .inl (h.trans k)
      · exact .inr ⟨h.trans k.1, b.standby k.2⟩
    · exact .inr h
  pulses := b.pulses.trans a.pulses
  standby h := b.standby (a.standby h)
  inspect h := b.inspect (a.inspect h)
  rx i := (a.rx i).trans (b.rx i)
  profile i := (b.profile i).trans (a.profile i)
  tables i := (b.tables i).trans (a.tables i)

/-- A state whose cutter, pulses, run state, lanes and DETECT tables are the same. -/
theorem Quiet.same {s t : State} (hc : t.cutter = s.cutter) (hp : t.pulses = s.pulses) (hr : t.trunk.run = s.trunk.run)
    (hl : t.lanes = s.lanes) (ht : ∀ b, t.detectTables b = s.detectTables b := by intro _; rfl) : Quiet s t where
  seqLevel := by rw [hc]
  requestedHold := by rw [hc]
  faultHigh := by rw [hc]
  ackHigh := by rw [hc]
  lastCapture := by rw [hc]
  outstanding := .inl (by rw [hc])
  pendingCut := .inl (by rw [hc])
  pulses := hp
  standby h := hr.trans h
  inspect h := hr.trans h
  rx i := by
    have : t.rx i = s.rx i := by unfold State.rx State.lane; rw [hl]
    rw [this]; rfl
  profile i := by unfold State.lane; rw [hl]
  tables := ht

/-- A change of one lane that keeps its receiver but for the line binding. -/
theorem Quiet.lane (s : State) (i : LaneId) (l : Lane) (h : rxSame (s.rx i) l.rx)
    (hp : l.profile = (s.lane i).profile) : Quiet s (s.setLane i l) where
  seqLevel := rfl
  requestedHold := rfl
  faultHigh := rfl
  ackHigh := rfl
  lastCapture := rfl
  outstanding := .inl rfl
  pendingCut := .inl rfl
  pulses := rfl
  standby := id
  inspect := id
  rx j := by
    unfold State.rx
    rw [State.setLane_lane]
    split
    · next hj => rw [hj]; exact h
    · rfl
  profile j := by
    rw [State.setLane_lane]
    split
    · next hj => rw [hj]; exact hp
    · rfl
  tables _ := rfl

theorem Quiet.setTracker (s : State) (i : LaneId) (t : Tracker) : Quiet s (s.setTracker i t) := Quiet.lane s i _ rfl rfl

/-- A change of all lanes that keeps the receivers but for the line bindings. -/
theorem Quiet.lanes (s : State) (x : PerLane Lane) (h : ∀ i, rxSame (s.rx i) (x.get i).rx)
    (hp : ∀ i, (x.get i).profile = (s.lane i).profile) : Quiet s (s.withLanes x) where
  seqLevel := rfl
  requestedHold := rfl
  faultHigh := rfl
  ackHigh := rfl
  lastCapture := rfl
  outstanding := .inl rfl
  pendingCut := .inl rfl
  pulses := rfl
  standby := id
  inspect := id
  rx := h
  profile := hp
  tables _ := rfl

/-! ### Raises, counts and outbound records -/

theorem Quiet.count (s : State) (f : Report → Report) : Quiet s (s.count f) := Quiet.same rfl rfl rfl rfl

theorem Quiet.plan (s : State) (x : Planner) : Quiet s (s.withPlan x) := Quiet.same rfl rfl rfl rfl

theorem Quiet.map (s : State) (x : FlawMap) : Quiet s (s.withMap x) := Quiet.same rfl rfl rfl rfl

theorem Quiet.pos (s : State) (x : PositionUnit) : Quiet s (s.withPos x) := Quiet.same rfl rfl rfl rfl

theorem Quiet.store (s : State) (x : TableStore) (h : ∀ b, (x.detect.get b).tables = (s.store.detect.get b).tables) :
    Quiet s (s.withStore x) := Quiet.same rfl rfl rfl rfl h

/-- A change of a bank's state leaves the tables. -/
theorem setState_tables {α : Type} (g : Group α) (a b : BankId) (st : BankState) :
    ((g.setState a st).get b).tables = (g.get b).tables := by
  fin_cases a <;> fin_cases b <;> rfl

theorem switch_tables {α : Type} (g : Group α) (new : BankId) (old : Option BankId) (bound : Bool) (b : BankId) :
    ((g.switch new old bound).get b).tables = (g.get b).tables := by
  unfold Group.switch
  dsimp only
  rw [setState_tables]
  split
  · rw [setState_tables]
  · rfl

theorem toLoaded_tables {α : Type} (g : Group α) (st : BankState) (b : BankId) :
    ((g.toLoaded st).get b).tables = (g.get b).tables := by
  unfold Group.toLoaded
  fin_cases b
  · show (if g.bank0.state == st then _ else _ : Bank α).tables = g.bank0.tables
    split <;> rfl
  · show (if g.bank1.state == st then _ else _ : Bank α).tables = g.bank1.tables
    split <;> rfl

theorem Quiet.grader (s : State) (x : Grader) : Quiet s (s.withGrader x) := Quiet.same rfl rfl rfl rfl

theorem Quiet.cond (s : State) (x : ConditionUnit) : Quiet s (s.withCond x) := Quiet.same rfl rfl rfl rfl

theorem Quiet.flawId (s : State) (x : Nat) : Quiet s (s.withFlawId x) := Quiet.same rfl rfl rfl rfl

theorem Quiet.divert (s : State) (x : Divert) : Quiet s (s.withDivert x) := Quiet.same rfl rfl rfl rfl

theorem handUrgent_quiet (r : Urgent) (s : State) : Quiet s (handUrgent r s).1 := by
  unfold handUrgent
  split <;> exact Quiet.same rfl rfl rfl rfl

theorem handleLine_quiet (k : CondKind) (lane : Option LaneId) (d1 d2 : Nat) (e : Bool) (s : State) :
    Quiet s (handleLine k lane d1 d2 e s).1 := by
  unfold handleLine
  split
  · exact (Quiet.cond s _).trans (handUrgent_quiet _ _)
  · exact Quiet.same rfl rfl rfl rfl

theorem handleGantry_quiet (k : CondKind) (lane : Option LaneId) (d1 d2 : Nat) (s : State) :
    Quiet s (handleGantry k lane d1 d2 s).1 := by
  unfold handleGantry
  split
  · exact (Quiet.cond s _).trans (handUrgent_quiet _ _)
  · exact (Quiet.cond s _).trans (handleLine_quiet _ _ _ _ _ _)

theorem raiseOnce_quiet (k : CondKind) (lane : Option LaneId) (d1 d2 : Nat) (s : State) :
    Quiet s (raiseOnce k lane d1 d2 s).1 := by
  unfold raiseOnce
  refine Quiet.trans (t := countRaise k s) (Quiet.same rfl rfl rfl rfl) ?_
  dsimp only
  split
  · exact Quiet.refl _
  · exact handleGantry_quiet _ _ _ _ _
  · exact handleLine_quiet _ _ _ _ _ _

theorem raise_quiet (k : CondKind) (lane : Option LaneId) (d1 d2 : Nat) (s : State) : Quiet s (raise k lane d1 d2 s) := by
  unfold raise
  dsimp only
  split
  · exact (raiseOnce_quiet _ _ _ _ _).trans (raiseOnce_quiet _ _ _ _ _)
  · exact raiseOnce_quiet _ _ _ _ _

theorem raiseOverrun_quiet (r : Urgent) (s : State) : Quiet s (raiseOverrun r s) := raise_quiet _ _ _ _ _

theorem handRecord_quiet (r : Urgent) (s : State) : Quiet s (handRecord r s) := by
  unfold handRecord
  dsimp only
  split
  · exact (handUrgent_quiet r s).trans (raiseOverrun_quiet r _)
  · exact handUrgent_quiet r s

theorem copyFlaw_quiet (r : FlawRecord) (s : State) : Quiet s (copyFlaw r s) := by
  unfold copyFlaw
  split <;> exact Quiet.same rfl rfl rfl rfl

/-! ### Banks -/

theorem settleDetect_quiet (s : State) : Quiet s (settleDetect s) := by
  unfold settleDetect
  split
  · split
    · exact Quiet.store s _ (setState_tables _ _ · _)
    · exact Quiet.refl s
  · exact Quiet.refl s

theorem settleGrade_quiet (s : State) : Quiet s (settleGrade s) := by
  unfold settleGrade
  split
  · split
    · exact Quiet.store s _ fun _ => rfl
    · exact Quiet.refl s
  · exact Quiet.refl s

theorem giveLineBindings_quiet (old : BankId) (s : State) : Quiet s (giveLineBindings old s) := by
  unfold giveLineBindings
  split
  · exact Quiet.refl s
  · refine Quiet.lanes s _ (fun i => ?_) (fun i => ?_)
    all_goals rw [PerLane.get_map]; split <;> rfl

theorem switchDetect_quiet (t : Option Nat) (s : State) : Quiet s (switchDetect t s) := by
  unfold switchDetect
  split
  · exact Quiet.refl s
  · split
    · exact Quiet.store s _ (switch_tables _ _ _ _)
    · refine (giveLineBindings_quiet _ s).trans (Quiet.store _ _ ?_)
      exact switch_tables _ _ _ _

theorem switchGrade_quiet (s : State) : Quiet s (switchGrade s) := by
  unfold switchGrade
  split
  · exact Quiet.refl s
  · split <;> exact Quiet.store s _ fun _ => rfl

theorem releaseLineBinding_quiet (i : LaneId) (s : State) : Quiet s (releaseLineBinding i s) := by
  unfold releaseLineBinding
  refine Quiet.trans ?_ (settleDetect_quiet _)
  exact Quiet.lane s i _ rfl rfl

theorem dropLineBindings_quiet (s : State) : Quiet s (dropLineBindings s) := by
  refine Quiet.lanes s _ (fun i => ?_) (fun i => ?_)
  all_goals rw [PerLane.get_map]; rfl

theorem banksAtStandby_quiet (s : State) : Quiet s (banksAtStandby s) := by
  unfold banksAtStandby
  refine Quiet.trans ?_ (Quiet.store _ _ (toLoaded_tables _ _))
  exact (switchDetect_quiet none s).trans ((switchGrade_quiet _).trans (dropLineBindings_quiet _))

/-! ### Planning -/

theorem changeBoundary_quiet (n : Nat) (c : BoundaryChange) (s : State) : Quiet s (changeBoundary n c s) := by
  unfold changeBoundary
  dsimp only
  split
  · split <;> exact Quiet.plan s _
  · exact Quiet.plan s _

theorem setWait_quiet (w : WaitState) (s : State) : Quiet s (setWait w s) := Quiet.plan s _

theorem waitForSchedule_quiet (s : State) : Quiet s (waitForSchedule s) := by
  unfold waitForSchedule
  split
  · exact Quiet.refl s
  · exact (raise_quiet _ _ _ _ _).trans (setWait_quiet _ _)

theorem endInWait_quiet (w : WaitState) (s : State) : Quiet s (endInWait w s) := by
  unfold endInWait
  split
  · exact waitForSchedule_quiet s
  all_goals exact setWait_quiet _ s

theorem insertEntry_quiet {e : Entry} {s s1 : State} (h : insertEntry e s = .held s1) : Quiet s s1 := by
  rw [(insertEntry_held h).1]; exact Quiet.pos s _

theorem placePlate_quiet {k : PlateKind} {o : Option Nat} {g : Grade} {c f : Nat} {late : Bool} {s t : State}
    (h : placePlate k o g c f late s = some t) : Quiet s t := by
  unfold placePlate at h
  split at h
  · next hi => cases h; exact (insertEntry_quiet hi).trans (Quiet.plan _ _)
  · cases h
  · cases h

theorem commitPlate_quiet {k : PlateKind} {o : Option Nat} {g : Grade} {c : Nat} {s t : State}
    (h : commitPlate k o g c s = some t) : Quiet s t := by
  unfold commitPlate at h
  dsimp only at h
  split at h
  · obtain ⟨u, hu, rfl⟩ := Option.map_eq_some_iff.1 h
    exact (placePlate_quiet hu).trans (raise_quiet _ _ _ _ _)
  · exact placePlate_quiet h

theorem planLoop_quiet (n : Nat) (s : State) : Quiet s (planLoop n s) := by
  induction n generalizing s with
  | zero => exact Quiet.refl s
  | succ n ih =>
    unfold planLoop
    split
    · exact endInWait_quiet _ s
    · exact Quiet.plan s _
    · split
      · exact waitForSchedule_quiet s
      · next s1 hc =>
        split
        · exact (commitPlate_quiet hc).trans (Quiet.plan _ _)
        · exact (commitPlate_quiet hc).trans (ih s1)

theorem takeGradeSwitch_quiet (s : State) : Quiet s (takeGradeSwitch s) := by
  unfold takeGradeSwitch
  split
  · exact Quiet.refl s
  · exact (switchGrade_quiet s).trans (Quiet.plan _ _)

theorem abandonCut_quiet (n : Option Nat) (s : State) : Quiet s (abandonCut n s) := by
  unfold abandonCut
  split
  · exact Quiet.refl s
  · exact (changeBoundary_quiet _ _ s).trans ((Quiet.count _ _).trans (raise_quiet _ _ _ _ _))

/-- The cutter's cuts abandoned and the run state STANDBY. -/
theorem toStandby_quiet (s : State) (hr : s.trunk.run = .stopping) :
    Quiet s ((emptySchedule (s.withTrunk { s.trunk with run := .standby })).withCutter
      { s.cutter with outstanding := none, pendingCut := none }) where
  seqLevel := rfl
  requestedHold := rfl
  faultHigh := rfl
  ackHigh := rfl
  lastCapture := rfl
  outstanding := .inr ⟨rfl, rfl⟩
  pendingCut := .inr ⟨rfl, rfl⟩
  pulses := rfl
  standby _ := rfl
  inspect h := by rw [hr] at h; cases h
  rx _ := rfl
  profile _ := rfl
  tables _ := rfl

theorem enterStandby_quiet (s : State) (hr : s.trunk.run = .stopping) : Quiet s (enterStandby s) := by
  unfold enterStandby
  dsimp only
  refine Quiet.trans ?_ (setWait_quiet _ _)
  refine Quiet.trans ?_ (banksAtStandby_quiet _)
  refine Quiet.trans ?_ (Quiet.map _ _)
  refine Quiet.trans ?_ (abandonCut_quiet _ _)
  refine Quiet.trans ?_ (abandonCut_quiet _ _)
  exact toStandby_quiet s hr

theorem checkStopEnd_quiet (s : State) : Quiet s (checkStopEnd s) := by
  unfold checkStopEnd
  split
  · next h =>
    simp only [Bool.and_eq_true, beq_iff_eq] at h
    exact enterStandby_quiet s h.1.1
  · exact Quiet.refl s

theorem planningAttempt_quiet (s : State) : Quiet s (planningAttempt s) := by
  unfold planningAttempt
  split
  · exact Quiet.refl s
  · refine (takeGradeSwitch_quiet s).trans ?_
    dsimp only
    split
    · exact checkStopEnd_quiet _
    · exact (planLoop_quiet _ _).trans (checkStopEnd_quiet _)

theorem recomputeH_quiet (s : State) : Quiet s (recomputeH s) := by
  unfold recomputeH
  split
  · dsimp only
    split
    · exact (Quiet.map s _).trans (planningAttempt_quiet _)
    · exact Quiet.refl s
  · exact Quiet.refl s

/-! ### Grading -/

theorem fireDivert_quiet (n : Nat) (s : State) : Quiet s (fireDivert n s) := by
  unfold fireDivert
  split
  · exact Quiet.refl s
  · exact ((Quiet.divert s _).trans (Quiet.plan _ _)).trans (planningAttempt_quiet _)

theorem setLastDivert_quiet (f : Int) (s : State) : Quiet s (setLastDivert f s) := Quiet.divert s _

theorem divertAtOnce_quiet (n : Nat) (f : Int) (s : State) : Quiet s (divertAtOnce n f s) :=
  (raise_quiet _ _ _ _ _).trans ((setLastDivert_quiet _ _).trans (fireDivert_quiet _ _))

theorem beginDivertWait_quiet (n f : Nat) (s : State) : Quiet s (beginDivertWait n f s) := by
  unfold beginDivertWait
  refine Quiet.trans ?_ (Quiet.grader _ _)
  split
  · exact Quiet.refl s
  · exact raise_quiet _ _ _ _ _

theorem scheduleDivert_quiet (n a : Nat) (s : State) : Quiet s (scheduleDivert n a s) := by
  unfold scheduleDivert
  dsimp only
  split
  · next h => exact (insertEntry_quiet h).trans (setLastDivert_quiet _ _)
  · exact divertAtOnce_quiet _ _ s
  · exact beginDivertWait_quiet _ _ s

theorem removeBehind_quiet (a : Nat) (s : State) : Quiet s (removeBehind a s) := by
  unfold removeBehind
  dsimp only
  refine Quiet.trans (t := s.withRecords (s.map.records.filter fun r => !r.behind a)) (Quiet.map s _) ?_
  split
  · exact Quiet.refl _
  · split
    · exact Quiet.map _ _
    · exact Quiet.refl _

theorem gradePlate_quiet (p : Plate) (s : State) : Quiet s (gradePlate p s) := by
  unfold gradePlate
  dsimp only
  split
  · refine Quiet.trans ?_ (raiseOverrun_quiet _ _)
    refine Quiet.trans ?_ (scheduleDivert_quiet _ _ _)
    refine Quiet.trans ?_ (Quiet.grader _ _)
    refine Quiet.trans ?_ (settleGrade_quiet _)
    refine Quiet.trans ?_ (Quiet.count _ _)
    refine Quiet.trans ?_ (handUrgent_quiet _ _)
    refine Quiet.trans ?_ (removeBehind_quiet _ _)
    exact Quiet.plan s _
  · refine Quiet.trans ?_ (scheduleDivert_quiet _ _ _)
    refine Quiet.trans ?_ (Quiet.grader _ _)
    refine Quiet.trans ?_ (settleGrade_quiet _)
    refine Quiet.trans ?_ (Quiet.count _ _)
    refine Quiet.trans ?_ (handUrgent_quiet _ _)
    refine Quiet.trans ?_ (removeBehind_quiet _ _)
    exact Quiet.plan s _

theorem gradeLoop_quiet (n : Nat) (s : State) : Quiet s (gradeLoop n s) := by
  induction n generalizing s with
  | zero => exact Quiet.refl s
  | succ n ih =>
    unfold gradeLoop
    split
    · exact Quiet.refl s
    · split
      · exact (gradePlate_quiet _ s).trans (ih _)
      · exact Quiet.refl s

theorem gradeTest_quiet (s : State) : Quiet s (gradeTest s) := gradeLoop_quiet _ s

theorem retryDivert_quiet (s : State) : Quiet s (retryDivert s) := by
  unfold retryDivert
  split
  · exact Quiet.refl s
  · split
    · next h =>
      refine Quiet.trans ?_ (gradeTest_quiet _)
      refine Quiet.trans ?_ (Quiet.grader _ _)
      exact (insertEntry_quiet h).trans (setLastDivert_quiet _ _)
    · refine Quiet.trans ?_ (gradeTest_quiet _)
      exact (Quiet.grader s _).trans (divertAtOnce_quiet _ _ _)
    · exact Quiet.refl s

theorem afterDeparture_quiet (s : State) : Quiet s (afterDeparture s) :=
  (retryDivert_quiet s).trans (planningAttempt_quiet _)

/-! ### Tracking -/

theorem enterFlaw_quiet (r : FlawRecord) (s : State) : Quiet s (enterFlaw r s) := by
  unfold enterFlaw
  split
  · exact Quiet.count s _
  · split
    · exact (Quiet.map s _).trans (raise_quiet _ _ _ _ _)
    · exact Quiet.map s _

theorem settleBlob_quiet (i : LaneId) (b : Blob) (c : Bool) (s : State) : Quiet s (settleBlob i b c s) := by
  unfold settleBlob
  dsimp only
  split
  · exact Quiet.count s _
  · exact Quiet.count s _
  · exact Quiet.count s _
  · refine Quiet.trans ?_ (copyFlaw_quiet _ _)
    exact (Quiet.flawId s _).trans (enterFlaw_quiet _ _)

theorem closeSlot_quiet (i : LaneId) (seg : Bool) (s : State) (j : Nat) : Quiet s (closeSlot i seg s j) := by
  unfold closeSlot
  split
  · dsimp only
    refine Quiet.trans ?_ (recomputeH_quiet _)
    refine Quiet.trans ?_ (settleDetect_quiet _)
    exact (settleBlob_quiet _ _ _ s).trans (Quiet.setTracker _ _ _)
  · exact Quiet.refl s
  · exact Quiet.refl s

/-- A fold of quiet operations is quiet. -/
theorem Quiet.foldl {α : Type} {f : State → α → State} (h : ∀ s a, Quiet s (f s a)) (xs : List α) (s : State) :
    Quiet s (xs.foldl f s) := by
  induction xs generalizing s with
  | nil => exact Quiet.refl s
  | cons x xs ih => exact (h s x).trans (ih _)

theorem closeDue_quiet (i : LaneId) (s : State) : Quiet s (closeDue i s) := by
  unfold closeDue
  dsimp only
  refine Quiet.foldl ?_ _ s
  intro u j
  split
  · exact closeSlot_quiet _ _ _ _
  · exact closeSlot_quiet _ _ _ _
  · exact Quiet.refl u

theorem flush_quiet (i : LaneId) (s : State) : Quiet s (flush i s) := by
  unfold flush
  dsimp only
  exact Quiet.trans (Quiet.foldl (closeSlot_quiet i false) _ s) (Quiet.setTracker _ _ _)

theorem takeRun_quiet (i : LaneId) (tag : BankId) (p : Nat) (x : State × Nat) (r : Run) :
    Quiet x.1 (takeRun i tag p x r).1 := by
  unfold takeRun
  dsimp only
  have h : ∀ t, Quiet x.1 (settleDetect (x.1.setTracker i t)) :=
    fun t => (Quiet.setTracker x.1 i t).trans (settleDetect_quiet _)
  generalize Tracker.takeRun _ _ _ _ _ = y
  split
  · dsimp only
    exact (h y.1).trans (Quiet.count (settleDetect (x.1.setTracker i y.1)) _)
  · exact h y.1

theorem endOfLine_quiet (i : LaneId) (p : Nat) (s : State) : Quiet s (endOfLine i p s) :=
  (Quiet.setTracker s i _).trans (closeDue_quiet _ _)

theorem trackRuns_quiet (i : LaneId) (tag : BankId) (p t : Nat) (rs : List Run) (s : State) :
    Quiet s (trackRuns i tag p t rs s) := by
  have hr : ∀ (rs : List Run) (x : State × Nat), Quiet x.1 (rs.foldl (takeRun i tag p) x).1 := by
    intro rs
    induction rs with
    | nil => exact fun x => Quiet.refl _
    | cons r rs ih => exact fun x => (takeRun_quiet i tag p x r).trans (ih _)
  unfold trackRuns
  dsimp only
  have h := (hr rs (s, 0)).trans (endOfLine_quiet i p _)
  split
  · exact h
  · exact h.trans (raise_quiet _ _ _ _ _)

theorem trackIdle_quiet (i : LaneId) (n : Nat) (s : State) : Quiet s (trackIdle i n s) := by
  induction n generalizing s with
  | zero => exact Quiet.refl s
  | succ n ih => exact (endOfLine_quiet i 0 s).trans (ih _)

end Sys2Proof.Machine
end

