-- ==== Sys2Proof/Laws/Outbound.lean ====
section
/-! SUPPORT. The arbiter's take, records handed to a queue with room, and a request answered: what each can do, said once
(R168, R171, R172). -/

namespace Sys2Proof.Machine

/-! ### The arbiter's take -/

/-- A take that leaves the lanes alone. -/
theorem AfterTake.trunk (u : State) (x : Trunk)
    (h : x.run = u.trunk.run ∧ x.stopEnd = u.trunk.stopEnd ∧ x.link = u.trunk.link ∧ x.crcErrors = u.trunk.crcErrors ∧
      x.badFrames = u.trunk.badFrames ∧ x.headDrops = u.trunk.headDrops ∧ x.flawDrops = u.trunk.flawDrops ∧
      x.urgentDrops = u.trunk.urgentDrops ∧ x.sendAborts = u.trunk.sendAborts)
    (hr : x.requests = u.trunk.requests) (he : x.executing = u.trunk.executing)
    (hu : urgentInFlight (u.withTrunk x) = urgentInFlight u) (hf : flawsInFlight (u.withTrunk x) = flawsInFlight u)
    (ht : TransmitterAfterTake u (u.withTrunk x)) :
    AfterTake u (u.withTrunk x) where
  blocks :=
    { pos := rfl, pulses := rfl, lanes := fun _ => ⟨rfl, .inl rfl⟩, transmitter := ht, flawId := rfl, map := rfl, plan := rfl,
      cutter := rfl, divert := rfl, grader := rfl, outputs := rfl, store := rfl, cond := rfl, report := rfl, run := h.1,
      stopEnd := h.2.1, link := h.2.2.1, crcErrors := h.2.2.2.1, badFrames := h.2.2.2.2.1,
      headDrops := h.2.2.2.2.2.1, flawDrops := h.2.2.2.2.2.2.1, urgentDrops := h.2.2.2.2.2.2.2.1,
      sendAborts := h.2.2.2.2.2.2.2.2, flaws := hf, msTime := rfl, pending := rfl }
  inFlight := hu
  requests := hr
  executing := he

/-- Nothing is taken where the link is DOWN, a record is being sent, or nothing waits. -/
theorem AfterTake.refl (u : State) (h : u.trunk.link = .down ∨ u.trunk.sending ≠ none ∨
    (u.trunk.urgent = [] ∧ u.trunk.flaws = [] ∧ ∀ i, (u.rx i).slot = none)) : AfterTake u u :=
  AfterTake.trunk u u.trunk ⟨rfl, rfl, rfl, rfl, rfl, rfl, rfl, rfl, rfl⟩ rfl rfl rfl rfl
    { held := fun _ => ⟨rfl, rfl⟩
      urgent := fun _ _ _ => rfl
      flaw := fun _ hs hn => by have hs : u.trunk.sending = _ := hs; rw [hn] at hs; cases hs
      line := fun _ hs hn => by have hs : u.trunk.sending = _ := hs; rw [hn] at hs; cases hs
      idle := fun hs => ⟨rfl, h.imp id fun h => h.resolve_left fun hx => hx hs⟩ }

/-- No slot holds a line where the arbiter finds none to take. -/
theorem nextForward_none {s : State} (h : nextForward s = none) (i : LaneId) : (s.rx i).slot = none := by
  have try_eq : ∀ (j : LaneId) (rest : Option (LaneId × ForwardLine)),
      (match (s.rx j).slot with | some l => some (j, l) | none => rest) = none → (s.rx j).slot = none ∧ rest = none := by
    intro j rest hj
    split at hj
    · cases hj
    · next hl => exact ⟨hl, hj⟩
  unfold nextForward at h
  obtain ⟨h1, h⟩ := try_eq _ _ h
  obtain ⟨h2, h⟩ := try_eq _ _ h
  obtain ⟨h3, h⟩ := try_eq _ _ h
  obtain ⟨h4, _⟩ := try_eq _ _ h
  have every : ∀ l j : LaneId, j = l + 1 ∨ j = l + 2 ∨ j = l + 3 ∨ j = l := by decide
  rcases every s.trunk.lastLane i with rfl | rfl | rfl | rfl <;> assumption

/-- The lane the arbiter would take from holds the line it would take. -/
theorem nextForward_slot {s : State} {i : LaneId} {l : ForwardLine} (h : nextForward s = some (i, l)) :
    (s.rx i).slot = some l := by
  have try_eq : ∀ (j : LaneId) (rest : Option (LaneId × ForwardLine)),
      (match (s.rx j).slot with | some l => some (j, l) | none => rest) = some (i, l) →
      (s.rx i).slot = some l ∨ rest = some (i, l) := by
    intro j rest hj
    split at hj
    · next l' hl => cases hj; exact .inl hl
    · exact .inr hj
  unfold nextForward at h
  dsimp only at h
  rcases try_eq _ _ h with h | h
  · exact h
  rcases try_eq _ _ h with h | h
  · exact h
  rcases try_eq _ _ h with h | h
  · exact h
  rcases try_eq _ _ h with h | h
  · exact h
  · cases h

/-- Everything the arbiter's take can do (R172): nothing; or the oldest urgent record, else the oldest FLAW record, else a
forwarded line is taken for sending. -/
theorem arbiter_cases (s : State) :
    ((s.trunk.link = .down ∨ s.trunk.sending ≠ none ∨
        (s.trunk.urgent = [] ∧ s.trunk.flaws = [] ∧ nextForward s = none)) ∧ arbiter s = s) ∨
    (s.trunk.link = .up ∧ s.trunk.sending = none ∧
      ((∃ r rest, s.trunk.urgent = r :: rest ∧
          arbiter s = s.withTrunk { s.trunk with urgent := rest, sending := some (.urgent r) }) ∨
        (s.trunk.urgent = [] ∧ ∃ r rest, s.trunk.flaws = r :: rest ∧
          arbiter s = s.withTrunk { s.trunk with flaws := rest, sending := some (.flaw r) }) ∨
        (s.trunk.urgent = [] ∧ s.trunk.flaws = [] ∧ ∃ i l, nextForward s = some (i, l) ∧
          arbiter s = (s.modRx i fun x => { x with slot := none }).withTrunk
            { s.trunk with lastLane := i, sending := some (.line l) }))) := by
  unfold arbiter
  split
  · next hc =>
    simp only [Bool.and_eq_true, beq_iff_eq, Option.isNone_iff_eq_none] at hc
    split
    · next r rest hu => exact .inr ⟨hc.1, hc.2, .inl ⟨r, rest, hu, rfl⟩⟩
    · next hu =>
      split
      · next r rest hf => exact .inr ⟨hc.1, hc.2, .inr (.inl ⟨hu, r, rest, hf, rfl⟩)⟩
      · next hf =>
        split
        · next i l hn => exact .inr ⟨hc.1, hc.2, .inr (.inr ⟨hu, hf, i, l, hn, rfl⟩)⟩
        · next hn => exact .inl ⟨.inr (.inr ⟨hu, hf, hn⟩), rfl⟩
  · next hc =>
    refine .inl ⟨?_, rfl⟩
    cases hl : s.trunk.link with
    | down => exact .inl rfl
    | up =>
      refine .inr (.inl fun hs => hc ?_)
      rw [hl, hs]; rfl

/-- The arbiter's take moves records toward the transmitter and changes nothing else (R172). -/
theorem arbiter_afterTake (s : State) : AfterTake s (arbiter s) := by
  rcases arbiter_cases s with ⟨hw, h⟩ | ⟨hl, hs, ⟨r, rest, hu, h⟩ | ⟨hu, r, rest, hf, h⟩ | ⟨hu, hf, i, l, hn, h⟩⟩
  · rw [h]
    exact AfterTake.refl s (hw.imp id fun h => h.imp id fun h => ⟨h.1, h.2.1, nextForward_none h.2.2⟩)
  · rw [h]
    refine AfterTake.trunk s _ ⟨rfl, rfl, rfl, rfl, rfl, rfl, rfl, rfl, rfl⟩ rfl rfl ?_ ?_ ?_
    · simp [urgentInFlight, sendingUrgent, hs, hu]
    · simp [flawsInFlight, hs]
    · constructor <;> simp [hs, hl]
  · rw [h]
    refine AfterTake.trunk s _ ⟨rfl, rfl, rfl, rfl, rfl, rfl, rfl, rfl, rfl⟩ rfl rfl ?_ ?_ ?_
    · simp [urgentInFlight, sendingUrgent, hs]
    · simp [flawsInFlight, hs, hf]
    · constructor <;> simp [hs, hl, hu]
  · rw [h]
    have hrx : ∀ j, ((s.modRx i fun x => { x with slot := none }).withTrunk
        { s.trunk with lastLane := i, sending := some (.line l) }).rx j =
          if j = i then { s.rx i with slot := none } else s.rx j := fun j => State.modRx_rx s i j fun x => { x with slot := none }
    have hlane : ∀ j, ((s.modRx i fun x => { x with slot := none }).withTrunk
        { s.trunk with lastLane := i, sending := some (.line l) }).lane j =
          if j = i then { s.lane i with rx := { s.rx i with slot := none } } else s.lane j :=
      fun j => State.setLane_lane s i j _
    refine ⟨⟨rfl, rfl, ?_, ?_, rfl, rfl, rfl, rfl, rfl, rfl, rfl, rfl, rfl, rfl, rfl, rfl, rfl, rfl, rfl, rfl, rfl, rfl, rfl,
      ?_, rfl, rfl⟩, ?_, rfl, rfl⟩
    · intro j
      unfold laneAfterTake
      rw [hlane, hrx]
      by_cases hj : j = i
      · subst hj
        rw [if_pos rfl, if_pos rfl]
        exact ⟨rfl, .inr ⟨rfl, hl, hs, l, nextForward_slot hn, rfl, rfl⟩⟩
      · rw [if_neg hj, if_neg hj]
        exact ⟨rfl, .inl rfl⟩
    · refine ⟨?_, ?_, ?_, ?_, ?_⟩
      · simp [hs, hl]
      · simp
      · simp
      · intro l' h' _
        simp only [State.withTrunk_trunk, Option.some.injEq, Outbound.line.injEq] at h'
        subst h'
        refine ⟨hu, hf, nextForward_slot hn, ?_⟩
        rw [hrx]; exact congrArg Receiver.slot (if_pos rfl)
      · simp
    · simp [flawsInFlight, hs]
    · simp [urgentInFlight, sendingUrgent, hs]

/-- A command whose operation is `f` ends in the state after the take. -/
theorem done_afterTake (s : State) : ∃ t, done s = .next t ∧ AfterTake s t := ⟨arbiter s, rfl, arbiter_afterTake s⟩

/-! ### Records handed (R171) -/

theorem handUrgent_room {r : Urgent} {s : State} (h : hasRoom s) :
    handUrgent r s = (s.withTrunk { s.trunk with urgent := s.trunk.urgent ++ [r] }, false) := by
  unfold handUrgent
  exact if_pos h

theorem handUrgent_full {r : Urgent} {s : State} (h : ¬hasRoom s) :
    handUrgent r s = (s.withTrunk { s.trunk with urgentDrops := bump32 s.trunk.urgentDrops }, true) := by
  unfold handUrgent
  exact if_neg h

theorem handRecord_room {r : Urgent} {s : State} (h : hasRoom s) :
    handRecord r s = s.withTrunk { s.trunk with urgent := s.trunk.urgent ++ [r] } := by
  unfold handRecord
  rw [handUrgent_room h]
  rfl

/-! ### Requests (R168) -/

/-- What completing a request does to the trunk: nothing but the request in execution and those that wait. -/
theorem complete_cases (r : Request) (s : State) :
    ∃ e q, complete r s = s.withTrunk { s.trunk with executing := e, requests := q } ∧
      (s.trunk.executing = some r → e = s.trunk.requests.head? ∧ q = s.trunk.requests.tail) ∧
      (s.trunk.executing ≠ some r → e = s.trunk.executing ∧ q = s.trunk.requests) := by
  unfold complete
  split
  · next hx =>
    unfold depart
    split
    · next r' rest _ hq =>
      have hq' : s.trunk.requests = r' :: rest := hq
      exact ⟨some r', rest, rfl, fun _ => by rw [hq']; exact ⟨rfl, rfl⟩, fun h => absurd hx h⟩
    · next h =>
      refine ⟨none, s.trunk.requests, rfl, fun _ => ?_, fun h => absurd hx h⟩
      cases hq : s.trunk.requests with
      | nil => exact ⟨rfl, rfl⟩
      | cons a b => exact absurd hq (h a b rfl)
  · next hx => exact ⟨s.trunk.executing, s.trunk.requests, rfl, fun h => absurd h hx, fun _ => ⟨rfl, rfl⟩⟩

/-- A request answered while the urgent queue has room. -/
theorem respond_answered {tag kind : Byte} {args body : List Byte} {status : Status} {u : State} (h : hasRoom u) :
    ∃ t, respond tag kind args status body u = .next t ∧ Answered ⟨tag, kind, args⟩ status body u t := by
  refine ⟨_, rfl, ?_⟩
  have ha : answer ⟨tag, kind, args⟩ status body u =
      complete ⟨tag, kind, args⟩ (u.withTrunk { u.trunk with urgent := u.trunk.urgent ++ [.response tag kind status body] }) :=
    congrArg (complete ⟨tag, kind, args⟩) (handRecord_room h)
  rw [ha]
  obtain ⟨e, q, hc, ho⟩ := complete_cases ⟨tag, kind, args⟩
    (u.withTrunk { u.trunk with urgent := u.trunk.urgent ++ [.response tag kind status body] })
  rw [hc]
  have k := arbiter_afterTake ((u.withTrunk
    { u.trunk with urgent := u.trunk.urgent ++ [.response tag kind status body] }).withTrunk
      { u.trunk with urgent := u.trunk.urgent ++ [.response tag kind status body], executing := e, requests := q })
  refine ⟨⟨k.blocks.pos, k.blocks.pulses, k.blocks.lanes,
    ⟨k.blocks.transmitter.held, k.blocks.transmitter.urgent, k.blocks.transmitter.flaw, k.blocks.transmitter.line,
      k.blocks.transmitter.idle⟩, k.blocks.flawId, k.blocks.map, k.blocks.plan, k.blocks.cutter,
    k.blocks.divert, k.blocks.grader, k.blocks.outputs, k.blocks.store, k.blocks.cond, k.blocks.report, k.blocks.run,
    k.blocks.stopEnd, k.blocks.link, k.blocks.crcErrors, k.blocks.badFrames, k.blocks.headDrops, k.blocks.flawDrops,
    k.blocks.urgentDrops, k.blocks.sendAborts, k.blocks.flaws, k.blocks.msTime, k.blocks.pending⟩, ?_, ?_⟩
  · refine k.inFlight.trans ?_
    simp only [urgentInFlight, sendingUrgent, State.withTrunk_trunk, List.append_assoc]
  · unfold requestOver
    split
    · next hx => exact ⟨k.executing.trans (ho.1 hx).1, k.requests.trans (ho.1 hx).2⟩
    · next hx => exact ⟨k.executing.trans (ho.2 hx).1, k.requests.trans (ho.2 hx).2⟩

end Sys2Proof.Machine
end

