-- ==== Sys2Proof/Laws/Commands.lean ====
section
/-! SUPPORT. What a command can do before the arbiter's take, said once for every command: `Kept` for all but the resets, and
`Plain` for those that also leave the run control, the setup, the outputs and the transmitter alone. -/

namespace Sys2Proof.Machine

theorem next_of_done {u t : State} (h : done u = .next t) : t = arbiter u := by
  unfold done at h; injection h with h; exact h.symm

/-- What answering does: an inner operation, then the request's end (R168). -/
theorem answer_form (r : Request) (st : Status) (body : List Byte) (u : State) :
    ∃ v e q, Inner u v ∧ answer r st body u = v.withTrunk { v.trunk with executing := e, requests := q } ∧
      (u.trunk.executing = some r → e = u.trunk.requests.head? ∧ q = u.trunk.requests.tail) ∧
      (u.trunk.executing ≠ some r → e = u.trunk.executing ∧ q = u.trunk.requests) := by
  have hi := handRecord_inner (.response r.tag r.kind st body) u
  obtain ⟨e, q, hc, h1, h2⟩ := complete_cases r (handRecord (.response r.tag r.kind st body) u)
  refine ⟨_, e, q, hi, hc, ?_, ?_⟩
  · intro h; have := h1 (hi.executing.trans h); rw [hi.requests] at this; exact this
  · intro h; have := h2 (by rw [hi.executing]; exact h); rw [hi.requests, hi.executing] at this; exact this

/-- An accepted commit is an inner operation. -/
theorem acceptCommit_inner (g : GroupId) (s : State) (h : g.shadowState s = .loaded) : Inner s (acceptCommit g s) := by
  have key : ∀ {α : Type} (g : Group α), (g.get g.shadow).state = .loaded → g.Ok → (g.setState g.shadow .committing).Ok := by
    intro α g hl hg
    unfold Group.shadow at *
    split at hl
    · next h0 =>
      refine ⟨?_, ?_⟩
      · simp [Group.setState, Group.set, h0] 
      · simp [Group.setState, Group.set, h0]; simpa using h0
    · next h0 =>
      refine ⟨?_, ?_⟩
      · simp [Group.setState, Group.set, h0]
      · simp [Group.setState, Group.set, h0]; intro hc; have := hg.shadowCommits hc; simp [this] at h0
  unfold acceptCommit
  cases g
  · dsimp only
    have h1 : Inner s (s.withDetect (s.store.detect.setState s.store.detect.shadow .committing)) :=
      Inner.store s _ rfl (key _ h) id
    split
    · exact h1.trans (switchDetect_inner _ _)
    · exact h1
  · dsimp only
    have h1 : Inner s (s.withGrade (s.store.grade.setState s.store.grade.shadow .committing)) :=
      Inner.store s _ rfl id (key _ h)
    split
    · exact h1.trans (switchGrade_inner _)
    · exact h1

/-- What follows an accepted commit's response is an inner operation. -/
theorem followCommit_inner (g : GroupId) (s : State) : Inner s (followCommit g s) := by
  cases g
  · exact Inner.refl s
  · exact planningAttempt_inner s

/-- A write to a shadow that is not locked is an inner operation. -/
theorem writeEntry_inner (tb : TableId) (i : Nat) (v : List Nat) (s : State) (h : (shadowState tb s).locked = false) :
    Inner s (writeEntry tb i v s) := by
  have key : ∀ {α : Type} (g : Group α) (f : α → α), (g.get g.shadow).state.locked = false → g.Ok →
      (g.set g.shadow ((g.get g.shadow).written f)).Ok := by
    intro α g f hl hg
    unfold Group.shadow at *
    split at hl
    · next h0 =>
      have h0' : g.bank0.state = .active := by simpa using h0
      have : g.bank1.state ≠ .active := fun h => hg.oneActive ⟨h0', h⟩
      refine ⟨?_, ?_⟩
      · simp [Group.set, Bank.written, h0, Group.get]; intro _; split <;> simp_all
      · simp [Group.set, h0]; intro _; exact h0'
    · next h0 =>
      have h0' : g.bank0.state ≠ .active := by simpa using h0
      have hn : g.bank1.state ≠ .committing := fun h => h0' (hg.shadowCommits h)
      refine ⟨?_, ?_⟩
      · simp [Group.set, Bank.written, h0, Group.get]; split <;> simp_all
      · simp [Group.set, h0]; intro hc; exact absurd hc hn
  unfold writeEntry
  unfold shadowState at h
  split
  · next hd => rw [if_pos hd] at h; exact Inner.store s _ rfl (key _ _ h) id
  · next hd => rw [if_neg hd] at h; exact Inner.store s _ rfl id (key _ _ h)

/-- What every command but the resets keeps before the take. -/
structure Kept (s u : State) : Prop where
  inHand : ∀ i, (u.rx i).inHand = (s.rx i).inHand
  profile : ∀ i, profileOk (s.lane i).profile → profileOk (u.lane i).profile
  tracker : ∀ i, (s.lane i).tracker.Ok → (u.lane i).tracker.Ok
  detect : s.store.detect.Ok → u.store.detect.Ok
  grade : s.store.grade.Ok → u.store.grade.Ok
  urgentPre : s.trunk.urgent <+: u.trunk.urgent
  flawsPre : s.trunk.flaws <+: u.trunk.flaws
  urgentLe : u.trunk.urgent.length ≤ max s.trunk.urgent.length Config.urgentSlots
  flawsLe : u.trunk.flaws.length ≤ max s.trunk.flaws.length Config.flawSlots
  requestsLe : u.trunk.requests.length ≤ max s.trunk.requests.length Config.requestSlots
  waiting : (s.trunk.executing = none → s.trunk.requests = []) → u.trunk.executing = none → u.trunk.requests = []
  mapSorted : mapSorted s.map.records → mapSorted u.map.records
  mapLe : u.map.records.length ≤ max s.map.records.length Config.mapRecords
  queueLe : u.plan.queue.length ≤ max s.plan.queue.length Config.plateSlots
  standby : (s.trunk.run = .standby → s.plan.queue = []) → u.trunk.run = .standby → u.plan.queue = []
  msTime : u.msTime = s.msTime
  pending : u.pending = s.pending

theorem Inner.kept {s u : State} (h : Inner s u) : Kept s u where
  inHand := h.inHand
  profile := h.profile
  tracker := h.tracker
  detect := h.detect
  grade := h.grade
  urgentPre := h.urgentPre
  flawsPre := h.flawsPre
  urgentLe := h.urgentLe
  flawsLe := h.flawsLe
  requestsLe := by rw [h.requests]; omega
  waiting k := by rw [h.executing, h.requests]; exact k
  mapSorted := h.mapSorted
  mapLe := h.mapLe
  queueLe := h.queueLe
  standby := h.standby
  msTime := h.msTime
  pending := h.pending

theorem Kept.trans {s t u : State} (a : Kept s t) (b : Kept t u) : Kept s u where
  inHand i := (b.inHand i).trans (a.inHand i)
  profile i h := b.profile i (a.profile i h)
  tracker i h := b.tracker i (a.tracker i h)
  detect h := b.detect (a.detect h)
  grade h := b.grade (a.grade h)
  urgentPre := a.urgentPre.trans b.urgentPre
  flawsPre := a.flawsPre.trans b.flawsPre
  urgentLe := by have := a.urgentLe; have := b.urgentLe; omega
  flawsLe := by have := a.flawsLe; have := b.flawsLe; omega
  requestsLe := by have := a.requestsLe; have := b.requestsLe; omega
  waiting h := b.waiting (a.waiting h)
  mapSorted h := b.mapSorted (a.mapSorted h)
  mapLe := by have := a.mapLe; have := b.mapLe; omega
  queueLe := by have := a.queueLe; have := b.queueLe; omega
  standby h := b.standby (a.standby h)
  msTime := b.msTime.trans a.msTime
  pending := b.pending.trans a.pending

/-- A change of the trunk that leaves the run state and the outbound queues alone. -/
theorem Kept.trunk (s : State) (x : Trunk) (hr : x.run = s.trunk.run) (hu : x.urgent = s.trunk.urgent)
    (hf : x.flaws = s.trunk.flaws) (hl : x.requests.length ≤ max s.trunk.requests.length Config.requestSlots)
    (hw : (s.trunk.executing = none → s.trunk.requests = []) → x.executing = none → x.requests = []) :
    Kept s (s.withTrunk x) where
  inHand _ := rfl
  profile _ h := h
  tracker _ h := h
  detect h := h
  grade h := h
  urgentPre := by simp [hu]
  flawsPre := by simp [hf]
  urgentLe := by simp [hu]
  flawsLe := by simp [hf]
  requestsLe := hl
  waiting := hw
  mapSorted h := h
  mapLe := by simp
  queueLe := by simp
  standby h k := h (hr.symm.trans k)
  msTime := rfl
  pending := rfl

theorem answer_kept (r : Request) (st : Status) (body : List Byte) (u : State) : Kept u (answer r st body u) := by
  obtain ⟨v, e, q, hi, hc, h1, h2⟩ := answer_form r st body u
  rw [hc]
  refine hi.kept.trans (Kept.trunk v _ rfl rfl rfl ?_ ?_)
  · dsimp only
    rw [hi.requests]
    by_cases hx : u.trunk.executing = some r
    · rw [(h1 hx).2]; simp
    · rw [(h2 hx).2]; omega
  · dsimp only
    rw [hi.requests, hi.executing]
    by_cases hx : u.trunk.executing = some r
    · rw [(h1 hx).1, (h1 hx).2]; intro _ h; cases hq : u.trunk.requests <;> simp_all
    · rw [(h2 hx).1, (h2 hx).2]; exact fun a b => a b

theorem setup_kept (s : State) (x : Setup) : Kept s (s.withStore { s.store with setup := x }) := by
  constructor <;> simp

theorem outputs_kept (s : State) (x : Outputs) : Kept s (s.withOutputs x) := by
  constructor <;> simp

theorem lanes_kept (s : State) (x : PerLane Lane) (h : ∀ i, (x.get i).rx.inHand = (s.rx i).inHand)
    (hp : ∀ i, profileOk (s.lane i).profile → profileOk (x.get i).profile)
    (ht : ∀ i, (s.lane i).tracker.Ok → (x.get i).tracker.Ok) : Kept s (s.withLanes x) := by
  constructor <;> try simp
  · exact h
  · exact hp
  · exact ht

theorem modRx_kept (s : State) (i : LaneId) (f : Receiver → Receiver) (h : (f (s.rx i)).inHand = (s.rx i).inHand) :
    Kept s (s.modRx i f) := by
  refine lanes_kept s _ ?_ ?_ ?_ <;> intro j <;> rw [PerLane.get_set] <;> split
  · next hj => subst hj; exact h
  · rfl
  · next hj => subst hj; exact id
  · exact id
  · next hj => subst hj; exact id
  · exact id

theorem pos_kept (s : State) (x : PositionUnit) : Kept s (s.withPos x) := by
  constructor <;> simp

theorem pulses_kept (s : State) (x : Pulses) : Kept s (s.withPulses x) := by
  constructor <;> simp

theorem issueTrigger_kept (s : State) : Kept s (issueTrigger s) := by
  unfold issueTrigger
  dsimp only
  exact (pulses_kept _ _).trans ((pos_kept _ _).trans (switchDetect_inner _ _).kept)

theorem fireSchedule_kept (s : State) : Kept s (fireSchedule s) := by
  unfold fireSchedule
  dsimp only
  have h1 : Kept s (takeFiring s) := pos_kept _ _
  have h2 := (handFiring_inner (takeFiring s).pos.firing.length (takeFiring s) (le_refl _)).1.kept
  split
  · split
    · exact h1.trans (h2.trans (retryDivert_inner _).kept)
    · exact h1.trans h2
  · exact h1.trans (h2.trans (afterDeparture_inner _).kept)

theorem advanceP_kept (s : State) : Kept s (advanceP s) := by
  unfold advanceP
  dsimp only
  have h : Kept s (fireSchedule (advancePhase (s.withPos { s.pos with p := s.pos.p + 1, stallTimer := 0, stallArmed := true }))) := by
    refine Kept.trans (Kept.trans (pos_kept s { s.pos with p := s.pos.p + 1, stallTimer := 0, stallArmed := true }) ?_) (fireSchedule_kept _)
    unfold advancePhase
    dsimp only
    split
    · exact issueTrigger_kept _
    · exact pos_kept _ _
  split
  · exact h
  · exact h.trans (recomputeH_inner _).kept

theorem encoderChange_kept (a b : Bool) (s : State) : Kept s (encoderChange a b s) := by
  unfold encoderChange
  dsimp only
  refine Kept.trans (pos_kept s { s.pos with encA := a, encB := b }) ?_
  split
  · unfold forwardIncrement
    split
    · split
      · exact advanceP_kept _
      · exact (Inner.refl _).kept
    · split
      · exact pos_kept _ _
      · exact pos_kept _ _
  · unfold reverseIncrement
    split
    · exact pos_kept _ _
    · split
      · exact pos_kept _ _
      · split
        · exact Kept.trans (pos_kept _ _) (raise_inner _ _ _ _ _).kept
        · exact (Inner.refl _).kept
  · exact (Inner.refl _).kept

theorem setWithTrunk_kept {u : State} (x : Trunk) (h : x = { u.trunk with run := x.run, stopEnd := x.stopEnd })
    (hr : x.run ≠ .standby) : Kept u (u.withTrunk x) := by
  have a : x.urgent = u.trunk.urgent := by rw [h]
  have b : x.flaws = u.trunk.flaws := by rw [h]
  have c : x.requests = u.trunk.requests := by rw [h]
  have d : x.executing = u.trunk.executing := by rw [h]
  constructor <;> try simp [a, b, c, d]
  · exact fun _ k => absurd k hr

theorem insertStartCut_inner (a : Nat) (s : State) : Inner s (insertStartCut a s) := by
  unfold insertStartCut
  dsimp only
  split
  · next h => exact insertEntry_inner h
  · exact handEntry_inner _ _
  · exact Inner.refl s

theorem startPlanner_inner (a : Nat) (s : State) : Inner s (startPlanner a s) := Inner.planQueue s _ rfl

theorem startRun_kept (s : State) : Kept s (startRun s) := by
  unfold startRun
  dsimp only
  refine Kept.trans ?_ (planningAttempt_inner _).kept
  refine Kept.trans ?_ (recomputeH_inner _).kept
  refine Kept.trans ?_ (setWithTrunk_kept _ rfl (by simp))
  refine Kept.trans ?_ (Inner.foldl (startLane_inner _) _ _).kept
  refine Kept.trans ?_ (insertStartCut_inner _ _).kept
  refine Kept.trans ?_ (startPlanner_inner _ _).kept
  refine Kept.trans ?_ (Inner.divert _ _).kept
  refine Kept.trans ?_ (settleDetect_inner _).kept
  refine Kept.trans (t := s.withLanes (s.lanes.map fun l => { l with tracker := Tracker.empty })) ?_ ?_
  · refine lanes_kept s _ ?_ ?_ ?_
    · intro i; simp; rfl
    · intro i; simp; exact id
    · intro i; simp; intro _; exact Tracker.empty_ok
  · constructor <;> simp

theorem stopRun_kept (s : State) : Kept s (stopRun s).1 := by
  have h := (stopLanes_inner s).kept
  unfold stopRun
  dsimp only
  generalize stopLanes s = r at *
  refine Kept.trans ?_ (planningAttempt_inner _).kept
  refine Kept.trans ?_ (setWithTrunk_kept _ rfl (by simp))
  exact h.trans (Inner.map r.1 { r.1.map with h := max r.1.map.h r.2 } (by simp) id (by simp)).kept

theorem writeSetup_kept (p : Param) (v : Nat) (s : State) : Kept s (writeSetup p v s) := by
  unfold writeSetup
  dsimp only
  refine Kept.trans (setup_kept s (s.setup.put p (p.stored v))) ?_
  split
  · unfold stallExpiry
    split
    · exact Kept.trans (pos_kept _ _) (raise_inner _ _ _ _ _).kept
    · exact (Inner.refl _).kept
  · split
    · exact (Inner.report _ _).kept
    · exact (Inner.refl _).kept

theorem stallExpiry_kept (s : State) : Kept s (stallExpiry s) := by
  unfold stallExpiry
  split
  · exact Kept.trans (pos_kept _ _) (raise_inner _ _ _ _ _).kept
  · exact (Inner.refl _).kept

theorem closeShift_inner (c : CloseCause) (s : State) : Inner s (closeShift c s) :=
  (Inner.report s _).trans (handRecord_inner _ _)

theorem shiftExpiry_inner (s : State) : Inner s (shiftExpiry s) := by
  unfold shiftExpiry
  split
  · exact (closeShift_inner _ _).trans (Inner.report _ _)
  · exact Inner.refl s

theorem linkDown_kept (i : LaneId) (s : State) : Kept s (linkDown i s) := by
  unfold linkDown
  dsimp only
  refine Kept.trans (modRx_kept s i (fun x => { x with link := .down }) rfl) ?_
  split
  · exact (goSilent_inner _ _ _).kept
  · exact (Inner.refl _).kept

theorem depart_kept (s : State) : Kept s (depart s) := by
  unfold depart
  split
  · next r rest he hq =>
    refine Kept.trunk s _ rfl rfl rfl ?_ ?_
    · dsimp only; rw [hq]; simp
    · dsimp only; intro _ h; cases h
  · exact (Inner.refl s).kept

theorem requestArrives_kept (r : Request) (s : State) : Kept s (requestArrives r s) := by
  unfold requestArrives
  split
  · next h =>
    unfold depart
    dsimp only [State.withTrunk_trunk]
    split
    · next r' rest he hq =>
      refine Kept.trunk s _ rfl rfl rfl ?_ ?_
      · dsimp only
        have : rest.length + 1 = s.trunk.requests.length + 1 := by
          have := congrArg List.length hq
          simp at this; omega
        omega
      · dsimp only; intro _ h; cases h
    · next hn =>
      refine Kept.trunk s _ rfl rfl rfl ?_ ?_
      · simp; omega
      · dsimp only
        intro hw hx
        cases hq : s.trunk.requests ++ [r] with
        | nil => rfl
        | cons a b => exact absurd hq (hn a b hx)
  · exact (handRecord_inner _ _).kept

theorem trunkFrameArrives_kept (f : Frame) (s : State) : Kept s (trunkFrameArrives f s) := by
  have hb : ∀ x : Trunk, x.run = s.trunk.run → x.urgent = s.trunk.urgent → x.flaws = s.trunk.flaws →
      x.requests = s.trunk.requests → x.executing = s.trunk.executing → Kept s (s.withTrunk x) := by
    intro x a b c d e
    refine Kept.trunk s x a b c ?_ ?_
    · rw [d]; omega
    · rw [d, e]; exact fun a b => a b
  unfold trunkFrameArrives badFrame
  split
  · exact hb _ rfl rfl rfl rfl rfl
  · split
    · exact hb _ rfl rfl rfl rfl rfl
    · split
      · split
        · exact requestArrives_kept _ _
        · exact hb _ rfl rfl rfl rfl rfl
      · split
        · split
          · unfold headArrives badFrame
            split
            · exact hb _ rfl rfl rfl rfl rfl
            · split
              · exact hb _ rfl rfl rfl rfl rfl
              · exact modRx_kept _ _ _ rfl
          · exact hb _ rfl rfl rfl rfl rfl
        · exact hb _ rfl rfl rfl rfl rfl

theorem respond_kept {tag kind : Byte} {args body : List Byte} {st : Status} {s u : State} (h : Kept s u) :
    ∃ v, respond tag kind args st body u = done v ∧ Kept s v :=
  ⟨_, rfl, h.trans (answer_kept _ _ _ _)⟩

theorem setForward_kept (i : LaneId) (m : ForwardMode) (s : State) : Kept s (setForward i m s) := modRx_kept s i _ rfl

theorem laneControl_kept (t : Byte) (a : List Byte) (s : State) :
    ∃ u, execLaneControl t a s = done u ∧ Kept s u := by
  have h0 := respond_kept (tag := t) (kind := 9) (args := a) (body := []) (st := .malformed) (Inner.refl s).kept
  unfold execLaneControl
  split
  · split
    · next i m _ _ =>
      split
      · exact respond_kept (Kept.trans (setForward_kept i m s) (enableLane_inner _ _).kept)
      · exact respond_kept (Kept.trans (setForward_kept i m s) (disableLane_inner _ _).kept)
      · exact h0
    · exact h0
  · exact h0

/-- What every command but the resets does before the take. -/
theorem exec_kept (c : Instr) (s : State) (hl : LinesOk s) (h1 : ∀ lv, c ≠ .powerOnReset lv)
    (h2 : ∀ tag args, c ≠ .partReset tag args) : ∃ u, exec c s = done u ∧ Kept s u := by
  cases c with
  | powerOnReset lv => exact absurd rfl (h1 lv)
  | partReset t a => exact absurd rfl (h2 t a)
  | encoderIncrement a b => exact ⟨_, rfl, encoderChange_kept a b s⟩
  | stallTimerExpiry => exact ⟨_, rfl, stallExpiry_kept s⟩
  | silenceTimerExpiry i => exact ⟨_, rfl, (silenceExpiry_inner i s).kept⟩
  | shiftTimerExpiry => exact ⟨_, rfl, (shiftExpiry_inner s).kept⟩
  | cutAckRise q => exact ⟨_, rfl, (ackRise_inner q s).kept⟩
  | cutAckFall => exact ⟨_, rfl, (ackFall_inner s).kept⟩
  | cutterFaultRise => exact ⟨_, rfl, (faultRise_inner s).kept⟩
  | cutterFaultFall => exact ⟨_, rfl, (faultFall_inner s).kept⟩
  | lineFrame i f => exact ⟨_, rfl, (lineArrives_inner i f s (hl i)).kept⟩
  | headReplyFrame i f =>
    refine ⟨_, rfl, ?_⟩
    unfold headReplyArrives
    split
    · exact (handRecord_inner _ _).kept
    · exact (countMalformed_inner _ _).kept
  | laneLinkDown i => exact ⟨_, rfl, linkDown_kept i s⟩
  | laneLinkUp i => exact ⟨_, rfl, modRx_kept s i _ rfl⟩
  | headCommandSent i => exact ⟨_, rfl, modRx_kept s i _ rfl⟩
  | trunkFrame f => exact ⟨_, rfl, trunkFrameArrives_kept f s⟩
  | trunkLinkDown =>
    refine ⟨_, rfl, ?_⟩
    unfold trunkDown
    split
    · exact Kept.trunk s _ rfl rfl rfl (by simp) (fun h => h)
    · exact Kept.trunk s _ rfl rfl rfl (by simp) (fun h => h)
  | trunkLinkUp => exact ⟨_, rfl, Kept.trunk s _ rfl rfl rfl (by simp) (fun h => h)⟩
  | trunkSendDone => exact ⟨_, rfl, Kept.trunk s _ rfl rfl rfl (by simp) (fun h => h)⟩
  | headFrameOtherType i f => exact ⟨_, rfl, (countMalformed_inner _ _).kept⟩
  | statusGet t a => exact respond_kept (Inner.refl s).kept
  | tableWrite t a =>
    dsimp only [exec]; unfold execTableWrite
    repeat' split
    all_goals first
      | exact respond_kept (Inner.refl s).kept
      | exact respond_kept (writeEntry_inner _ _ _ _ (by simp_all)).kept
  | tableRead t a =>
    dsimp only [exec]; unfold execTableRead
    repeat' split
    all_goals exact respond_kept (Inner.refl s).kept
  | bankCommit t a =>
    dsimp only [exec]; unfold execBankCommit
    repeat' split
    all_goals first
      | exact respond_kept (Inner.refl s).kept
      | exact ⟨_, rfl, ((acceptCommit_inner _ _ (by simp_all)).kept.trans (answer_kept _ _ _ _)).trans
          (followCommit_inner _ _).kept⟩
  | setupWrite t a =>
    dsimp only [exec]; unfold execSetupWrite
    repeat' split
    all_goals first
      | exact respond_kept (Inner.refl s).kept
      | exact respond_kept (writeSetup_kept _ _ _)
  | setupRead t a =>
    dsimp only [exec]; unfold execSetupRead
    repeat' split
    all_goals exact respond_kept (Inner.refl s).kept
  | runStart t a =>
    dsimp only [exec]; unfold execRunStart
    split
    · exact respond_kept (Inner.refl s).kept
    · split
      · exact respond_kept (Inner.refl s).kept
      · split
        · exact respond_kept (Inner.refl s).kept
        · exact respond_kept (startRun_kept s)
  | runStop t a =>
    dsimp only [exec]; unfold execRunStop
    split
    · exact respond_kept (stopRun_kept s)
    · exact respond_kept (Inner.refl s).kept
  | laneControl t a => exact laneControl_kept t a s
  | cutterHold t a => exact respond_kept (requestHold_inner s).kept
  | cutterRelease t a => exact respond_kept (releaseHold_inner s).kept
  | shiftClose t a => exact respond_kept ((closeShift_inner _ _).trans (Inner.report _ _)).kept
  | reportGet t a =>
    dsimp only [exec]; unfold execReportGet
    repeat' split
    all_goals first
      | exact respond_kept (Inner.refl s).kept
      | exact respond_kept (Inner.report _ _).kept
  | conditionGet t a => exact respond_kept (Inner.refl s).kept
  | conditionClear t a =>
    dsimp only [exec]; unfold execConditionClear
    repeat' split
    all_goals first
      | exact respond_kept (Inner.refl s).kept
      | exact respond_kept (Inner.cond _ _).kept
  | outputSet t a =>
    dsimp only [exec]; unfold execOutputSet
    repeat' split
    all_goals first
      | exact respond_kept (Inner.refl s).kept
      | exact respond_kept (outputs_kept _ _)
  | outputOwner t a =>
    dsimp only [exec]; unfold execOutputOwner
    repeat' split
    all_goals first
      | exact respond_kept (Inner.refl s).kept
      | exact respond_kept (outputs_kept _ _)

/-- What most commands leave alone as well. -/
structure Plain (s u : State) : Prop where
  horizon : s.map.h ≤ u.map.h
  run : u.trunk.run = s.trunk.run ∨ (s.trunk.run = .stopping ∧ u.trunk.run = .standby)
  setup : u.store.setup = s.store.setup
  outputs : u.outputs = s.outputs
  sending : u.trunk.sending = s.trunk.sending

theorem Inner.plain {s u : State} (h : Inner s u) : Plain s u := ⟨h.horizon, h.run, h.setup, h.outputs, h.sending⟩

theorem Plain.trans {s t u : State} (a : Plain s t) (b : Plain t u) : Plain s u where
  horizon := a.horizon.trans b.horizon
  run := by
    rcases b.run with h | ⟨h, k⟩
    · rcases a.run with h' | ⟨h', k'⟩
      · exact .inl (h.trans h')
      · exact .inr ⟨h', h.trans k'⟩
    · rcases a.run with h' | ⟨h', k'⟩
      · exact .inr ⟨h'.symm.trans h, k⟩
      · rw [k'] at h; cases h
  setup := b.setup.trans a.setup
  outputs := b.outputs.trans a.outputs
  sending := b.sending.trans a.sending

theorem Plain.same {s u : State} (h1 : u.map.h = s.map.h) (h2 : u.trunk.run = s.trunk.run) (h3 : u.store.setup = s.store.setup)
    (h4 : u.outputs = s.outputs) (h5 : u.trunk.sending = s.trunk.sending) : Plain s u :=
  ⟨h1 ▸ le_refl _, .inl h2, h3, h4, h5⟩

theorem Plain.refl (s : State) : Plain s s := Plain.same rfl rfl rfl rfl rfl

theorem answer_plain (r : Request) (st : Status) (body : List Byte) (u : State) : Plain u (answer r st body u) := by
  obtain ⟨v, e, q, hi, hc, h1, h2⟩ := answer_form r st body u
  rw [hc]
  exact hi.plain.trans (Plain.same rfl rfl rfl rfl rfl)

theorem respond_plain {tag kind : Byte} {args body : List Byte} {st : Status} {s u : State} (h : Plain s u) :
    ∃ v, respond tag kind args st body u = done v ∧ Plain s v :=
  ⟨_, rfl, h.trans (answer_plain _ _ _ _)⟩

theorem pos_plain (s : State) (x : PositionUnit) : Plain s (s.withPos x) := Plain.same rfl rfl rfl rfl rfl

theorem issueTrigger_plain (s : State) : Plain s (issueTrigger s) := by
  unfold issueTrigger
  dsimp only
  refine Plain.trans ?_ (switchDetect_inner _ _).plain
  exact Plain.same rfl rfl rfl rfl rfl

theorem fireSchedule_plain (s : State) : Plain s (fireSchedule s) := by
  unfold fireSchedule
  dsimp only
  have h1 : Plain s (takeFiring s) := pos_plain _ _
  have h2 := (handFiring_inner (takeFiring s).pos.firing.length (takeFiring s) (le_refl _)).1.plain
  split
  · split
    · exact h1.trans (h2.trans (retryDivert_inner _).plain)
    · exact h1.trans h2
  · exact h1.trans (h2.trans (afterDeparture_inner _).plain)

theorem fireSchedule_p (s : State) : (fireSchedule s).pos.p = s.pos.p := by
  unfold fireSchedule
  dsimp only
  have h2 := (handFiring_inner (takeFiring s).pos.firing.length (takeFiring s) (le_refl _)).1.p
  have h1 : (takeFiring s).pos.p = s.pos.p := rfl
  split
  · split
    · exact ((retryDivert_inner _).p.trans h2)
    · exact h2
  · exact ((afterDeparture_inner _).p.trans h2)

theorem issueTrigger_p (s : State) : (issueTrigger s).pos.p = s.pos.p := by
  unfold issueTrigger
  dsimp only
  exact (switchDetect_inner _ _).p

theorem advancePhase_plain (s : State) : Plain s (advancePhase s) := by
  unfold advancePhase
  dsimp only
  split
  · exact issueTrigger_plain _
  · exact pos_plain _ _

theorem advancePhase_p (s : State) : (advancePhase s).pos.p = s.pos.p := by
  unfold advancePhase
  dsimp only
  split
  · exact issueTrigger_p _
  · rfl

theorem advanceP_plain (s : State) : Plain s (advanceP s) := by
  unfold advanceP
  dsimp only
  have h : Plain s (fireSchedule (advancePhase (s.withPos { s.pos with p := s.pos.p + 1, stallTimer := 0, stallArmed := true }))) := by
    refine Plain.trans (Plain.trans (pos_plain s { s.pos with p := s.pos.p + 1, stallTimer := 0, stallArmed := true }) ?_) (fireSchedule_plain _)
    exact advancePhase_plain _
  split
  · exact h
  · exact h.trans (recomputeH_inner _).plain

theorem advanceP_p (s : State) : (advanceP s).pos.p = s.pos.p + 1 := by
  unfold advanceP
  dsimp only
  have h : (fireSchedule (advancePhase (s.withPos { s.pos with p := s.pos.p + 1, stallTimer := 0, stallArmed := true }))).pos.p = s.pos.p + 1 := by
    rw [fireSchedule_p, advancePhase_p]; rfl
  split
  · exact h
  · exact (recomputeH_inner _).p.trans h

theorem encoderChange_plain (a b : Bool) (s : State) : Plain s (encoderChange a b s) := by
  unfold encoderChange
  dsimp only
  refine Plain.trans (pos_plain s { s.pos with encA := a, encB := b }) ?_
  split
  · unfold forwardIncrement
    split
    · split
      · exact advanceP_plain _
      · exact Plain.refl _
    · split
      · exact pos_plain _ _
      · exact pos_plain _ _
  · unfold reverseIncrement
    split
    · exact pos_plain _ _
    · split
      · exact pos_plain _ _
      · split
        · exact Plain.trans (pos_plain _ _) (raise_inner _ _ _ _ _).plain
        · exact Plain.refl _
  · exact Plain.refl _

theorem encoderChange_p (a b : Bool) (s : State) :
    (encoderChange a b s).pos.p = s.pos.p ∨ (encoderChange a b s).pos.p = s.pos.p + 1 := by
  unfold encoderChange
  dsimp only
  split
  · unfold forwardIncrement
    split
    · split
      · exact .inr (advanceP_p _)
      · exact .inl rfl
    · split <;> exact .inl rfl
  · unfold reverseIncrement
    split
    · exact .inl rfl
    · split
      · exact .inl rfl
      · split
        · exact .inl (raise_inner _ _ _ _ _).p
        · exact .inl rfl
  · exact .inl rfl

theorem stallExpiry_plain (s : State) : Plain s (stallExpiry s) := by
  unfold stallExpiry
  split
  · exact Plain.trans (pos_plain _ _) (raise_inner _ _ _ _ _).plain
  · exact Plain.refl _

theorem linkDown_plain (i : LaneId) (s : State) : Plain s (linkDown i s) := by
  unfold linkDown
  dsimp only
  have h0 : Plain s (s.modRx i fun x => { x with link := .down }) := Plain.same rfl rfl rfl rfl rfl
  split
  · exact h0.trans (goSilent_inner _ _ _).plain
  · exact h0

theorem requestArrives_plain (r : Request) (s : State) : Plain s (requestArrives r s) := by
  unfold requestArrives
  split
  · unfold depart
    dsimp only [State.withTrunk_trunk]
    split
    · exact Plain.same rfl rfl rfl rfl rfl
    · exact Plain.same rfl rfl rfl rfl rfl
  · exact (handRecord_inner _ _).plain

theorem trunkFrameArrives_plain (f : Frame) (s : State) : Plain s (trunkFrameArrives f s) := by
  unfold trunkFrameArrives badFrame
  split
  · exact Plain.same rfl rfl rfl rfl rfl
  · split
    · exact Plain.same rfl rfl rfl rfl rfl
    · split
      · split
        · exact requestArrives_plain _ _
        · exact Plain.same rfl rfl rfl rfl rfl
      · split
        · split
          · unfold headArrives badFrame
            split
            · exact Plain.same rfl rfl rfl rfl rfl
            · split
              · exact Plain.same rfl rfl rfl rfl rfl
              · exact Plain.same rfl rfl rfl rfl rfl
          · exact Plain.same rfl rfl rfl rfl rfl
        · exact Plain.same rfl rfl rfl rfl rfl

theorem laneControl_plain (t : Byte) (a : List Byte) (s : State) :
    ∃ u, execLaneControl t a s = done u ∧ Plain s u := by
  have h0 := respond_plain (tag := t) (kind := 9) (args := a) (body := []) (st := .malformed) (Plain.refl s)
  unfold execLaneControl
  split
  · split
    · next i m _ _ =>
      have h1 : Plain s (setForward i m s) := Plain.same rfl rfl rfl rfl rfl
      split
      · exact respond_plain (Plain.trans h1 (enableLane_inner _ _).plain)
      · exact respond_plain (Plain.trans h1 (disableLane_inner _ _).plain)
      · exact h0
    · exact h0
  · exact h0

/-- What every command but the resets, the run control, the setup and output requests and the transmitter's events does. -/
theorem exec_plain (c : Instr) (s : State) (hl : LinesOk s) (h1 : ∀ lv, c ≠ .powerOnReset lv)
    (h2 : ∀ tag args, c ≠ .partReset tag args) (h3 : ∀ tag args, c ≠ .setupWrite tag args)
    (h4 : ∀ tag args, c ≠ .outputSet tag args) (h5 : ∀ tag args, c ≠ .outputOwner tag args)
    (h6 : ∀ tag args, c ≠ .runStart tag args) (h7 : ∀ tag args, c ≠ .runStop tag args)
    (h8 : c ≠ .trunkSendDone) (h9 : c ≠ .trunkLinkDown) :
    ∃ u, exec c s = done u ∧ Plain s u := by
  cases c with
  | powerOnReset lv => exact absurd rfl (h1 lv)
  | partReset t a => exact absurd rfl (h2 t a)
  | setupWrite t a => exact absurd rfl (h3 t a)
  | outputSet t a => exact absurd rfl (h4 t a)
  | outputOwner t a => exact absurd rfl (h5 t a)
  | runStart t a => exact absurd rfl (h6 t a)
  | runStop t a => exact absurd rfl (h7 t a)
  | trunkSendDone => exact absurd rfl h8
  | trunkLinkDown => exact absurd rfl h9
  | encoderIncrement a b => exact ⟨_, rfl, encoderChange_plain a b s⟩
  | stallTimerExpiry => exact ⟨_, rfl, stallExpiry_plain s⟩
  | silenceTimerExpiry i => exact ⟨_, rfl, (silenceExpiry_inner i s).plain⟩
  | shiftTimerExpiry => exact ⟨_, rfl, (shiftExpiry_inner s).plain⟩
  | cutAckRise q => exact ⟨_, rfl, (ackRise_inner q s).plain⟩
  | cutAckFall => exact ⟨_, rfl, (ackFall_inner s).plain⟩
  | cutterFaultRise => exact ⟨_, rfl, (faultRise_inner s).plain⟩
  | cutterFaultFall => exact ⟨_, rfl, (faultFall_inner s).plain⟩
  | lineFrame i f => exact ⟨_, rfl, (lineArrives_inner i f s (hl i)).plain⟩
  | headReplyFrame i f =>
    refine ⟨_, rfl, ?_⟩
    unfold headReplyArrives
    split
    · exact (handRecord_inner _ _).plain
    · exact (countMalformed_inner _ _).plain
  | laneLinkDown i => exact ⟨_, rfl, linkDown_plain i s⟩
  | laneLinkUp i => exact ⟨_, rfl, Plain.same rfl rfl rfl rfl rfl⟩
  | headCommandSent i => exact ⟨_, rfl, Plain.same rfl rfl rfl rfl rfl⟩
  | trunkFrame f => exact ⟨_, rfl, trunkFrameArrives_plain f s⟩
  | trunkLinkUp => exact ⟨_, rfl, Plain.same rfl rfl rfl rfl rfl⟩
  | headFrameOtherType i f => exact ⟨_, rfl, (countMalformed_inner _ _).plain⟩
  | statusGet t a => exact respond_plain (Plain.refl s)
  | tableWrite t a =>
    dsimp only [exec]; unfold execTableWrite
    repeat' split
    all_goals first
      | exact respond_plain (Plain.refl s)
      | exact respond_plain (writeEntry_inner _ _ _ _ (by simp_all)).plain
  | tableRead t a =>
    dsimp only [exec]; unfold execTableRead
    repeat' split
    all_goals exact respond_plain (Plain.refl s)
  | bankCommit t a =>
    dsimp only [exec]; unfold execBankCommit
    repeat' split
    all_goals first
      | exact respond_plain (Plain.refl s)
      | exact ⟨_, rfl, ((acceptCommit_inner _ _ (by simp_all)).plain.trans (answer_plain _ _ _ _)).trans
          (followCommit_inner _ _).plain⟩
  | setupRead t a =>
    dsimp only [exec]; unfold execSetupRead
    repeat' split
    all_goals exact respond_plain (Plain.refl s)
  | laneControl t a => exact laneControl_plain t a s
  | cutterHold t a => exact respond_plain (requestHold_inner s).plain
  | cutterRelease t a => exact respond_plain (releaseHold_inner s).plain
  | shiftClose t a => exact respond_plain ((closeShift_inner _ _).trans (Inner.report _ _)).plain
  | reportGet t a =>
    dsimp only [exec]; unfold execReportGet
    repeat' split
    all_goals first
      | exact respond_plain (Plain.refl s)
      | exact respond_plain (Inner.report _ _).plain
  | conditionGet t a => exact respond_plain (Plain.refl s)
  | conditionClear t a =>
    dsimp only [exec]; unfold execConditionClear
    repeat' split
    all_goals first
      | exact respond_plain (Plain.refl s)
      | exact respond_plain (Inner.cond _ _).plain
end Sys2Proof.Machine
end

