-- ==== Sys2Proof/Laws/Lines.lean ====
section
/-! SUPPORT. A good LINE frame: how it is read, what its handling begins and ends with, and what closing a gap and seeding do
to the lane (R20, R23, R31, R32). -/

namespace Sys2Proof.Machine

/-- A frame laid out as R177 lays out a LINE frame, with its CRC and five bytes for every four pixels, is read whole. -/
theorem parse_good {t n : Nat} {flags : Byte} {payload : List Byte} {ftype : Byte} {crc : BitVec 16}
    (ht : t < 65536) (_hn : n < 65536) (hp : payload.length < 65000)
    (hc : crcHolds ⟨ftype, BitVec.ofNat 16 (leBytes 2 t ++ leBytes 2 n ++ flags :: payload).length,
      leBytes 2 t ++ leBytes 2 n ++ flags :: payload, crc⟩ = true) (h4 : 4 * payload.length = 5 * n) :
    parseLine ⟨ftype, BitVec.ofNat 16 (leBytes 2 t ++ leBytes 2 n ++ flags :: payload).length,
      leBytes 2 t ++ leBytes 2 n ++ flags :: payload, crc⟩ = some ⟨t, n, flags, payload⟩ := by
  have e1 : ofLE (leBytes 2 t) = t := by rw [ofLE_leBytes]; omega
  have e2 : ofLE (leBytes 2 n) = n := by rw [ofLE_leBytes]; omega
  have h5 : n % 4 = 0 := by omega
  have h6 : payload.length = 5 * (n / 4) := by omega
  have h7 : (payload.length + 5) % 65536 = payload.length + 5 := Nat.mod_eq_of_lt (by omega)
  unfold parseLine
  simp only [leBytes, List.cons_append, List.nil_append] at *
  refine (if_pos ?_).trans ?_
  swap
  · rw [e1, e2]
  rw [e2]
  simp only [Bool.and_eq_true, beq_iff_eq]
  refine ⟨⟨⟨hc, ?_⟩, h5⟩, h6⟩
  simp only [List.length_cons, BitVec.toNat_ofNat]
  omega

/-- A receiver after a quiet operation. -/
theorem quiet_rx {s t : State} (h : Quiet s t) (i : LaneId) : t.rx i = { s.rx i with lineBinding := (t.rx i).lineBinding } := h.rx i

/-- A receiver after the arbiter's take. -/
theorem take_rx (u t : State) (h : AfterTake u t) (i : LaneId) : t.rx i = { u.rx i with slot := (t.rx i).slot } := by
  have := (h.blocks.lanes i).1
  unfold State.rx at *
  rw [this]

/-- Setting a lane's state, and then the recomputation of H. -/
theorem setLaneState_quiet (i : LaneId) (st : LaneState) (s : State) :
    Quiet (s.modRx i fun x => { x with state := st }) (setLaneState i st s) := recomputeH_quiet _

/-- The receivers after the close of a lane's gap (R32). -/
theorem closeGap_rx (i j : LaneId) (stop : Nat) (s : State) : (closeGap i stop s).rx j =
    if j = i then (match (s.rx i).openGap with
      | none => s.rx i
      | some g =>
        if g < stop then
          { s.rx i with
            openGap := none
            lastClosedGap := some (heldSum stop)
            lastGapStart := if s.map.records.any (MapRecord.isOpenGapOf i) then some g else none }
        else { s.rx i with openGap := none })
    else s.rx j := by
  have hm : ∀ a b (u : State), (closeMapGap i a b u).lanes = u.lanes := by
    intro a b u
    unfold closeMapGap
    split
    · split <;> rfl
    · split
      · rfl
      · rfl
  have hcnt : ∀ (u : State) a b c k, (u.countGap a b c).rx k = u.rx k := fun _ _ _ _ _ => rfl
  unfold closeGap
  cases hg : (s.rx i).openGap with
  | none =>
    dsimp only
    split
    · next h => rw [h]
    · rfl
  | some g =>
    dsimp only
    have hx : ∀ k, (closeMapGap i g stop s).rx k = s.rx k := by intro k; unfold State.rx State.lane; rw [hm]
    by_cases hlt : g < stop
    · rw [if_pos hlt, hcnt, State.modRx_rx, hx, hx]
      simp [hlt]
    · rw [if_neg hlt, State.modRx_rx, hx, hx]
      simp [hlt]

theorem closeGap_profile (i j : LaneId) (stop : Nat) (s : State) : ((closeGap i stop s).lane j).profile = (s.lane j).profile := by
  have hm : ∀ a b (u : State), (closeMapGap i a b u).lanes = u.lanes := by
    intro a b u
    unfold closeMapGap
    split
    · split <;> rfl
    · split
      · rfl
      · rfl
  unfold closeGap
  split
  · rfl
  · next g hg =>
    dsimp only
    split
    · have hcnt : ∀ (u : State) a b c k, (u.countGap a b c).lane k = u.lane k := fun _ _ _ _ _ => rfl
      rw [hcnt, State.modRx_profile]; unfold State.lane; rw [hm]
    · rw [State.modRx_profile]; unfold State.lane; rw [hm]

/-- A seed or re-seed line: the lane after it (R23, R31). -/
theorem seedFrom_spec (i : LaneId) (x : Taken) (s : State) :
    let u := seedFrom i x s
    let stop := max (x.position + s.setup.linePitch) s.map.h
    (u.rx i).state = .running ∧ (u.rx i).seeded = true ∧ (u.rx i).openGap = none ∧
    (u.rx i).lastTrigger = (s.rx i).lastTrigger ∧ (u.rx i).lastPosition = (s.rx i).lastPosition ∧
    (u.rx i).silenceTimer = (s.rx i).silenceTimer ∧
    (∀ g, (s.rx i).openGap = some g → (u.rx i).lastClosedGap = if g < stop then some (heldSum stop) else (s.rx i).lastClosedGap) ∧
    (u.lane i).profile = seedColumns (s.laneEntry x.bank i) 0 x.line.pixels (s.lane i).profile := by
  dsimp only
  have hg : glassEnd s x.position = x.position + s.setup.linePitch := rfl
  unfold seedFrom
  dsimp only
  rw [hg]
  generalize hs1 : closeGap i (max (x.position + s.setup.linePitch) s.map.h) (seedLine i x.bank x.line s) = c
  have hc := closeGap_rx i i (max (x.position + s.setup.linePitch) s.map.h) (seedLine i x.bank x.line s)
  rw [hs1, if_pos rfl] at hc
  have hcp : (c.lane i).profile = seedColumns (s.laneEntry x.bank i) 0 x.line.pixels (s.lane i).profile := by
    rw [← hs1, closeGap_profile]; unfold seedLine State.setProfile; rw [State.setLane_lane_same]
  have hsx : (seedLine i x.bank x.line s).rx i = s.rx i := by unfold seedLine; rw [State.setProfile_rx]
  rw [hsx] at hc
  have q := setLaneState_quiet i .running (c.modRx i fun r => { r with seeded := true })
  have qr := quiet_rx q i
  rw [State.modRx_rx_same, State.modRx_rx_same] at qr
  have qp := q.profile i
  rw [State.modRx_profile, State.modRx_profile, hcp] at qp
  rw [hc] at qr
  refine ⟨by rw [qr], by rw [qr], ?_, ?_, ?_, ?_, ?_, qp⟩
  · rw [qr]; dsimp only; cases h : (s.rx i).openGap <;> simp <;> [exact h; (split <;> rfl)]
  · rw [qr]; dsimp only; cases h : (s.rx i).openGap <;> simp; split <;> rfl
  · rw [qr]; dsimp only; cases h : (s.rx i).openGap <;> simp; split <;> rfl
  · rw [qr]; dsimp only; cases h : (s.rx i).openGap <;> simp; split <;> rfl
  · intro g h; rw [qr]; dsimp only; rw [h]; dsimp only; split <;> rfl

/-- A profile after the arbiter's take. -/
theorem take_profile (u t : State) (h : AfterTake u t) (i : LaneId) : (t.lane i).profile = (u.lane i).profile := by
  rw [(h.blocks.lanes i).1]

/-- A good line goes to its handling. -/
theorem lineArrives_good {i : LaneId} {f : Frame} {s : State} {l : Line} {b : BankId} {p : Nat}
    (hs : (s.rx i).state = .waiting ∨ (s.rx i).state = .running ∨ (s.rx i).state = .silent)
    (hp : parseLine f = some l) (hb : bankInEffect s i l.trigger = some b)
    (hn : l.pixelCount = (s.laneEntry b i).pixelCount) (hl : lookupTrigger l.trigger s = some p)
    (ho : outOfOrder (s.rx i) l.trigger p = false) :
    lineArrives i f s = handleGood i ⟨l, p, b, decide (p < s.map.h)⟩ (copyIf .all i l (some p) s) := by
  have hc : checkedLine i f s = some l := by
    unfold checkedLine; rw [hp]; dsimp only; rw [hb]; dsimp only; rw [if_pos (by simpa using hn)]
  have ho2 : outOfOrder ((copyIf .all i l (some p) s).rx i) l.trigger p = false := by
    rw [← ho]
    unfold copyIf
    split
    · rw [State.modRx_rx_same]; unfold Receiver.copyForward; split <;> rfl
    · rfl
  have hm : (copyIf .all i l (some p) s).map = s.map := by unfold copyIf; split <;> rfl
  have hpl : placeLine i l (bankInEffect s i l.trigger) s =
      handleGood i ⟨l, p, b, decide (p < s.map.h)⟩ (copyIf .all i l (some p) s) := by
    unfold placeLine
    rw [hl, hb]
    dsimp only
    rw [ho2, hm]
    rfl
  unfold lineArrives
  rcases hs with h | h | h <;> rw [h] <;> dsimp only <;> rw [hc] <;> exact hpl

theorem copyIf_rx (i : LaneId) (l : Line) (p : Option Nat) (s : State) :
    ∃ sl d, (copyIf .all i l p s).rx i = { s.rx i with slot := sl, forwardDropped := d } := by
  unfold copyIf
  split
  · rw [State.modRx_rx_same]; unfold Receiver.copyForward
    split
    · exact ⟨_, _, rfl⟩
    · exact ⟨_, _, rfl⟩
  · exact ⟨_, _, rfl⟩

theorem copyIf_keeps (m : ForwardMode) (i : LaneId) (l : Line) (p : Option Nat) (s : State) :
    (copyIf m i l p s).store = s.store ∧ (copyIf m i l p s).map = s.map ∧ (copyIf m i l p s).msTime = s.msTime ∧
    ∀ j, ((copyIf m i l p s).lane j).profile = (s.lane j).profile := by
  unfold copyIf
  split
  · exact ⟨rfl, rfl, rfl, fun j => State.modRx_profile _ _ _ _⟩
  · exact ⟨rfl, rfl, rfl, fun j => rfl⟩

/-- The end of a line's handling. -/
theorem endGood (i : LaneId) (v : State) :
    let u := recomputeH (v.modRx i fun r => { r with inHand := none })
    u.rx i = { v.rx i with inHand := none, lineBinding := (u.rx i).lineBinding } ∧ (u.lane i).profile = (v.lane i).profile := by
  dsimp only
  have q := recomputeH_quiet (v.modRx i fun r => { r with inHand := none })
  have := quiet_rx q i
  rw [State.modRx_rx_same] at this
  refine ⟨this, ?_⟩
  rw [q.profile, State.modRx_profile]

/-- A detected line: the lane after it (R27). -/
theorem inspect_spec (i : LaneId) (x : Taken) (s : State) :
    (∃ sl d lb, (inspectLine i x s).rx i = { s.rx i with slot := sl, forwardDropped := d, lineBinding := lb }) ∧
    ((inspectLine i x s).lane i).profile = (detectColumns (s.laneEntry x.bank i) (laneBoundaries (s.detectTables x.bank) i)
      (laneThresholds (s.detectTables x.bank) i) 0 x.line.pixels (s.lane i).profile).1 := by
  have cp : ∀ (m : ForwardMode) (l : Line) (p : Option Nat) (u : State),
      ∃ sl d, (copyIf m i l p u).rx i = { u.rx i with slot := sl, forwardDropped := d } := by
    intro m l p u
    unfold copyIf
    split
    · rw [State.modRx_rx_same]; unfold Receiver.copyForward
      split
      · exact ⟨_, _, rfl⟩
      · exact ⟨_, _, rfl⟩
    · exact ⟨_, _, rfl⟩
  have dl : ((detectLine i x.bank x.line s).1.lane i).profile = (detectColumns (s.laneEntry x.bank i) (laneBoundaries (s.detectTables x.bank) i)
      (laneThresholds (s.detectTables x.bank) i) 0 x.line.pixels (s.lane i).profile).1 ∧
      (detectLine i x.bank x.line s).1.rx i = { s.rx i with lineBinding := ((detectLine i x.bank x.line s).1.rx i).lineBinding } := by
    unfold detectLine overflowRuns
    dsimp only
    split
    · refine ⟨?_, ?_⟩
      · unfold State.setProfile; rw [State.setLane_lane_same]
      · rw [State.setProfile_rx]
    · have q := raise_quiet .runOverflow (some i) ((formRuns (s.laneEntry x.bank i).g (detectColumns (s.laneEntry x.bank i) (laneBoundaries (s.detectTables x.bank) i) (laneThresholds (s.detectTables x.bank) i) 0 x.line.pixels (s.lane i).profile).2).length - Config.runsKept) x.line.trigger (s.setProfile i (detectColumns (s.laneEntry x.bank i) (laneBoundaries (s.detectTables x.bank) i) (laneThresholds (s.detectTables x.bank) i) 0 x.line.pixels (s.lane i).profile).1)
      refine ⟨?_, ?_⟩
      · refine (q.profile i).trans ?_
        unfold State.setProfile; rw [State.setLane_lane_same]
      · have := quiet_rx q i
        rw [State.setProfile_rx] at this
        exact this
  unfold inspectLine
  dsimp only
  generalize detectLine i x.bank x.line s = r at dl
  have key : ∀ u : State, Quiet r.1 u → (∃ sl d lb, u.rx i = { s.rx i with slot := sl, forwardDropped := d, lineBinding := lb }) ∧
     (u.lane i).profile = (r.1.lane i).profile := by
    intro u q
    refine ⟨⟨(s.rx i).slot, (s.rx i).forwardDropped, (u.rx i).lineBinding, ?_⟩, q.profile i⟩
    have := quiet_rx q i
    rw [dl.2] at this
    exact this
  have hq : Quiet r.1 (if x.behind = true then (trackIdle i 1 r.1).count fun c => { c with behindHorizon := bump32 c.behindHorizon }
      else (trackRuns i x.bank x.position x.line.trigger r.2 r.1).count fun c =>
        { c with linesInspected := c.linesInspected.set i (bump32 (c.linesInspected.get i)) }) := by
    split
    · exact (trackIdle_quiet _ _ _).trans (Quiet.count _ _)
    · exact (trackRuns_quiet _ _ _ _ _ _).trans (Quiet.count _ _)
  have hk := key _ hq
  split
  · exact ⟨hk.1, hk.2.trans dl.1⟩
  · obtain ⟨⟨sl, d, lb, h1⟩, h2⟩ := hk
    obtain ⟨sl', d', h3⟩ := cp .hits x.line (some x.position) (if x.behind = true then (trackIdle i 1 r.1).count fun c => { c with behindHorizon := bump32 c.behindHorizon }
      else (trackRuns i x.bank x.position x.line.trigger r.2 r.1).count fun c =>
        { c with linesInspected := c.linesInspected.set i (bump32 (c.linesInspected.get i)) })
    refine ⟨⟨sl', d', lb, ?_⟩, ?_⟩
    · rw [h3, h1]
    · refine Eq.trans ?_ (h2.trans dl.1)
      exact (copyIf_keeps .hits i x.line (some x.position) _).2.2.2 i

/-- Two receivers agree on the last taken line, the silence timer and the missing counter. -/
def sameTake (x y : Receiver) : Prop :=
  y.lastTrigger = x.lastTrigger ∧ y.lastPosition = x.lastPosition ∧ y.silenceTimer = x.silenceTimer ∧
    y.missing = x.missing

theorem rxSame.take {x y : Receiver} (h : rxSame x y) : sameTake x y := by
  unfold rxSame at h; rw [h]; exact ⟨rfl, rfl, rfl, rfl⟩

theorem sameTake.trans {x y z : Receiver} (a : sameTake x y) (b : sameTake y z) : sameTake x z :=
  ⟨b.1.trans a.1, b.2.1.trans a.2.1, b.2.2.1.trans a.2.2.1, b.2.2.2.trans a.2.2.2⟩

/-- Opening a gap where there is none: the lane's gap starts there, or where it did; nothing else of the lane but its line
binding may change. -/
theorem openGapIfNone_spec (i : LaneId) (g : Nat) (s : State) :
    (∃ lb, (openGapIfNone i g s).rx i = { s.rx i with openGap := some ((s.rx i).openGap.getD g), lineBinding := lb }) ∧
    ((openGapIfNone i g s).lane i).profile = (s.lane i).profile ∧ (openGapIfNone i g s).msTime = s.msTime := by
  unfold openGapIfNone
  split
  · next v h =>
    refine ⟨⟨(s.rx i).lineBinding, ?_⟩, rfl, rfl⟩
    have : some ((s.rx i).openGap.getD g) = (s.rx i).openGap := by rw [h]; rfl
    rw [this]
  · next h =>
    have q : Quiet s (enterOpenGap i g s) := by
      unfold enterOpenGap refuseOpenGap State.withRecords State.withMark
      split
      · exact Quiet.map _ _
      · exact (Quiet.map _ _).trans (raise_quiet _ _ _ _ _)
    unfold openGap
    refine ⟨⟨((enterOpenGap i g s).rx i).lineBinding, ?_⟩, ?_, ?_⟩
    · rw [State.modRx_rx_same, quiet_rx q i, h]; rfl
    · rw [State.modRx_profile, q.profile]
    · exact (enterOpenGap_inner i g s).msTime

/-- Entry to SILENT: what the lane's receiver is afterwards. -/
theorem enterSilent_spec (i : LaneId) (g : Nat) (s : State) :
    let u := enterSilent i g s
    (∃ lb, u.rx i = { s.rx i with openGap := some ((s.rx i).openGap.getD g), silentSince := some s.msTime, satRun := 0, state := .silent, lineBinding := lb }) ∧
    (u.lane i).profile = (s.lane i).profile := by
  dsimp only
  unfold enterSilent
  dsimp only
  have q0 : Quiet s (if ((s.rx i).state == .running) = true then flush i s else s) := by
    split
    · exact flush_quiet _ _
    · exact Quiet.refl s
  have i0 : Inner s (if ((s.rx i).state == .running) = true then flush i s else s) := by
    split
    · exact flush_inner _ _
    · exact Inner.refl s
  generalize (if ((s.rx i).state == .running) = true then flush i s else s) = a at *
  obtain ⟨⟨lb, h1⟩, h2, h3⟩ := openGapIfNone_spec i g a
  generalize openGapIfNone i g a = b at *
  set c := b.modRx i (fun x => { x with silentSince := some b.msTime, satRun := 0 }) with hc
  have q1 := releaseLineBinding_quiet i c
  have q2 := setLaneState_quiet i .silent (releaseLineBinding i c)
  refine ⟨⟨((setLaneState i .silent (releaseLineBinding i c)).rx i).lineBinding, ?_⟩, ?_⟩
  · have e3 : c.rx i = { s.rx i with
        openGap := some ((s.rx i).openGap.getD g), silentSince := some s.msTime, satRun := 0, lineBinding := lb } := by
      rw [hc, State.modRx_rx_same, h1, quiet_rx q0 i, h3, i0.msTime]
    have e2 := quiet_rx q2 i
    rw [State.modRx_rx_same, quiet_rx q1 i, e3] at e2
    exact e2
  · rw [q2.profile, State.modRx_profile, q1.profile, hc, State.modRx_profile, h2, q0.profile]

/-- The saturation run's handling keeps the last taken line. -/
theorem saturate_take (i : LaneId) (x : Taken) (s : State) : sameTake (s.rx i) ((saturateLine i x s).rx i) := by
  unfold saturateLine
  dsimp only
  split
  · obtain ⟨⟨sl, d, lb, h⟩, _⟩ := inspect_spec i x (s.modRx i fun r => { r with satRun := 0 })
    rw [h, State.modRx_rx_same]; exact ⟨rfl, rfl, rfl, rfl⟩
  · split
    · obtain ⟨⟨sl, d, lb, h⟩, _⟩ := inspect_spec i x (s.modRx i fun r => { r with satRun := r.satRun + 1 })
      rw [h, State.modRx_rx_same]; exact ⟨rfl, rfl, rfl, rfl⟩
    · obtain ⟨⟨lb, h⟩, _⟩ := enterSilent_spec i x.position (raise .laneSaturated (some i)
        (satCount (s.laneEntry x.bank i) x.line.pixels) (s.laneEntry x.bank i).satLimit (s.modRx i fun r => { r with satRun := 16 }))
      rw [h, quiet_rx (raise_quiet _ _ _ _ _) i, State.modRx_rx_same]; exact ⟨rfl, rfl, rfl, rfl⟩

/-- A closed gap changes of its lane only the last closed gap with its record (and may release the line binding). -/
theorem closedGap_take (i : LaneId) (a b : Nat) (s : State) : sameTake (s.rx i) ((closedGap i a b s).rx i) ∧
    (∃ g b', (closedGap i a b s).rx i =
      { s.rx i with lastClosedGap := g, lastGapStart := b', lineBinding := ((closedGap i a b s).rx i).lineBinding }) ∧
    ((closedGap i a b s).lane i).profile = (s.lane i).profile := by
  have q : Quiet s (enterClosedGap i a b s).1 := by
    unfold enterClosedGap refuseClosedGap State.withRecords State.withMark
    repeat' split
    · exact Quiet.refl s
    · exact Quiet.map _ _
    · exact Quiet.map _ _
    · exact (Quiet.map _ _).trans (raise_quiet _ _ _ _ _)
  have hcnt : ∀ (u : State) a b c k, (u.countGap a b c).lane k = u.lane k := fun _ _ _ _ _ => rfl
  have hcnt2 : ∀ (u : State) a b c k, (u.countGap a b c).rx k = u.rx k := fun _ _ _ _ _ => rfl
  unfold closedGap
  dsimp only
  split
  · rw [hcnt, hcnt2, State.modRx_rx_same, State.modRx_profile, q.profile, quiet_rx q i]
    exact ⟨⟨rfl, rfl, rfl, rfl⟩, ⟨some (heldSum b), _, rfl⟩, rfl⟩
  · exact ⟨⟨rfl, rfl, rfl, rfl⟩, ⟨(s.rx i).lastClosedGap, (s.rx i).lastGapStart, rfl⟩, rfl⟩

end Sys2Proof.Machine
end

