-- ==== Sys2Proof/Laws/Forms.lean ====
section
/-! SUPPORT. The form of the operations that change one component of the state: which component, and on what alone the
change depends (R14, R15, R74, R75, R98). -/

namespace Sys2Proof.Machine

/-- A changed boundary changes the planner alone (R98). -/
theorem changeBoundary_form (n : Nat) (c : BoundaryChange) (s : State) :
    changeBoundary n c s = s.withPlan (changeBoundary n c s).plan := by
  unfold changeBoundary
  split
  · dsimp only
    split <;> rfl
  · rfl

/-- What a changed boundary makes of the planner depends on the planner alone. -/
theorem changeBoundary_plan {s u : State} (n : Nat) (c : BoundaryChange) (h : u.plan = s.plan) :
    (changeBoundary n c u).plan = (changeBoundary n c s).plan := by
  unfold changeBoundary
  rw [h]
  split
  · dsimp only
    split <;> rfl
  · rfl

/-- An insertion that is held changes the schedule alone (R12, R14). -/
theorem insertEntry_room {e : Entry} {s : State} (h : s.pos.p < e.fire)
    (hr : roomFor e.kind s.pos.schedule.length = true) :
    insertEntry e s = .held (s.withPos { s.pos with schedule := placeEntry e s.pos.schedule }) := by
  unfold insertEntry
  rw [if_neg (by omega), if_pos hr]

/-- An entry goes behind every entry whose fire position is at or below its own, and before every other. -/
theorem placeEntry_split {e : Entry} {es : List Entry} (h : es.Pairwise fun a b => a.fire ≤ b.fire) :
    ∃ pre post, es = pre ++ post ∧ (∀ x ∈ pre, x.fire ≤ e.fire) ∧ (∀ x ∈ post, e.fire < x.fire) ∧
      placeEntry e es = pre ++ e :: post := by
  induction es with
  | nil => exact ⟨[], [], rfl, by simp, by simp, rfl⟩
  | cons x xs ih =>
    obtain ⟨hx, hxs⟩ := List.pairwise_cons.1 h
    unfold placeEntry
    split
    · next hle =>
      obtain ⟨pre, post, h1, h2, h3, h4⟩ := ih hxs
      refine ⟨x :: pre, post, by rw [h1]; rfl, ?_, h3, by rw [h4]; rfl⟩
      intro a ha
      rcases List.mem_cons.1 ha with rfl | ha
      · exact hle
      · exact h2 a ha
    · next hlt =>
      refine ⟨[], x :: xs, rfl, by simp, ?_, rfl⟩
      intro a ha
      rcases List.mem_cons.1 ha with rfl | ha
      · omega
      · have := hx a ha; omega

/-- A record goes behind every record whose lead is at or below its own, and before every other (R74). -/
theorem placeRecord_split {r : MapRecord} {rs : List MapRecord} (h : rs.Pairwise fun a b => a.lead ≤ b.lead) :
    ∃ pre post, rs = pre ++ post ∧ (∀ x ∈ pre, x.lead ≤ r.lead) ∧ (∀ x ∈ post, r.lead < x.lead) ∧
      placeRecord r rs = pre ++ r :: post := by
  induction rs with
  | nil => exact ⟨[], [], rfl, by simp, by simp, rfl⟩
  | cons x xs ih =>
    obtain ⟨hx, hxs⟩ := List.pairwise_cons.1 h
    unfold placeRecord
    split
    · next hle =>
      obtain ⟨pre, post, h1, h2, h3, h4⟩ := ih hxs
      refine ⟨x :: pre, post, by rw [h1]; rfl, ?_, h3, by rw [h4]; rfl⟩
      intro a ha
      rcases List.mem_cons.1 ha with rfl | ha
      · exact hle
      · exact h2 a ha
    · next hlt =>
      refine ⟨[], x :: xs, rfl, by simp, ?_, rfl⟩
      intro a ha
      rcases List.mem_cons.1 ha with rfl | ha
      · omega
      · have := hx a ha; omega

/-- A hold is in force: requested, or the fault is high (R104). -/
theorem holdInForce_iff (c : Cutter) : c.holdInForce = true ↔ c.requestedHold = true ∨ c.faultHigh = true := by
  unfold Cutter.holdInForce
  simp

/-- The cutter is busy: a cut is outstanding, or CUT_ACK is high (R104). -/
theorem busy_iff (c : Cutter) : c.busy = true ↔ c.outstanding ≠ none ∨ c.ackHigh = true := by
  unfold Cutter.busy
  simp [Option.isSome_iff_ne_none]

/-- Whether the schedule holds the entry of a kind and a plate number. -/
theorem holdsEntry_eq (k : EntryKind) (n : Nat) (s : State) :
    holdsEntry k n s = s.pos.schedule.any fun e => decide (e.kind = k ∧ e.plate = n) := by
  unfold holdsEntry
  congr 1
  funext e
  unfold Entry.named
  cases h1 : decide (e.kind = k) <;> cases h2 : decide (e.plate = n) <;> simp_all

/-- A sum below 2^48 is held as it is. -/
theorem heldSum_of_lt {v : Nat} (h : v < 2 ^ 48) : heldSum v = v := if_pos h

/-- A difference that is not below zero is held as it is. -/
theorem heldDiff_of_le {a b : Nat} (h : b ≤ a) (ha : a - b < 2 ^ 48) : heldDiff a b = a - b := by
  unfold heldDiff heldInt
  rw [if_pos (by omega), show ((a : Int) - b).toNat = a - b by omega, heldSum_of_lt ha]

/-- A whole number within the field is held as it is. -/
theorem heldInt_ofNat {v : Nat} (h : v < 2 ^ 48) : heldInt v = v := by
  unfold heldInt
  rw [if_pos (by omega), Int.toNat_natCast, heldSum_of_lt h]

/-- The low 32 bits of a whole number that is not below zero are those of the number. -/
theorem low32Int_ofNat (v : Nat) : low32Int v = low32 v := by
  unfold low32Int low32
  omega

end Sys2Proof.Machine
end

