-- ==== Sys2Proof/Laws/Grading.lean ====
section
/-! SUPPORT. The tally of an evaluation, cell by cell, and the culprit search (R93, R121 to R123). -/

namespace Sys2Proof.Machine

/-- There are four grade zones (R121). -/
theorem gradeZone_lt (t : GradeTables) (r : Nat) : gradeZone t r < 4 := by
  unfold gradeZone
  repeat' split
  all_goals omega

@[simp] theorem Tally.zero_cell (c : Nat) : Tally.zero.getD c 0 = 0 := by
  unfold Tally.zero
  rw [List.getD_eq_getElem?_getD, List.getElem?_replicate]
  split <;> rfl

/-- A cell of a tally carried over flaws: one for each flaw of the cell, saturating at 255 (R122). -/
theorem tally_cell (t : GradeTables) (n : Nat) (fs : List FlawRecord) (ta : Tally) (hl : ta.length = 64)
    (hc : ∀ f ∈ fs, f.cls < 16) (c : Nat) (hb : ta.getD c 0 ≤ 255) :
    (fs.foldl (tallyFlaw t n) ta).getD c 0 =
      min 255 (ta.getD c 0 + fs.countP fun f => f.cls * 4 + gradeZone t (f.centre - n) == c) := by
  induction fs generalizing ta with
  | nil => rw [List.foldl_nil, List.countP_nil]; omega
  | cons f fs ih =>
    rw [List.foldl_cons]
    have hf := hc f List.mem_cons_self
    have hz := gradeZone_lt t (f.centre - n)
    have h1 : (tallyFlaw t n ta f).getD c 0 =
        if f.cls * 4 + gradeZone t (f.centre - n) = c then min 255 (ta.getD c 0 + 1) else ta.getD c 0 := by
      unfold tallyFlaw addAt satAdd
      rw [List.getD_eq_getElem?_getD, List.getElem?_set]
      split
      · next h => subst h; rw [if_pos (by omega)]; simp
      · simp
    rw [ih _ (by simp [tallyFlaw, addAt, hl]) (fun g hg => hc g (List.mem_cons_of_mem _ hg)) (by rw [h1]; split <;> omega),
      h1, List.countP_cons]
    by_cases h : f.cls * 4 + gradeZone t (f.centre - n) = c
    · simp only [h, if_pos, beq_self_eq_true]; omega
    · simp [h]

/-- A cell of the tally of flaws with class codes below 16: their number in the class and zone, cut to 255 (R122). -/
theorem tallyOf_cell (t : GradeTables) (n : Nat) (fs : List FlawRecord) (hc : ∀ f ∈ fs, f.cls < 16) {k z : Nat}
    (hz : z < 4) : (tallyOf t n fs).getD (k * 4 + z) 0 =
      min 255 (fs.countP fun f => f.cls == k && gradeZone t (f.centre - n) == z) := by
  unfold tallyOf
  rw [tally_cell t n fs Tally.zero rfl hc _ (by rw [Tally.zero_cell]; omega), Tally.zero_cell, Nat.zero_add]
  congr 1
  apply List.countP_congr
  intro f _
  have := gradeZone_lt t (f.centre - n)
  simp only [beq_iff_eq, Bool.and_eq_true]
  omega

/-- The running grade of no flaws is A. -/
theorem runningGrade_zero (t : GradeTables) : runningGrade t Tally.zero = .a := by
  unfold runningGrade
  rw [if_neg]
  · unfold limitGrade
    rw [if_pos]
    unfold Tally.within
    rw [List.all_eq_true]
    intro c _
    rw [Tally.zero_cell]
    simp
  · unfold Tally.fatal
    rw [List.any_eq_true]
    rintro ⟨k, _, hk⟩
    simp only [Tally.classTotal, Tally.cell, Tally.zero_cell, Bool.and_eq_true, decide_eq_true_eq] at hk
    omega

/-- Where the running grade starts good enough and ends too bad, the culprit is the flaw at which it first became so
(R93). -/
theorem culprit_spec (t : GradeTables) (n : Nat) (m : MinGrade) (ta : Tally) (fs : List FlawRecord)
    (h0 : (runningGrade t ta).worseThan m = false)
    (h1 : (runningGrade t (fs.foldl (tallyFlaw t n) ta)).worseThan m = true) :
    ∃ pre f post, fs = pre ++ f :: post ∧ culprit t n m ta fs = some f ∧
      (runningGrade t ((pre ++ [f]).foldl (tallyFlaw t n) ta)).worseThan m = true ∧
      ∀ q, q <+: pre → (runningGrade t (q.foldl (tallyFlaw t n) ta)).worseThan m = false := by
  induction fs generalizing ta with
  | nil => rw [List.foldl_nil, h0] at h1; cases h1
  | cons f fs ih =>
    unfold culprit
    dsimp only
    by_cases hw : (runningGrade t (tallyFlaw t n ta f)).worseThan m = true
    · rw [if_pos hw]
      refine ⟨[], f, fs, rfl, rfl, hw, ?_⟩
      intro q hq
      rw [List.prefix_nil.1 hq]
      exact h0
    · rw [if_neg hw]
      obtain ⟨pre, g, post, e1, e2, e3, e4⟩ := ih _ (by simpa using hw) h1
      refine ⟨f :: pre, g, post, by rw [e1]; rfl, e2, e3, ?_⟩
      intro q hq
      rcases q with _ | ⟨a, q⟩
      · exact h0
      · obtain ⟨ha, hp⟩ := List.cons_prefix_cons.1 hq
        subst ha
        exact e4 q hp

/-- Either boundary has the status. -/
theorem eitherIs_iff (p : Plate) (st : BoundaryStatus) :
    p.eitherIs st = true ↔ p.leadStatus = st ∨ p.trailStatus = st := by
  unfold Plate.eitherIs
  simp

end Sys2Proof.Machine
end

