-- ==== Sys2Proof/Laws/Columns.lean ====
section
/-! SUPPORT. One column of a line, read off the walk over all columns: what the datapath makes of it, and its zone (R39 to
R46). -/

namespace Sys2Proof.Machine

/-- The window's test (R39). -/
theorem inWindow_iff (e : LaneEntry) (c : Nat) : e.inWindow c = true ↔ e.winLo ≤ c ∧ c ≤ e.winHi := by
  unfold LaneEntry.inWindow; simp

/-- A column of a detected line: the profile after it, and its hits. -/
theorem detect_at (e : LaneEntry) (bs : List Nat) (ts : List Threshold) (ps : List Nat) (xs : List Column) (k c : Nat) (hc : c < xs.length) :
    let r := detectColumns e bs ts k ps xs
    let x := xs.getD c default
    let y := detectColumn (ts.getD (zoneOf bs (k + c)) default) e.k (k + c) (ps.getD c 0) x
    r.1.length = xs.length ∧ (∀ h ∈ r.2, k ≤ h.column) ∧
    (c < ps.length ∧ e.inWindow (k + c) = true → r.1.getD c default = y.1 ∧ (r.2.filter fun h => h.column == k + c) = y.2.toList) ∧
    (¬(c < ps.length ∧ e.inWindow (k + c) = true) → r.1.getD c default = x.unmark ∧ (r.2.filter fun h => h.column == k + c) = []) := by
  induction xs generalizing ps k c with
  | nil => simp at hc
  | cons x xs ih =>
    cases ps with
    | nil =>
      dsimp only
      unfold detectColumns
      refine ⟨by simp, by simp, by simp, ?_⟩
      intro _
      simp only [List.length_cons] at hc
      rw [List.getD_eq_getElem?_getD, List.getElem?_map, List.getD_eq_getElem?_getD, List.getElem?_eq_getElem (by simpa using hc)]
      exact ⟨rfl, rfl⟩
    | cons p ps =>
      have hcol : ∀ (t : Threshold) (q : Nat) (u : Column), ∀ h ∈ (detectColumn t e.k k q u).2.toList, h.column = k := by
        intro t q u h hh
        unfold detectColumn at hh
        split at hh
        · dsimp only at hh
          split at hh
          · simp at hh; rw [hh]
          · simp at hh
        · simp at hh
      rcases c with _ | c
      · -- head
        have hge : ∀ h ∈ (detectColumns e bs ts (k + 1) ps xs).2, k + 1 ≤ h.column := by
          rcases xs with _ | ⟨x', xs'⟩
          · cases ps <;> simp [detectColumns]
          · exact (ih ps (k + 1) 0 (by simp)).2.1
        have hlen : (detectColumns e bs ts (k + 1) ps xs).1.length = xs.length := by
          rcases xs with _ | ⟨x', xs'⟩
          · cases ps <;> simp [detectColumns]
          · exact (ih ps (k + 1) 0 (by simp)).1
        have hnil : (detectColumns e bs ts (k + 1) ps xs).2.filter (fun h => h.column == k) = [] := by
          rw [List.filter_eq_nil_iff]; intro h hh; have := hge h hh; simp; omega
        dsimp only
        unfold detectColumns
        dsimp only
        by_cases hw : e.inWindow k = true
        · rw [if_pos hw]
          refine ⟨by simp [hlen], ?_, ?_, ?_⟩
          · intro h hh
            rcases List.mem_append.1 hh with hh | hh
            · have := hcol _ _ _ h hh; omega
            · have := hge h hh; omega
          · intro _
            refine ⟨rfl, ?_⟩
            rw [List.filter_append, Nat.add_zero, hnil, List.append_nil]
            refine (List.filter_eq_self.2 ?_).trans rfl
            intro h hh
            simp [hcol _ _ _ h hh]
          · intro h; exact absurd ⟨by simp, by simpa using hw⟩ h
        · rw [if_neg hw]
          refine ⟨by simp [hlen], ?_, ?_, ?_⟩
          · intro h hh; have := hge h hh; omega
          · intro h; exact absurd (by simpa using h.2) hw
          · intro _; exact ⟨rfl, by rw [Nat.add_zero]; exact hnil⟩
      · -- tail
        have hcl : c < xs.length := by simpa using hc
        obtain ⟨a1, a2, a3, a4⟩ := ih ps (k + 1) c hcl
        dsimp only at a1 a2 a3 a4 ⊢
        have ek : k + 1 + c = k + (c + 1) := by omega
        rw [ek] at a3 a4
        unfold detectColumns
        dsimp only
        have hz : ∀ (t : Threshold) (q : Nat) (u : Column), (detectColumn t e.k k q u).2.toList.filter (fun h => h.column == k + (c + 1)) = [] := by
          intro t q u; rw [List.filter_eq_nil_iff]; intro h hh; rw [hcol _ _ _ h hh]; simp
        by_cases hw : e.inWindow k = true
        · rw [if_pos hw]
          refine ⟨by simp [a1], ?_, ?_, ?_⟩
          · intro h hh
            rcases List.mem_append.1 hh with hh | hh
            · have := hcol _ _ _ h hh; omega
            · have := a2 h hh; omega
          · intro h
            obtain ⟨b1, b2⟩ := a3 ⟨by simpa using h.1, h.2⟩
            refine ⟨b1, ?_⟩
            rw [List.filter_append, hz, List.nil_append]; exact b2
          · intro h
            obtain ⟨b1, b2⟩ := a4 (by simpa using h)
            refine ⟨b1, ?_⟩
            rw [List.filter_append, hz, List.nil_append]; exact b2
        · rw [if_neg hw]
          refine ⟨by simp [a1], ?_, ?_, ?_⟩
          · intro h hh; have := a2 h hh; omega
          · intro h; exact a3 ⟨by simpa using h.1, h.2⟩
          · intro h; exact a4 (by simpa using h)

/-- A column of a seed line. -/
theorem seed_at (e : LaneEntry) (ps : List Nat) (xs : List Column) (k c : Nat) (hc : c < xs.length) :
    (seedColumns e k ps xs).getD c default = if c < ps.length ∧ e.inWindow (k + c) = true then ⟨64 * ps.getD c 0, true⟩ else (xs.getD c default).unmark := by
  induction xs generalizing ps k c with
  | nil => simp at hc
  | cons x xs ih =>
    cases ps with
    | nil =>
      unfold seedColumns
      rw [if_neg (by simp)]
      simp only [List.length_cons] at hc
      rw [List.getD_eq_getElem?_getD, List.getElem?_map, List.getD_eq_getElem?_getD, List.getElem?_eq_getElem (by simpa using hc)]
      rfl
    | cons p ps =>
      unfold seedColumns
      rcases c with _ | c
      · simp only [Nat.add_zero]
        by_cases h : e.inWindow k = true
        · rw [if_pos h, if_pos ⟨by simp, h⟩]; rfl
        · rw [if_neg h, if_neg (fun x => h x.2)]; rfl
      · rw [List.getD_cons_succ, ih ps (k + 1) c (by simpa using hc)]
        simp only [List.length_cons, List.getD_cons_succ]
        rw [show k + 1 + c = k + (c + 1) by omega]
        simp

/-- The walk over non-decreasing boundaries ends at the last that is at or below the column (R40). -/
theorem zone_fold (bs : List Nat) (c : Nat) : ∀ k z0, bs.Pairwise (· ≤ ·) → z0 ≤ k →
    let z := (bs.zipIdx (k + 1)).foldl (fun z b => if b.1 ≤ c then b.2 else z) z0
    (z = z0 ∨ (k < z ∧ z ≤ k + bs.length ∧ bs.getD (z - (k + 1)) 0 ≤ c)) ∧ z ≤ k + bs.length ∧ ∀ w, z < w → k < w → w ≤ k + bs.length → c < bs.getD (w - (k + 1)) 0 := by
  induction bs with
  | nil =>
    intro k z0 _ h
    dsimp only
    rw [List.zipIdx_nil, List.foldl_nil]
    exact ⟨.inl rfl, by simpa using h, fun w a b c => absurd c (by simp; omega)⟩
  | cons b bs ih =>
    intro k z0 hp hz
    obtain ⟨hb, hbs⟩ := List.pairwise_cons.1 hp
    dsimp only
    rw [List.zipIdx_cons, List.foldl_cons]
    dsimp only
    by_cases h : b ≤ c
    · rw [if_pos h]
      obtain ⟨i1, i2, i3⟩ := ih (k + 1) (k + 1) hbs (le_refl _)
      set z := List.foldl (fun z b => if b.1 ≤ c then b.2 else z) (k + 1) (bs.zipIdx (k + 1 + 1)) with hzd
      have hge : k + 1 ≤ z := by rcases i1 with h | h <;> omega
      refine ⟨.inr ⟨by omega, by simp; omega, ?_⟩, by simp; omega, ?_⟩
      · rcases i1 with h1 | ⟨h1, h2, h3⟩
        · rw [h1]; simpa using h
        · rw [show z - (k + 1) = (z - (k + 1 + 1)) + 1 by omega, List.getD_cons_succ]; exact h3
      · intro w hw hk hl
        simp at hl
        rw [show w - (k + 1) = (w - (k + 1 + 1)) + 1 by omega, List.getD_cons_succ]
        exact i3 w hw (by omega) (by omega)
    · rw [if_neg h]
      obtain ⟨i1, i2, i3⟩ := ih (k + 1) z0 hbs (by omega)
      have all : ∀ n, n < bs.length → c < bs.getD n 0 := by
        intro n hn; rw [List.getD_eq_getElem?_getD, List.getElem?_eq_getElem hn]; have := hb _ (List.getElem_mem hn); simp; omega
      set z := List.foldl (fun z b => if b.1 ≤ c then b.2 else z) z0 (bs.zipIdx (k + 1 + 1)) with hzd
      have hz0 : z = z0 := by
        rcases i1 with h1 | ⟨h1, h2, h3⟩
        · exact h1
        · have := all (z - (k + 1 + 1)) (by omega); omega
      refine ⟨.inl hz0, by simp; omega, ?_⟩
      intro w hw hk hl
      simp at hl
      by_cases hw1 : w = k + 1
      · subst hw1; simp; omega
      · rw [show w - (k + 1) = (w - (k + 1 + 1)) + 1 by omega, List.getD_cons_succ]
        exact all _ (by omega)

end Sys2Proof.Machine
end

