-- ==== Sys2Proof/Laws/PerInstr.lean ====
section
/-! SUPPORT. The family of statements made once for each command: a command that executes a request is the one that the
request's kind names (R169). -/

namespace Sys2Proof.Laws

/-- The request that a command executes names, by its kind, that command. -/
def RequestKind.Statement (i : Instr) : Prop := ∀ r, i.request? = some r → Instr.ofRequest r = some i

theorem RequestKind.powerOnReset (levels : InputLevels) : RequestKind.Statement (.powerOnReset levels) :=
  fun _ h => nomatch h
theorem RequestKind.encoderIncrement (a : Bool) (b : Bool) : RequestKind.Statement (.encoderIncrement a b) :=
  fun _ h => nomatch h
theorem RequestKind.stallTimerExpiry : RequestKind.Statement .stallTimerExpiry :=
  fun _ h => nomatch h
theorem RequestKind.silenceTimerExpiry (lane : LaneId) : RequestKind.Statement (.silenceTimerExpiry lane) :=
  fun _ h => nomatch h
theorem RequestKind.shiftTimerExpiry : RequestKind.Statement .shiftTimerExpiry :=
  fun _ h => nomatch h
theorem RequestKind.cutAckRise (seq : Bool) : RequestKind.Statement (.cutAckRise seq) :=
  fun _ h => nomatch h
theorem RequestKind.cutAckFall : RequestKind.Statement .cutAckFall :=
  fun _ h => nomatch h
theorem RequestKind.cutterFaultRise : RequestKind.Statement .cutterFaultRise :=
  fun _ h => nomatch h
theorem RequestKind.cutterFaultFall : RequestKind.Statement .cutterFaultFall :=
  fun _ h => nomatch h
theorem RequestKind.lineFrame (lane : LaneId) (frame : Frame) : RequestKind.Statement (.lineFrame lane frame) :=
  fun _ h => nomatch h
theorem RequestKind.headReplyFrame (lane : LaneId) (frame : Frame) : RequestKind.Statement (.headReplyFrame lane frame) :=
  fun _ h => nomatch h
theorem RequestKind.laneLinkDown (lane : LaneId) : RequestKind.Statement (.laneLinkDown lane) :=
  fun _ h => nomatch h
theorem RequestKind.laneLinkUp (lane : LaneId) : RequestKind.Statement (.laneLinkUp lane) :=
  fun _ h => nomatch h
theorem RequestKind.headCommandSent (lane : LaneId) : RequestKind.Statement (.headCommandSent lane) :=
  fun _ h => nomatch h
theorem RequestKind.trunkFrame (frame : Frame) : RequestKind.Statement (.trunkFrame frame) :=
  fun _ h => nomatch h
theorem RequestKind.trunkLinkDown : RequestKind.Statement .trunkLinkDown :=
  fun _ h => nomatch h
theorem RequestKind.trunkLinkUp : RequestKind.Statement .trunkLinkUp :=
  fun _ h => nomatch h
theorem RequestKind.trunkSendDone : RequestKind.Statement .trunkSendDone :=
  fun _ h => nomatch h
theorem RequestKind.statusGet (tag : Byte) (args : List Byte) : RequestKind.Statement (.statusGet tag args) :=
  fun _ h => by cases h; rfl
theorem RequestKind.tableWrite (tag : Byte) (args : List Byte) : RequestKind.Statement (.tableWrite tag args) :=
  fun _ h => by cases h; rfl
theorem RequestKind.tableRead (tag : Byte) (args : List Byte) : RequestKind.Statement (.tableRead tag args) :=
  fun _ h => by cases h; rfl
theorem RequestKind.bankCommit (tag : Byte) (args : List Byte) : RequestKind.Statement (.bankCommit tag args) :=
  fun _ h => by cases h; rfl
theorem RequestKind.setupWrite (tag : Byte) (args : List Byte) : RequestKind.Statement (.setupWrite tag args) :=
  fun _ h => by cases h; rfl
theorem RequestKind.setupRead (tag : Byte) (args : List Byte) : RequestKind.Statement (.setupRead tag args) :=
  fun _ h => by cases h; rfl
theorem RequestKind.runStart (tag : Byte) (args : List Byte) : RequestKind.Statement (.runStart tag args) :=
  fun _ h => by cases h; rfl
theorem RequestKind.runStop (tag : Byte) (args : List Byte) : RequestKind.Statement (.runStop tag args) :=
  fun _ h => by cases h; rfl
theorem RequestKind.laneControl (tag : Byte) (args : List Byte) : RequestKind.Statement (.laneControl tag args) :=
  fun _ h => by cases h; rfl
theorem RequestKind.cutterHold (tag : Byte) (args : List Byte) : RequestKind.Statement (.cutterHold tag args) :=
  fun _ h => by cases h; rfl
theorem RequestKind.cutterRelease (tag : Byte) (args : List Byte) : RequestKind.Statement (.cutterRelease tag args) :=
  fun _ h => by cases h; rfl
theorem RequestKind.shiftClose (tag : Byte) (args : List Byte) : RequestKind.Statement (.shiftClose tag args) :=
  fun _ h => by cases h; rfl
theorem RequestKind.reportGet (tag : Byte) (args : List Byte) : RequestKind.Statement (.reportGet tag args) :=
  fun _ h => by cases h; rfl
theorem RequestKind.conditionGet (tag : Byte) (args : List Byte) : RequestKind.Statement (.conditionGet tag args) :=
  fun _ h => by cases h; rfl
theorem RequestKind.conditionClear (tag : Byte) (args : List Byte) : RequestKind.Statement (.conditionClear tag args) :=
  fun _ h => by cases h; rfl
theorem RequestKind.outputSet (tag : Byte) (args : List Byte) : RequestKind.Statement (.outputSet tag args) :=
  fun _ h => by cases h; rfl
theorem RequestKind.outputOwner (tag : Byte) (args : List Byte) : RequestKind.Statement (.outputOwner tag args) :=
  fun _ h => by cases h; rfl
theorem RequestKind.partReset (tag : Byte) (args : List Byte) : RequestKind.Statement (.partReset tag args) :=
  fun _ h => by cases h; rfl
theorem RequestKind.headFrameOtherType (lane : LaneId) (frame : Frame) : RequestKind.Statement (.headFrameOtherType lane frame) :=
  fun _ h => nomatch h

end Sys2Proof.Laws
end

