-- ==== Sys2Proof/Tests/Slice0.lean ====
section
/-! SUPPORT. Small tests of the model. Expected results come from the spec: its worked cases, its tables, or hand
calculation from a rule; each names its source. The witnesses at the end show that the premises of every statement can be
met together. -/

namespace Sys2Proof.Tests

open Sys2Proof Sys2Proof.Machine

set_option Elab.async false

/-! ### Fixtures -/

/-- The next state of an execution meets a test. -/
def after (c : Instr) (s : State) (p : State → Bool) : Bool :=
  match exec c s with
  | .next t => p t
  | .fault _ => false
  | .refused _ => false

/-- Bank 0 of the detector and tracker cases (3.10, 4.12), but for its window and pixel count, which fit a line of 32
pixels. -/
def detectBank : DetectTables where
  lanes := PerLane.all ⟨32, 0, 31, 6, 1, 20, 1, 400, 900000, 110, 880000, 1760000⟩
  boundaries := List.replicate 60 0
  thresholds := List.replicate 64 ⟨40, 35⟩
  classes := [⟨.bright, 500, 0, 0, 0, 40, .any, 7, true⟩, ⟨.dark, 1000, 0, 500, 3000, 50, .any, 3, true⟩]

/-- GRADE bank 0 of the cull (6.10) and of the grading (8.11). -/
def gradeBank : GradeTables where
  zones := [⟨0, 50000⟩, ⟨3250000, 3300000⟩, ⟨1400000, 1900000⟩]
  limits := (List.range 192).map fun i =>
    match i with
    | 79 => 1
    | 143 => 3
    | 39 => 2
    | 103 => 5
    | 167 => 255
    | _ => 0
  fatal := List.replicate 16 false
  divert := [.stack0, .stack1, .stack2, .reject, .stack3, .reject, .reject]
  specs := [⟨30000, .a, true⟩, ⟨45000, .b, true⟩] ++ List.replicate 6 ⟨1, .a, false⟩
  avoidMargin := 250
  minPiece := 5000

/-- The part in STANDBY with bank 0 of both groups ACTIVE and the trunk link DOWN, so that records stay queued. -/
def standby : State :=
  State.reset.withStore { State.reset.store with
    detect := ⟨⟨.active, detectBank⟩, ⟨.empty, DetectTables.powerOn⟩⟩
    grade := ⟨⟨.active, gradeBank⟩, ⟨.empty, GradeTables.powerOn⟩⟩
    setup := { Setup.powerOn with netLo := 150000, netHi := 3450000 } }

/-- The same in INSPECT at a position, with the planner at C_last. -/
def inspect (p cLast : Nat) : State :=
  ((standby.withTrunk { standby.trunk with run := .inspect, urgent := [] }).withPos { standby.pos with p := p }).withPlan
    { standby.plan with cLast := cLast, startCut := some ⟨101000, .confirmed, some true, some 151000, some 0⟩, wait := .horizon }

/-- A state with its queue of commands replaced by one command. -/
def withFront (c : Instr) (s : State) : State := s.withPending [c]

/-- A plate as a commit makes it (R96). -/
def plate (n : Nat) (kind : PlateKind) (spec : Option Nat) (start stop : Nat) (lead trail : BoundaryStatus)
    (predicted : Grade) : Plate :=
  ⟨n, kind, spec, 0, start, stop, lead, trail, none, none, none, start, stop, predicted, none, none, 0, false, false, false,
    false⟩

/-- FLAW records 39, 41 and 44 of the worked cases (4.12, 6.10), in zone 3. -/
def flaw (id : Nat) (lane : LaneId) (cls lead trail : Nat) : FlawRecord :=
  ⟨id, lane, cls, .dark, lead, trail, 1032055, 660, 1200, 63, 58, false, false, false, 0⟩

/-- A LINE frame body (R177) of 32 pixels, each of one value. -/
def lineBody (t : Nat) (flags : Byte) (group : List Byte) : List Byte :=
  leBytes 2 t ++ leBytes 2 32 ++ [flags] ++ (List.replicate 8 group).flatten

/-- Four pixels of 600 in five bytes, packed as R177 packs them: 600 is 10 0101 1000. -/
def grey600 : List Byte := [0x58, 0x62, 0x89, 0x25, 0x96]

/-- A lane in RUNNING that took trigger 5000 at 250 000, with 32 seeded columns at 600 grey. -/
def runningLane : Lane where
  rx := { Receiver.reset .up none with
    state := .running, lastTrigger := some 5000, lastPosition := some 250000, seeded := true, silenceTimer := 50 }
  profile := List.replicate 32 ⟨38400, true⟩
  tracker := Tracker.empty

/-- The part in INSPECT at 250 012 with lane 1 RUNNING, triggers 5000 to 5002 in the history and H at 240 000. -/
def lineState : State :=
  let s := inspect 250012 240000
  let h := ((s.pos.history.set (5000 % 256) (some ⟨5000, 250000⟩)).set (5001 % 256) (some ⟨5001, 250005⟩)).set
    (5002 % 256) (some ⟨5002, 250010⟩)
  (((s.withPos { s.pos with history := h, trigger := 5002, triggerSeen := true, phase := 2 }).setLane 1 runningLane).withMap
    ⟨[], none, 240000⟩)

/-! ### Frames, words and the checks of well-formedness -/

/-- R166: the generator, the starting value and no inversion give 0x29B1 over the digits 1 to 9, the check value of this
CRC's published description. -/
theorem test_crc_check_value : crc16 [0x31, 0x32, 0x33, 0x34, 0x35, 0x36, 0x37, 0x38, 0x39] = 0x29B1#16 := by
  decide +kernel

/-- R177: the first pixel lies in the lowest ten bits of a group's forty. -/
theorem test_pixels_unpack : unpackPixels [0x01, 0x08, 0x30, 0x00, 0xFF] = [1, 2, 3, 1020] := by decide +kernel

/-- R177: four pixels of 600. -/
theorem test_pixels_of_600 : unpackPixels grey600 = [600, 600, 600, 600] := by decide +kernel

/-- No row of the opcode table gives bits, so a word spells no command. -/
theorem test_no_word_spells_a_command : decodeTableWord 8 1 = none := rfl

theorem test_wf_refuses_a_request_that_fills_more_than_a_frame :
    (Instr.statusGet 0 (List.replicate 8191 0)).wellFormed = false := by decide +kernel

theorem test_wf_refuses_a_line_frame_of_another_type :
    (Instr.lineFrame 0 (frameOf 34 [])).wellFormed = false := by decide +kernel

theorem test_wf_refuses_a_line_frame_with_a_wrong_length :
    (Instr.lineFrame 0 ⟨32, 2, [0], 0⟩).wellFormed = false := by decide +kernel

theorem test_wf_refuses_a_head_reply_of_another_type :
    (Instr.headReplyFrame 0 (frameOf 32 [])).wellFormed = false := by decide +kernel

theorem test_wf_refuses_a_head_reply_with_a_wrong_length :
    (Instr.headReplyFrame 0 ⟨34, 2, [0], 0⟩).wellFormed = false := by decide +kernel

theorem test_wf_refuses_another_type_that_is_a_line :
    (Instr.headFrameOtherType 0 (frameOf 32 [])).wellFormed = false := by decide +kernel

theorem test_wf_refuses_another_type_that_is_a_head_reply :
    (Instr.headFrameOtherType 0 (frameOf 34 [])).wellFormed = false := by decide +kernel

theorem test_wf_refuses_another_type_with_a_wrong_length :
    (Instr.headFrameOtherType 0 ⟨35, 2, [0], 0⟩).wellFormed = false := by decide +kernel

theorem test_wf_accepts_a_line_frame : (Instr.lineFrame 3 (frameOf 32 [1, 2])).wellFormed = true := by decide +kernel

/-! ### Arithmetic of the worked cases -/

/-- 1.5, "Worked lookups around the wrap", latest trigger 4: 65 400 is found at 999 350; 65 284, whose slot trigger 4 wrote,
is stale. -/
theorem test_lookup_around_the_wrap :
    let h := (((List.replicate 256 none).set (65400 % 256) (some ⟨65400, 999350⟩)).set 4 (some ⟨4, 1000050⟩))
    let s := State.reset.withPos { State.reset.pos with trigger := 4, triggerSeen := true, history := h }
    lookupTrigger 65400 s = some 999350 ∧ lookupTrigger 65284 s = none ∧ lookupTrigger 5 s = none := by decide +kernel

/-- 3.10: the columns 1197 to 1204 of line 5000 and their backgrounds after it. -/
theorem test_detector_case_backgrounds :
    (detectColumns ⟨4096, 16, 4079, 6, 1, 4096, 1, 400, 900000, 110, 880000, 1760000⟩
      (List.replicate 3 0 ++ [1100, 1400] ++ List.replicate 10 4096)
      (List.replicate 4 ⟨1, 1⟩ ++ [⟨40, 35⟩] ++ List.replicate 11 ⟨1, 1⟩) 1197 [597, 555, 548, 540, 570, 544, 558, 600]
      ([38400, 38400, 38416, 38400, 38480, 38400, 38384, 38400].map fun b => ⟨b, true⟩)).1.map Column.b =
      [38397, 38400, 38416, 38400, 38448, 38400, 38384, 38400] := by decide +kernel

/-- 3.10: the five dark hits form one run with G = 1, and 3.10's last part: two runs with G = 0. -/
theorem test_detector_case_runs :
    let hit : Nat → Nat → Hit := fun c m => ⟨c, .dark, m, false⟩
    let hits := [hit 1198 2880, hit 1199 3344, hit 1200 3840, hit 1202 3584, hit 1203 2672]
    formRuns 1 hits = [⟨1198, 1203, .dark, 5, 3840, false⟩] ∧
    formRuns 0 hits = [⟨1198, 1200, .dark, 3, 3840, false⟩, ⟨1202, 1203, .dark, 2, 3584, false⟩] := by decide +kernel

/-- 3.10: columns 1190 and 1191, the floor at work. -/
theorem test_background_floors : adapt 6 602 38400 = 38402 ∧ adapt 6 599 38399 = 38398 := by decide +kernel

/-- 4.12: the blob of lane 1 becomes FLAW record 41 in the map and in the FLAW queue. -/
theorem test_blob_becomes_flaw_41 :
    let b : Blob := ⟨.dark, 250000, 250055, 2, 1198, 1203, ⟨1199, 1202⟩, none, 58, 4032, false, 12, false, 0, false⟩
    let t := settleBlob 1 b false ((inspect 250070 240000).withFlawId 40)
    t.map.records = [.flaw (flaw 41 1 3 250000 250059)] ∧ t.trunk.flaws = [flaw 41 1 3 250000 250059] ∧ t.flawId = 41 := by
  decide +kernel

/-- 5.9: a refused record's extent is the mark's, and the condition carries its lead and its id. -/
theorem test_map_full_mark :
    let s := inspect 520000 480000
    let t := refuseFlaw (flaw 913 3 9 512900 512960) (refuseFlaw (flaw 912 0 9 512300 512340) s)
    (t.map.mark.map fun m => (m.lo, m.hi)) = some (512300, 512960) ∧
      (t.cond.line.map fun r => (r.kind, r.lane, r.detail1, r.detail2, r.further)) =
        some (.flawMapFull, some 0, 512300, 912, 1) := by decide +kernel

/-- 6.10: the cull of the candidate [240 000, 270 000) commits plate 17, CULLET AVOID, ending at 250 310. -/
theorem test_cull :
    let s := inspect 270010 240000
    let s := (s.withMap ⟨[.flaw (flaw 39 0 9 243100 243180), .flaw (flaw 41 1 3 250000 250059)], none, 270005⟩).withPlan
      { s.plan with nextPlate := 17, trailing := ⟨.planned, 240000⟩ }
    let t := planningAttempt s
    t.plan.queue = [plate 17 .avoid none 240000 250310 .planned .planned .b] ∧ t.plan.cLast = 250310 ∧
      t.plan.nextPlate = 18 ∧ t.plan.cursor = 0 ∧ t.plan.wait = .horizon ∧
      t.pos.schedule = [⟨299910, .cut, 17⟩] := by decide +kernel

/-- 6.10, "The same cull made late": at P = 300 000 plate 17 ends at 250 401 and its cut fires at 300 001. -/
theorem test_cull_made_late :
    let s := inspect 300000 240000
    let s := (s.withMap ⟨[.flaw (flaw 39 0 9 243100 243180), .flaw (flaw 41 1 3 250000 250059)], none, 270005⟩).withPlan
      { s.plan with nextPlate := 17, trailing := ⟨.planned, 240000⟩ }
    let t := planningAttempt s
    (t.plan.queue.map fun p => (p.kind, p.plannedEnd, p.late, p.predicted)) = [(.late, 250401, true, .b)] ∧
      t.plan.cursor = 0 ∧ t.pos.schedule = [⟨300001, .cut, 17⟩] ∧
      (t.cond.line.map fun r => (r.kind, r.detail1, r.detail2)) = some (.planLate, 17, 250310) := by decide +kernel

/-- 8.11: plate 17 is graded CULLET to REJECT with its last count at 250 480; flaws 39 and 41 leave, flaw 44 stays, and its
DIVERT entry waits at 389 000. -/
theorem test_grading_of_plate_17 :
    let s := inspect 300480 280310
    let p : Plate := { plate 17 .avoid none 240000 250310 .confirmed .deviated .b with actualEnd := 250480 }
    let s := ((s.withMap ⟨[.flaw (flaw 39 0 9 243100 243180), .flaw (flaw 41 1 3 250000 250059),
      .flaw (flaw 44 1 9 262000 262040)], none, 280320⟩).withPlan { s.plan with queue := [p] }).withDivert
      ⟨.reject, some 359000⟩
    let t := gradePlate p s
    (t.plan.queue.map fun q => (q.finalGrade, q.destination, q.flawTotal)) = [(some .cullet, some .reject, 2)] ∧
      t.map.records = [.flaw (flaw 44 1 9 262000 262040)] ∧ t.divert.last = some 389000 ∧
      t.pos.schedule = [⟨389000, .divert, 17⟩] ∧ t.report.current.lengthByGrade = [0, 0, 0, 0, 0, 10480, 0] ∧
      t.report.current.flawsByClass = [0, 0, 0, 1, 0, 0, 0, 0, 0, 1, 0, 0, 0, 0, 0, 0] := by decide +kernel

/-- 10.10: the stored masks send the kinds where the routing table says. -/
theorem test_escalation_routing :
    let p := { Setup.powerOn with
      delegGantry := Param.delegGantry.stored 4099
      delegLocal := Param.delegLocal.stored 66 }
    p.delegLocal = 2 ∧ routeOf p .laneSilent = .gantry ∧ routeOf p .laneSequence = .localOnly ∧
      routeOf p .cutDeviation = .gantry ∧ routeOf p .confirmStale = .line ∧ routeOf p .cutterFault = .line := by
  decide +kernel

/-- 10.10 steps 2 to 4: a GRANTRY record that stands escalates the next raise to LINE, which counts the one after it. -/
theorem test_escalation :
    let s := inspect 300300 240000
    let s := s.withStore { s.store with setup := { s.setup with delegGantry := 4099, delegLocal := 2 } }
    let t := raise .confirmStale none 300900 0
      (raise .cutDeviation none 300310 300480 (raise .laneSilent (some 2) 1 300215 (raise .laneSequence (some 0) 1 15040 s)))
    (t.cond.gantry.map fun r => (r.kind, r.further)) = some (.laneSilent, 1) ∧
      (t.cond.line.map fun r => (r.kind, r.further, r.escalated)) = some (.cutDeviation, 1, true) ∧
      t.trunk.urgent.length = 2 := by decide +kernel

/-- 4.12: the runs of lines 5000 to 5002 grow one blob in the lowest FREE slot: 15 pixels, peak 3904, columns 1198 to 1203. -/
theorem test_blob_grows :
    let run : Nat → Nat → Run := fun last peak => ⟨1198, last, .dark, 5, peak, false⟩
    let t := trackRuns 1 0 250010 5002 [run 1202 3904] (trackRuns 1 0 250005 5001 [run 1203 3712]
      (trackRuns 1 0 250000 5000 [run 1203 3840] (inspect 250012 240000)))
    (match (t.lane 1).tracker.slot 0 with
      | .blob b => (b.lead, b.lastJoined, b.pixels, b.peak, b.colMin, b.colMax, b.lines) ==
        (250000, 250010, 15, 3904, 1198, 1203, 3)
      | .free => false
      | .continuation _ => false) = true := by decide +kernel

/-- 4.13, with `max_blob_lines` at 2: the second line closes the streak as a segment with CONT, and the third reopens its
slot with CONTINUES. -/
theorem test_streak_in_segments :
    let s := inspect 300020 240000
    let e : LaneEntry := ⟨4096, 0, 4095, 6, 1, 20, 1, 2, 0, 110, 0, 1000000⟩
    let tables : DetectTables := { detectBank with
      lanes := PerLane.all e
      classes := [⟨.either, 0, 0, 0, 0, 0, .any, 5, true⟩] }
    let s := s.withDetect { s.store.detect with bank0 := ⟨.active, tables⟩ }
    let run : Run := ⟨2400, 2402, .bright, 3, 2300, false⟩
    let t := trackRuns 2 0 300005 1 [run] (trackRuns 2 0 300000 0 [run] s)
    let u := trackRuns 2 0 300010 2 [run] t
    (t.trunk.flaws.map fun r => (r.lead, r.trail, r.length, r.cont, r.continues)) = [(300000, 300009, 200, true, false)] ∧
      (match (u.lane 2).tracker.slot 0 with
        | .blob b => b.continues && b.lead == 300010
        | .free => false
        | .continuation _ => false) = true := by decide +kernel

/-- 9.9: the switch at trigger 7200 gives the RUNNING lane 1 a line binding on bank 0, which is RETIRING. -/
theorem test_detect_switch :
    let s := lineState.withDetect ⟨⟨.active, detectBank⟩, ⟨.committing, detectBank⟩⟩
    let t := issueTrigger (s.withPos { s.pos with trigger := 7199 })
    t.store.tSw = some 7200 ∧ t.store.detect.bank1.state = .active ∧ t.store.detect.bank0.state = .retiring ∧
      (t.rx 1).lineBinding = some 0 ∧ (t.rx 0).lineBinding = none := by decide +kernel

/-! ### One or two steps of each command -/

/-- R1, R103: the input levels are taken as the reset ends. -/
theorem test_power_on_reset : after (.powerOnReset ⟨true, false, true, false⟩) lineState fun t =>
    t.pos.encA && !t.pos.encB && t.cutter.ackHigh && !t.cutter.faultHigh && t.pos.p == 0 := by decide +kernel

/-- R2, R3: (0,0) to (1,0) is forward. -/
theorem test_encoder_forward : after (.encoderIncrement true false) State.reset fun t =>
    t.pos.p == 1 && t.pos.phase == 1 && t.pos.encA := by decide +kernel

/-- 7.8: P advances to 299 910 and cut 17 is issued with level 1, its deadline at 300 810. -/
theorem test_encoder_fires_cut_17 :
    let s := inspect 299909 280310
    let s := (s.withPlan { s.plan with queue := [plate 17 .avoid none 240000 250310 .confirmed .planned .b] }).withPos
      { s.pos with schedule := [⟨299910, .cut, 17⟩] }
    after (.encoderIncrement true false) s fun t =>
      t.cutter.outstanding == some ⟨17, 250310, true⟩ && t.cutter.seqLevel &&
        t.pos.schedule == [⟨300810, .confirmDeadline, 17⟩] && t.pulses.cutReq == 1 := by decide +kernel

/-- R5: the stall is reported once the timer stands at `stall_ms` = 500. -/
theorem test_stall_timer : after .stallTimerExpiry (State.reset.withPos { State.reset.pos with stallTimer := 500 }) fun t =>
    !t.pos.stallArmed && (t.cond.line.map fun r => (r.kind, r.detail1)) == some (.ribbonStalled, 500) := by decide +kernel

/-- R30 and 5.8's last paragraph: the gap opens at the last taken position + `line_pitch`. -/
theorem test_silence_timer : after (.silenceTimerExpiry 1) lineState fun t =>
    (t.rx 1).state == .silent && (t.rx 1).openGap == some 250005 &&
      (t.cond.line.map fun r => (r.kind, r.lane, r.detail1, r.detail2)) == some (.laneSilent, some 1, 1, 250005) := by
  decide +kernel

/-- R162: a shift that closes by TIMER opens the next by TIMER and reloads. -/
theorem test_shift_timer :
    let s := inspect 310000 0
    let s := s.withStore { s.store with setup := { s.setup with shiftPeriodS := 28800 } }
    after .shiftTimerExpiry s fun t =>
      t.report.current.shift == 1 && t.report.current.openedBy == .timer && t.report.shiftTimer == 28800 &&
        (t.report.closed.map Report.closedBy) == some (some .timer) := by decide +kernel

/-- 7.8: the edge at 300 480 deviates cut 17 by 170; the plates' common boundary moves to 250 480. -/
theorem test_cut_ack_rise_deviated :
    let s := inspect 300480 280310
    let s := (s.withPlan { s.plan with queue := [plate 16 .order (some 0) 210000 240000 .confirmed .planned .a,
      plate 17 .avoid none 240000 250310 .planned .requested .b, plate 18 .order (some 0) 250310 280310 .requested .planned .a] }).withCutter
      { s.cutter with outstanding := some ⟨17, 250310, true⟩, seqLevel := true }
    after (.cutAckRise true) s fun t =>
      (t.plan.queue.map fun p => (p.actualStart, p.actualEnd, p.trailDeviation)) ==
        [(210000, 240000, none), (240000, 250480, some 170), (250480, 280310, none)] &&
      (t.cond.line.map fun r => (r.kind, r.detail1, r.detail2)) == some (.cutDeviation, 300310, 300480) := by decide +kernel

/-- 7.8, "Had the report come later": an edge with no outstanding cut is stale. -/
theorem test_cut_ack_rise_stale : after (.cutAckRise true) (inspect 300811 280310) fun t =>
    (t.cond.line.map fun r => (r.kind, r.detail1, r.detail2)) == some (.confirmStale, 300811, 1) &&
      t.cutter.lastCapture == some ⟨300811, true, .stale⟩ := by decide +kernel

/-- 7.9: CUT_ACK falls at 450 150 and the pending cut 31 is issued with bit 0, its deadline at 450 800. -/
theorem test_cut_ack_fall_issues :
    let s := inspect 450150 400300
    let s := ((s.withPlan { s.plan with queue := [plate 31 .avoid none 400000 400300 .confirmed .pending .b] }).withCutter
      { s.cutter with pendingCut := some ⟨31, 400300⟩, seqLevel := true, ackHigh := true }).withPos
      { s.pos with schedule := [⟨450300, .issueLimit, 31⟩] }
    after .cutAckFall s fun t =>
      t.cutter.outstanding == some ⟨31, 400300, false⟩ && t.pos.schedule == [⟨450800, .confirmDeadline, 31⟩] &&
        (t.plan.queue.map Plate.trailStatus) == [.requested] := by decide +kernel

/-- R111: detail1 1 and the plate number of the outstanding cut. -/
theorem test_cutter_fault_rise :
    let s := inspect 301400 280310
    after .cutterFaultRise (s.withCutter { s.cutter with outstanding := some ⟨17, 250310, true⟩ }) fun t =>
      t.cutter.faultHigh && (t.cond.line.map fun r => (r.kind, r.detail1, r.detail2)) == some (.cutterFault, 1, 17) := by
  decide +kernel

theorem test_cutter_fault_fall : after .cutterFaultFall (State.reset.withCutter (Cutter.reset true false)) fun t =>
    !t.cutter.faultHigh && t.trunk.urgent == State.reset.trunk.urgent := by decide +kernel

/-- R25, R27: line 5001 in RUNNING, at 600 grey like the background, is inspected without a hit. -/
theorem test_line_frame_running : after (.lineFrame 1 (frameOf 32 (lineBody 5001 1 grey600))) lineState fun t =>
    (t.rx 1).lastPosition == some 250005 && (t.rx 1).silenceTimer == 0 && t.report.current.linesInspected.l1 == 1 &&
      t.map.h == 250010 := by decide +kernel

/-- R26: line 5002 with 5001 left out is a gap of one line. -/
theorem test_line_frame_missing : after (.lineFrame 1 (frameOf 32 (lineBody 5002 1 grey600))) lineState fun t =>
    (t.rx 1).missing == 1 && t.map.records == [.gap 1 250005 (some 250010)] &&
      (t.cond.line.map fun r => (r.kind, r.detail1, r.detail2)) == some (.laneSequence, 1, 5002) := by decide +kernel

theorem test_head_reply : after (.headReplyFrame 2 (frameOf 34 [7, 8])) State.reset fun t =>
    t.trunk.urgent == [.started .powerOn 0 0, .headReply 2 [7, 8]] := by decide +kernel

/-- R30: the link goes DOWN and a RUNNING lane goes SILENT with cause 2. -/
theorem test_lane_link_down : after (.laneLinkDown 1) lineState fun t =>
    (t.rx 1).link == .down && (t.rx 1).state == .silent && (t.cond.line.map CondRecord.detail1) == some 2 := by
  decide +kernel

theorem test_lane_link_up : after (.laneLinkUp 3) State.reset fun t =>
    (t.rx 3).link == .up && (t.rx 2).link == .down && (t.rx 3).state == .disabled := by decide +kernel

theorem test_head_command_sent :
    after (.headCommandSent 0) (State.reset.modRx 0 fun x => { x with headSending := some [1] }) fun t =>
      (t.rx 0).headSending == none := by decide +kernel

/-- R168: a STATUS_GET request (kind 1) executes at once. -/
theorem test_trunk_frame_request : after (.trunkFrame (frameOf 16 [9, 1])) State.reset fun t =>
    t.trunk.executing == some ⟨9, 1, []⟩ && t.trunk.requests == [] := by decide +kernel

/-- R170: a HEAD frame to a lane whose link is DOWN is dropped and counted. -/
theorem test_trunk_frame_head : after (.trunkFrame (frameOf 17 [2, 5, 6])) State.reset fun t =>
    t.trunk.headDrops == 1 && (t.rx 2).headSending == none := by decide +kernel

theorem test_trunk_link_up : after .trunkLinkUp State.reset fun t =>
    t.trunk.sending == some (.urgent (.started .powerOn 0 0)) && t.trunk.urgent == [] := by decide +kernel

theorem test_trunk_link_down :
    let s := State.reset
    after .trunkLinkDown (s.withTrunk { s.trunk with link := .up, sending := some (.flaw (flaw 1 0 0 0 0)) }) fun t =>
      t.trunk.link == .down && t.trunk.sending == none && t.trunk.sendAborts == 1 := by decide +kernel

/-- R172: after the urgent queue and the FLAW queue, lane 0 is the first served after lane 3. -/
theorem test_trunk_send_done :
    let s := State.reset
    let l : ForwardLine := ⟨0, 5, none, 0, 1, []⟩
    let s := (s.withTrunk { s.trunk with link := .up, urgent := [] }).modRx 0 fun x => { x with slot := some l }
    after .trunkSendDone s fun t => t.trunk.sending == some (.line l) && t.trunk.lastLane == 0 && (t.rx 0).slot == none := by
  decide +kernel

/-- R176: the answer is OK, and begins with P in six bytes. -/
theorem test_status_get : after (.statusGet 5 []) (inspect 258 0) fun t =>
    match t.trunk.urgent with
    | [.response tag kind .ok body] => tag == 5 && kind == 1 && body.take 6 == [2, 1, 0, 0, 0, 0]
    | _ => false := by decide +kernel

/-- 9.9: LANE entry 1 written with k = 12 is stored with 10 in the shadow, bank 1, which becomes LOADED. -/
theorem test_table_write_clamps :
    after (.tableWrite 1 ([0, 0, 1] ++ writeFields TableId.lane.widths [2048, 0, 2047, 12, 1, 0, 1, 400, 0, 110, 0, 9])) standby
      fun t => (t.laneEntry 1 1).k == 10 && t.store.detect.bank1.state == .loaded && t.store.detect.bank0.state == .active := by
  decide +kernel

/-- R134: THRESHOLD 20 of bank 0 reads as it stands, with the bank's state. -/
theorem test_table_read : after (.tableRead 1 [0, 0, 2, 20]) (inspect 0 0) fun t =>
    t.trunk.urgent == [.response 1 3 .ok ([40, 0, 35, 0] ++ byte BankState.active.code)] := by decide +kernel

/-- 9.9: lane 2's pixel count of 2000 is not a multiple of 32: INVALID, code 1, index 2. -/
theorem test_bank_commit_invalid :
    let e : LaneEntry := ⟨2048, 0, 2047, 6, 1, 20, 1, 400, 0, 110, 0, 1⟩
    let t1 : DetectTables := { DetectTables.powerOn with lanes := ⟨e, e, { e with pixelCount := 2000 }, e⟩ }
    let s := inspect 0 0
    after (.bankCommit 4 [0]) (s.withDetect { s.store.detect with bank1 := ⟨.loaded, t1⟩ }) fun t =>
      t.trunk.urgent == [.response 4 4 .invalid [1, 2, 0]] && t.store.detect.bank1.state == .loaded := by decide +kernel

/-- R142: a value above the range is stored as its upper bound; `line_pitch` is 1 to 255. -/
theorem test_setup_write_clamps : after (.setupWrite 2 ([1] ++ leBytes 1 0)) standby fun t =>
    t.setup.linePitch == 1 && t.setup.countNm == 20000 := by decide +kernel

theorem test_setup_read : after (.setupRead 2 [0]) (inspect 0 0) fun t =>
    t.trunk.urgent == [.response 2 6 .ok (leBytes 3 20000)] := by decide +kernel

/-- 5.8: RUN_START at P = 100 000 with lanes 0 to 2 IDLE: S0 = 101 000 = H, lane 3 stays DISABLED. -/
theorem test_run_start :
    let s := standby.withPos { standby.pos with p := 100000 }
    let s := s.withLanes ⟨{ s.lanes.l0 with rx := { s.lanes.l0.rx with state := .idle } },
      { s.lanes.l1 with rx := { s.lanes.l1.rx with state := .idle } },
      { s.lanes.l2 with rx := { s.lanes.l2.rx with state := .idle } }, s.lanes.l3⟩
    after (.runStart 1 []) s fun t =>
      t.map.h == 101000 && t.trunk.run == .inspect && (t.rx 0).state == .waiting && (t.rx 3).state == .disabled &&
        (t.rx 2).openGap == some 101000 && t.pos.schedule == [⟨150600, .cut, 0⟩] := by decide +kernel

/-- 6.11: RUN_STOP with lanes 0, 1 and 3 RUNNING: E = 312 000, H rises to it, and the tail [280 310, 312 000) is committed
with its cut at 361 600. -/
theorem test_run_stop_tail :
    let run : Nat → Lane → Lane := fun p l => { l with rx := { l.rx with state := .running, lastPosition := some p } }
    let s := inspect 312020 280310
    let s := ((s.withLanes ⟨run 311995 s.lanes.l0, run 312005 s.lanes.l1, s.lanes.l2, run 312000 s.lanes.l3⟩).withMap
      ⟨[], none, 311870⟩).withPlan { s.plan with
        queue := [plate 18 .order (some 0) 250310 280310 .deviated .planned .a], nextPlate := 19, cursor := 1 }
    after (.runStop 1 []) s fun t =>
      t.trunk.stopEnd == some 312000 && t.map.h == 312000 && t.plan.complete && t.plan.cLast == 312000 &&
        (t.plan.queue.map fun p => (p.number, p.kind, p.plannedEnd)) == [(18, .order, 280310), (19, .tail, 312000)] &&
        t.pos.schedule == [⟨361600, .cut, 19⟩] := by decide +kernel

/-- R33, R22: a DISABLED lane enabled in INSPECT is WAITING with its gap at H. -/
theorem test_lane_control : after (.laneControl 1 [2, 0, 2]) lineState fun t =>
    (t.rx 2).state == .waiting && (t.rx 2).forward == .hits && (t.rx 2).openGap == some 240000 := by decide +kernel

/-- 7.9, "Pending cut displaced": a hold taken while 31 is pending leaves it SKIPPED and its ISSUE_LIMIT removed. -/
theorem test_cutter_hold :
    let s := inspect 450050 400300
    let s := ((s.withPlan { s.plan with queue := [plate 30 .avoid none 399000 400000 .confirmed .planned .b,
      plate 31 .avoid none 400000 400300 .planned .pending .b] }).withCutter
      { s.cutter with pendingCut := some ⟨31, 400300⟩, ackHigh := true }).withPos
      { s.pos with schedule := [⟨450300, .issueLimit, 31⟩] }
    after (.cutterHold 1 []) s fun t =>
      t.cutter.requestedHold && t.cutter.pendingCut == none && t.pos.schedule == [] &&
        (t.plan.queue.map Plate.trailStatus) == [.planned, .skipped] := by decide +kernel

theorem test_cutter_release :
    let s := State.reset
    after (.cutterRelease 1 []) (s.withCutter { s.cutter with requestedHold := true }) fun t => !t.cutter.requestedHold := by
  decide +kernel

/-- 11.5: shift 41 closes at 310 000; lane 2's open gap adds 9 785; the response comes after the report. -/
theorem test_shift_close :
    let s := inspect 310000 280310
    let s := (s.withReport { s.report with current := Report.opened 41 .timer 200000 0 }).modRx 2 fun x =>
      { x with state := .silent, openGap := some 300215 }
    after (.shiftClose 3 []) s fun t =>
      (t.report.closed.map fun r => (r.shift, r.gapLength.l2, r.closeP, r.overwrote)) == some (41, 9785, some 310000, false) &&
        t.report.current.shift == 42 && t.report.current.openP == 310000 &&
        t.trunk.urgent.getLast? == some (.response 3 12 .ok [41, 0]) := by decide +kernel

/-- R163: reading the closed report clears its unread mark and keeps the report. -/
theorem test_report_get_closed :
    let s := inspect 0 0
    let s := s.withReport { s.report with closed := some (Report.opened 7 .request 0 0), unread := true }
    after (.reportGet 1 [1]) s fun t => !t.report.unread && (t.report.closed.map Report.shift) == some 7 := by decide +kernel

theorem test_condition_get : after (.conditionGet 1 []) (inspect 0 0) fun t =>
    t.trunk.urgent == [.response 1 14 .ok (List.replicate 90 0)] := by decide +kernel

/-- 10.10 step 7: clearing LINE takes the lamp's function level low. -/
theorem test_condition_clear : after (.conditionClear 1 [1]) (raise .confirmStale none 1 0 (inspect 0 0)) fun t =>
    t.cond.line == none && functionLevel .alarm t == false := by decide +kernel

/-- R116: ALARM (5) latched at 1 under MANUAL lights it. -/
theorem test_output_set : after (.outputSet 1 [1, 5, 1]) State.reset fun t =>
    t.outputs.alarm.latch && drivenLevel .alarm t && !t.outputs.cutSeq.latch := by decide +kernel

theorem test_output_owner : after (.outputOwner 1 [2, 1, 0, 5, 1]) State.reset fun t =>
    t.outputs.cutSeq.owner == .function && t.outputs.alarm.owner == .manual && t.outputs.div0.owner == .manual := by
  decide +kernel

/-- R175, R132: a soft reset makes a COMMITTING bank LOADED and leaves the ACTIVE one; P is 0 and setup stays. -/
theorem test_part_reset :
    let s := inspect 5000 0
    let s := s.withDetect { s.store.detect with bank1 := ⟨.committing, detectBank⟩ }
    after (.partReset 1 []) s fun t =>
      t.pos.p == 0 && t.store.detect.bank1.state == .loaded && t.store.detect.bank0.state == .active &&
        t.setup.netLo == 150000 && t.report.current.openedBy == .reset := by decide +kernel

theorem test_head_frame_other_type : after (.headFrameOtherType 1 (frameOf 35 [])) State.reset fun t =>
    (t.rx 1).malformed == 1 && (t.rx 0).malformed == 0 := by decide +kernel

/-- The step runs the command in front. -/
theorem test_step_front :
    (match step (withFront (.laneLinkUp 0) State.reset) with
      | .next t => (t.rx 0).link == .up && t.pending == []
      | .fault _ => false
      | .refused _ => false) = true := by decide +kernel

/-- R5 by way of the clock: the 500th millisecond queues the expiry. -/
theorem test_step_idle :
    (match step (State.reset.withPos { State.reset.pos with stallTimer := 499 }) with
      | .next t => t.pending == [.stallTimerExpiry] && t.msTime == 1
      | .fault _ => false
      | .refused _ => false) = true := by decide +kernel

/-! ### Witnesses: the premises of each statement are met together, each clause's at a boundary of its range -/

/-- A part whose urgent queue holds a number of records. -/
def queued (n : Nat) (s : State) : State :=
  s.withTrunk { s.trunk with urgent := List.replicate n (.headReply 0 []) }

/-- A part with a request in execution. -/
def executing (r : Request) (s : State) : State := s.withTrunk { s.trunk with executing := some r }

/-- A part with its encoder at (0, 0), a reverse debt and an excursion from 70. -/
def reversed (debt : Nat) (armed : Bool) : State :=
  State.reset.withPos { State.reset.pos with
    p := 70, debt := debt, excursion := if debt = 0 then none else some 70, reverseArmed := armed }

/-- A part with one lane in a state of the receiver. -/
def withRx (i : LaneId) (f : Receiver → Receiver) (s : State) : State := s.modRx i f

theorem witness_StepRunsTheFrontCommand :
    (withFront .trunkSendDone lineState).pending = .trunkSendDone :: [] := rfl

theorem witness_NoCommandStops : LinesOk lineState := by unfold LinesOk; decide +kernel

theorem witness_OnAnEmptyQueue :
    ((executing ⟨1, 18, []⟩ lineState).pending = [] ∧ (executing ⟨1, 18, []⟩ lineState).trunk.executing = some ⟨1, 18, []⟩ ∧
      Instr.ofRequest ⟨1, 18, []⟩ = some (.partReset 1 [])) ∧
    (Instr.ofRequest ⟨1, 0, []⟩ = none ∧ Instr.ofRequest ⟨1, 19, []⟩ = none ∧
      hasRoom (executing ⟨1, 19, []⟩ (queued 31 lineState))) ∧
    (lineState.pending = [] ∧ lineState.trunk.executing = none ∧ lineState.setup.shiftPeriodS = 0 ∧
      (lineState.rx 1).state = .running ∧ lineState.setup.silentMs ≤ (lineState.rx 1).silenceTimer + 1) := by
  unfold hasRoom; decide +kernel

theorem witness_IncrementsThatKeepP :
    (isForward (reversed 1 true) true false ∧ 0 < (reversed 1 true).pos.debt) ∧
      isForward (reversed 255 false) true false ∧ 0 < (reversed 255 false).pos.debt := by
  unfold isForward; decide +kernel

theorem witness_IncrementsThatKeepP_reverse :
    (isReverse (reversed 0 true) false true ∧ (reversed 0 true).pos.debt = 0) ∧
    (isReverse (reversed 1 true) false true ∧ 1 ≤ (reversed 1 true).pos.debt) ∧
    (isReverse (reversed 254 true) false true ∧ (reversed 254 true).pos.debt ≤ 254) ∧
    (isReverse (reversed 255 false) false true ∧ (reversed 255 false).pos.reverseArmed = false) ∧
    (isReverse (reversed 255 true) false true ∧ (reversed 255 true).pos.debt = 255 ∧
      (reversed 255 true).pos.reverseArmed = true ∧ (reversed 255 true).pos.excursion = some 70 ∧
      hasRoom (reversed 255 true)) := by
  unfold isReverse hasRoom; decide +kernel

theorem witness_IncrementsThatKeepP_still :
    (true ≠ State.reset.pos.encA ∧ true ≠ State.reset.pos.encB) ∧
    (isForward (inspect (2 ^ 48 - 1) 0) true false ∧ (inspect (2 ^ 48 - 1) 0).pos.debt = 0 ∧
      (inspect (2 ^ 48 - 1) 0).pos.p = 2 ^ 48 - 1) := by
  unfold isForward; decide +kernel

/-- A part at the last position but one, with a trigger phase. -/
def nearTop (phase : Nat) : State := (inspect (2 ^ 48 - 2) 0).withPos { (inspect (2 ^ 48 - 2) 0).pos with phase := phase }

theorem witness_ForwardIncrementAdvancesP :
    (isForward (nearTop 3) true false ∧ (nearTop 3).pos.debt = 0 ∧ (nearTop 3).pos.p < 2 ^ 48 - 1 ∧
      (nearTop 3).pos.phase + 1 < (nearTop 3).setup.linePitch) ∧
    (isForward (nearTop 4) true false ∧ (nearTop 4).setup.linePitch ≤ (nearTop 4).pos.phase + 1) := by
  unfold isForward; decide +kernel

/-- A part whose latest trigger is 300, with triggers 45 and 300 in the history. -/
def triggered : State :=
  State.reset.withPos { State.reset.pos with
    p := 9000
    trigger := 300
    triggerSeen := true
    history := ((List.replicate 256 none).set 45 (some ⟨45, 7725⟩)).set 44 (some ⟨300, 9000⟩) }

theorem witness_TriggerLookup :
    (triggered.pos.trigger < 65536 ∧ ((triggered.pos.trigger : Int) - 45) % 65536 = 255 ∧ triggered.pos.triggerSeen = true ∧
      triggered.pos.history.getD (45 % 256) none = some ⟨45, 7725⟩) ∧
    State.reset.pos.triggerSeen = false ∧ ((triggered.pos.trigger : Int) - 44) % 65536 = 256 ∧
    ((301 : Int) - triggered.pos.trigger) % 65536 = 1 ∧ ((555 : Int) - triggered.pos.trigger) % 65536 = 255 ∧
    (triggered.pos.history.getD (46 % 256) none = none) := by
  decide +kernel

/-- A part whose stall timer stands at a value. -/
def stalled (ms : Nat) (armed : Bool) : State :=
  State.reset.withPos { State.reset.pos with stallTimer := ms, stallArmed := armed }

theorem witness_StallReportWhenDue :
    ((stalled 500 true).pos.stallArmed = true ∧ (stalled 500 true).setup.stallMs ≤ (stalled 500 true).pos.stallTimer ∧
      hasRoom (stalled 500 true)) ∧
    (stalled 499 true).pos.stallTimer < (stalled 499 true).setup.stallMs ∧ (stalled 500 false).pos.stallArmed = false := by
  unfold hasRoom; decide +kernel

/-- A part at P = 5 with a number of CUT entries in the schedule at 9. -/
def scheduled (n : Nat) : State :=
  State.reset.withPos { State.reset.pos with p := 5, schedule := List.replicate n ⟨9, .cut, 1⟩ }

theorem scheduled_ok {n : Nat} (h : n ≤ 64) : ScheduleOk (scheduled n) where
  sorted := by simp [scheduled, State.withPos]
  above := by
    intro e he
    have := List.eq_of_mem_replicate (show e ∈ List.replicate n ⟨9, .cut, 1⟩ from he)
    subst this
    exact (by decide : 5 < 9)
  room := by simpa [scheduled, State.withPos] using h
  handed := rfl

theorem witness_ScheduleOrderAndFiring :
    (ScheduleOk (scheduled 62) ∧ (scheduled 62).pos.schedule.length = 62 ∧ (scheduled 62).pos.p < 6) ∧
    (ScheduleOk (scheduled 63) ∧ (scheduled 63).pos.schedule.length = 63) ∧
    (ScheduleOk (scheduled 64) ∧ (scheduled 64).pos.schedule.length = 64) :=
  ⟨⟨scheduled_ok (by decide), rfl, by decide +kernel⟩, ⟨scheduled_ok (by decide), rfl⟩, scheduled_ok (by decide), rfl⟩

/-- A part in STOPPING with stop end 100. -/
def stopping : State :=
  let s := inspect 200 90
  s.withTrunk { s.trunk with run := .stopping, stopEnd := some 100 }

theorem witness_EntryToStandby : stopping.trunk.run = .stopping ∧ stopping.store.detect.Ok ∧ stopping.store.grade.Ok :=
  ⟨rfl, ⟨by decide +kernel, by decide +kernel⟩, ⟨by decide +kernel, by decide +kernel⟩⟩

/-- A part with the masks of 10.10. -/
def masked : State :=
  let s := inspect 300300 240000
  s.withStore { s.store with setup := { s.setup with delegGantry := 4099, delegLocal := 2 } }

theorem masked_ok : MasksOk masked := ⟨by decide +kernel, by decide +kernel, by decide +kernel⟩

theorem witness_RaiseRouting :
    MasksOk masked ∧ masked.setup.delegGantry.testBit (CondKind.trunkOverrun.code - 1) = false ∧
      (masked.setup.delegGantry.testBit (CondKind.laneSilent.code - 1) = true ∧
        masked.setup.delegLocal.testBit (CondKind.laneSilent.code - 1) = false) ∧
      (masked.setup.delegGantry.testBit (CondKind.laneSequence.code - 1) = true ∧
        masked.setup.delegLocal.testBit (CondKind.laneSequence.code - 1) = true) :=
  ⟨masked_ok, by decide +kernel⟩

theorem witness_RaiseIsHandledWhole : hasRoom (queued 31 masked) := by unfold hasRoom; decide +kernel

theorem witness_RaiseIsHandledWhole_full :
    ¬hasRoom (queued 32 lineState) ∧ (queued 32 lineState).setup.delegGantry = 0 ∧
      (queued 32 lineState).cond.line = none := by
  unfold hasRoom; decide +kernel

theorem witness_ConditionClear : hasRoom (queued 31 (raise .confirmStale none 1 0 lineState)) ∧ 2 ≤ (2 : Byte).toNat := by
  unfold hasRoom; decide +kernel

theorem witness_ReadsAnswerAndChangeNothing :
    hasRoom (queued 31 lineState) ∧ Param.ofCode? (16 : Byte).toNat = some .delegLocal ∧
      TableId.ofCodes? (1 : Byte).toNat (5 : Byte).toNat = some .plan ∧ (1 : Byte).toNat = (1 : BankId).val ∧
      (0 : Byte).toNat < TableId.plan.size := by
  unfold hasRoom; decide +kernel

theorem witness_RequestsWithBadArguments :
    hasRoom (queued 31 lineState) ∧ ([0, 0] : List Byte).length < 3 ∧ ([0, 0, 0] : List Byte).length < 4 ∧
      ([] : List Byte).length < 1 ∧ 6 < (7 : Byte).toNat ∧ 6 ≤ (6 : Byte).toNat ∧ 2 ≤ (2 : Byte).toNat := by
  unfold hasRoom; decide +kernel

theorem witness_SetupWrite :
    (hasRoom (queued 31 lineState) ∧ Param.ofCode? (1 : Byte).toNat = some .linePitch ∧ 0 < 256 ^ Param.linePitch.width ∧
      lineState.trunk.run ≠ .standby) ∧
    (hasRoom standby ∧ standby.trunk.run = .standby ∧ Param.ofCode? (11 : Byte).toNat = some .stallMs ∧
      standby.pos.stallTimer < max 10 (min 65535 0)) ∧
    Param.ofCode? (14 : Byte).toNat = some .shiftPeriodS ∧ 65535 < 256 ^ Param.shiftPeriodS.width := by
  unfold hasRoom; decide +kernel

theorem witness_StoredValues :
    (Param.linePitch ≠ .delegGantry ∧ Param.linePitch ≠ .delegLocal) ∧ 0 < Param.linePitch.low ∧
      Param.linePitch.high < 256 ∧ Param.linePitch.low ≤ 255 := by
  decide +kernel

theorem witness_SetupAndOutputControlsChangeOnlyByTheirRequests :
    LinesOk lineState ∧ ∃ t, exec (.laneLinkUp 0) lineState = .next t :=
  ⟨witness_NoCommandStops, _, rfl⟩

/-- A part in INSPECT whose DETECT bank 1 stands in a state with tables. -/
def withShadow (run : RunState) (st : BankState) (t : DetectTables) : State :=
  let s := inspect 0 0
  (s.withTrunk { s.trunk with run := run }).withDetect { s.store.detect with bank1 := ⟨st, t⟩ }

theorem witness_TableWrite :
    (hasRoom (withShadow .inspect .committing detectBank) ∧
      TableId.ofCodes? (0 : Byte).toNat (0 : Byte).toNat = some .lane ∧ (3 : Byte).toNat < TableId.lane.size ∧
      (List.replicate 12 0).length = TableId.lane.widths.length ∧
      shadowState .lane (withShadow .inspect .committing detectBank) = .committing) ∧
    shadowState .lane (withShadow .inspect .retiring detectBank) = .retiring ∧
    (shadowState .lane (withShadow .inspect .loaded detectBank) ≠ .committing ∧
      shadowState .lane (withShadow .inspect .loaded detectBank) ≠ .retiring ∧
      shadowState .plan (withShadow .inspect .loaded detectBank) = .empty) := by
  unfold hasRoom; decide +kernel

theorem witness_WrittenEntryReadsBack :
    (DetectTables.powerOn.boundaries.length = 60 ∧ DetectTables.powerOn.thresholds.length = 64) ∧
      GradeTables.powerOn.limits.length = 192 := by
  decide +kernel

/-- A DETECT bank that passes checks 1 to 5. -/
def goodDetect : DetectTables where
  lanes := PerLane.all ⟨256, 0, 255, 6, 1, 20, 1, 400, 0, 110, 0, 1⟩
  boundaries := List.replicate 60 256
  thresholds := List.replicate 64 ⟨40, 35⟩
  classes := []

/-- The part with a GRADE bank 1 in a state with tables. -/
def withGradeShadow (run : RunState) (st : BankState) (t : GradeTables) : State :=
  let s := inspect 0 0
  (s.withTrunk { s.trunk with run := run }).withGrade { s.store.grade with bank1 := ⟨st, t⟩ }

theorem witness_BankCommit :
    (hasRoom (withShadow .inspect .loaded goodDetect) ∧
      (withShadow .inspect .loaded goodDetect).store.detect.shadow = 1 ∧
      (withShadow .inspect .loaded goodDetect).store.detect.bank1.state = .loaded ∧
      detectFailure goodDetect = none) ∧
    (withShadow .standby .loaded goodDetect).trunk.run = .standby ∧
    (withShadow .stopping .loaded goodDetect).trunk.run ≠ .standby ∧
    (detectFailure detectBank = some ⟨1, 0⟩) ∧
    (withGradeShadow .inspect .loaded gradeBank).store.grade.shadow = 1 ∧ gradeFailure gradeBank = none ∧
    (gradeFailure { gradeBank with minPiece := 45001 } = some ⟨9, 0⟩) ∧
    (withGradeShadow .inspect .empty gradeBank).store.grade.bank1.state ≠ .loaded := by
  unfold hasRoom; decide +kernel

theorem witness_BankCommit_groups :
    (withShadow .inspect .loaded goodDetect).store.detect.Ok ∧ (withGradeShadow .inspect .loaded gradeBank).store.grade.Ok :=
  ⟨⟨by decide +kernel, by decide +kernel⟩, ⟨by decide +kernel, by decide +kernel⟩⟩

theorem witness_OutputRequests :
    hasRoom (queued 31 lineState) ∧ 1 ≤ [(Output.alarm, true)].length ∧
      (List.replicate 6 (Output.cutReq, false)).length ≤ 6 := by
  unfold hasRoom; decide +kernel

theorem witness_OutputRequests_levels :
    lineState.trunk.run ≠ .standby ∧ State.reset.trunk.run = .standby ∧
      (State.reset.outputs.get .alarm).owner = .manual ∧
      (State.reset.withOutputs { State.reset.outputs with alarm := ⟨false, .function⟩ }).outputs.alarm.owner = .function := by
  decide +kernel

theorem witness_SetupAndOutputControlsChangeOnlyByTheirRequests_outputs :
    LinesOk lineState ∧ ∃ t, exec (.laneLinkDown 0) lineState = .next t :=
  ⟨witness_NoCommandStops, _, rfl⟩

/-- The window entry, thresholds and columns of the hit test's witness: B = 38 400 in four columns, Td = 40, Tb = 35. -/
def hitEntry : LaneEntry := ⟨32, 1, 2, 6, 1, 20, 1, 400, 0, 110, 0, 1⟩

/-- Four seeded columns. -/
def hitColumns : List Column := List.replicate 4 ⟨38400, true⟩

theorem witness_HitTest :
    (2 < [600, 600, 560, 600].length ∧ 2 < hitColumns.length ∧ hitEntry.winLo ≤ 2 ∧ 2 ≤ hitEntry.winHi ∧
      (hitColumns.getD 2 default).seeded = true ∧ (∀ p ∈ [600, 600, 560, 635], p ≤ 1023) ∧
      (∀ x ∈ hitColumns, x.b ≤ 65472) ∧ 64 * (560 : Int) - 38400 = -(64 * 40) ∧ 64 * (635 : Int) - 38400 = 64 * 35 ∧
      -(64 * 40) < 64 * (561 : Int) - 38400 ∧ 64 * (634 : Int) - 38400 < 64 * 35) ∧
    (⟨40, 35⟩ : Threshold) = (List.replicate 16 ⟨40, 35⟩).getD (zoneOf (List.replicate 15 0) 2) default := by
  decide +kernel

theorem witness_ColumnsOfALine :
    (0 < hitColumns.length ∧ ¬hitEntry.winLo ≤ 0) ∧ (1 < [600, 600].length ∧ hitEntry.winLo ≤ 1 ∧ 1 ≤ hitEntry.winHi) ∧
    (3 < hitColumns.length ∧ ¬3 ≤ hitEntry.winHi) ∧
    ((List.replicate 15 7).length = 15 ∧ (List.replicate 15 7).Pairwise (· ≤ ·) ∧ zoneOf (List.replicate 15 7) 7 = 15 ∧
      zoneOf (List.replicate 15 7) 6 = 0) := by
  decide +kernel

/-- A line of pixels that alternate between the background and a dark value, and its lane's columns. -/
def stripedLine (n : Nat) : Line :=
  ⟨5001, 4 * n, 1, (List.replicate n [0xF4, 0x61, 0x49, 0x1F, 0x96]).flatten⟩

/-- A part in INSPECT whose lane 1 has 160 seeded columns and G = 0. -/
def stripedState : State :=
  let e : LaneEntry := ⟨160, 0, 159, 6, 0, 20, 1, 400, 0, 110, 0, 1⟩
  let s := inspect 250012 240000
  (s.withDetect { s.store.detect with bank0 := ⟨.active, { detectBank with lanes := PerLane.all e }⟩ }).setProfile 1
    (List.replicate 160 ⟨38400, true⟩)

/-- The runs of a striped line. -/
def stripedRuns (n : Nat) : List Run :=
  formRuns 0 (detectColumns (stripedState.laneEntry 0 1) (laneBoundaries (stripedState.detectTables 0) 1)
    (laneThresholds (stripedState.detectTables 0) 1) 0 (stripedLine n).pixels (stripedState.lane 1).profile).2

theorem witness_RunsGatherHits :
    ([⟨1, .dark, 2560, false⟩, ⟨3, .dark, 2561, true⟩] : List Hit).Pairwise (fun a b => a.column < b.column) ∧
    (stripedRuns 32).length ≤ 64 ∧ 64 < (stripedRuns 33).length ∧ hasRoom stripedState := by
  unfold hasRoom; decide +kernel

/-- Blobs of the placement case: the one of 4.12, and two that its columns move. -/
def testBlob (lo hi : Nat) : Blob :=
  ⟨.dark, 250000, 250055, 2, lo, hi, ⟨lo, hi⟩, none, 58, 4032, false, 12, false, 0, false⟩

/-- The part of the placement witnesses, its net width from 900 110 on. -/
def placed : State :=
  let s := inspect 250070 240000
  s.withStore { s.store with setup := { s.setup with netLo := 900110 } }

theorem witness_ClosedBlobIsPlacedAndClassified :
    let e := placed.laneEntry 0 1
    (1 ≤ placed.setup.linePitch ∧ (testBlob 1198 1203).lastJoined + placed.setup.linePitch ≤ 2 ^ 48) ∧
    (e.ownLo ≤ e.x0 + (1198 + 1203) * e.pitchUm / 2 ∧ e.x0 + (1198 + 1203) * e.pitchUm / 2 < e.ownHi ∧
      ¬e.x0 + (7819 + 7819) * e.pitchUm / 2 < e.ownHi ∧
      (e.ownLo ≤ e.x0 + (0 + 1) * e.pitchUm / 2 ∧ ¬placed.setup.netLo ≤ e.x0 + (0 + 1) * e.pitchUm / 2) ∧
      placed.setup.netLo ≤ e.x0 + (1 + 1) * e.pitchUm / 2) ∧
    classify (placed.detectTables 0).classes .dark false (measure placed.setup (placed.laneEntry 0 1) (testBlob 1198 1203)) = some 3 ∧
    classify (placed.detectTables 0).classes .dark false (measure placed.setup (placed.laneEntry 0 1) (testBlob 1198 1201)) = none ∧
    (List.replicate 127 (flaw 1 0 0 0 0)).length < 128 ∧ 128 ≤ (List.replicate 128 (flaw 1 0 0 0 0)).length := by
  decide +kernel

/-- A part with a number of FLAW records of one lead in its map and its plan floor at 480 000. -/
def mapped (n : Nat) : State :=
  (inspect 520000 480000).withMap ⟨List.replicate n (.flaw (flaw 1 0 9 500000 500010)), none, 480000⟩

theorem mapped_ok {n : Nat} (h : n ≤ 2048) : MapOk (mapped n) where
  sorted := by simp [mapped, State.withMap]
  room := by simpa [mapped, State.withMap] using h

theorem witness_FlawEntry :
    (MapOk (mapped 2047) ∧ (flaw 2 0 9 470100 480000).trail = (mapped 2047).plan.cLast ∧
      (mapped 2047).map.records.length = 2047) ∧
    (MapOk (mapped 2048) ∧ (mapped 2048).map.records.length = 2048 ∧ hasRoom (mapped 2048)) ∧
    (flaw 2 0 9 470100 479999).trail < (mapped 2048).plan.cLast := by
  refine ⟨⟨mapped_ok (by decide), by decide +kernel, ?_⟩, ⟨mapped_ok (by decide), ?_, ?_⟩, by decide +kernel⟩
  · exact List.length_replicate
  · exact List.length_replicate
  · unfold hasRoom; decide +kernel

/-- The planner of the cull (6.10), with a map. -/
def culled (records : List MapRecord) : State := (inspect 270010 240000).withMap ⟨records, none, 270005⟩

theorem witness_CandidateIsAcceptedOrCulled :
    let spec := gradeBank.specs.getD (culled []).plan.cursor default
    (culled []).plan.cLast + spec.length = 270000 ∧
    (evaluate gradeBank 240000 270000 (culled [])).grade = .a ∧
    (evaluate gradeBank 240000 270000 (culled [.flaw (flaw 39 0 9 243100 243180), .flaw (flaw 41 1 3 250000 250059)])).grade =
      .b ∧
    spec.minGrade.code < Grade.b.rank ∧ (culled []).plan.cLast < 270000 ∧
    (culled []).store.grade.activeTables = gradeBank := by
  decide +kernel

/-- A part at a position with a number of entries in the schedule and C_last at 240 000. -/
def committing (p n : Nat) : State :=
  (inspect p 240000).withPos { (inspect p 240000).pos with schedule := List.replicate n ⟨400000, .cut, 3⟩ }

theorem witness_PlanCommit :
    ((committing 299909 62).store.grade.active = some 0 ∧ 250310 + (committing 299909 62).setup.dCut < 2 ^ 48 ∧
      (committing 299909 62).pos.p + (committing 299909 62).setup.cutLead + 1 < 2 ^ 48 ∧
      (committing 299909 62).setup.cutLead ≤ (committing 299909 62).setup.dCut) ∧
    ((committing 299909 62).pos.schedule.length ≤ 62 ∧ (committing 299909 62).pos.p < 299910) ∧
    (299910 ≤ (committing 299910 62).pos.p ∧ hasRoom (committing 299910 62)) ∧
    62 < (committing 299909 63).pos.schedule.length := by
  unfold hasRoom; decide +kernel

/-- A part at the firing of cut 31 of 7.9, with its cutter. -/
def firing (p : Nat) (c : Cutter) : State :=
  let s := inspect p 400300
  ((s.withPlan { s.plan with queue := [plate 31 .avoid none 400000 400300 .confirmed .planned .b] }).withCutter c).withPos
    { s.pos with schedule := List.replicate 63 ⟨500000, .divert, 1⟩ }

theorem witness_CutEntryByCase :
    cutPosition 31 (firing 449900 (Cutter.reset true false)) = some 400300 ∧
    cutPosition 0 (firing 449900 (Cutter.reset true false)) = some 101000 ∧
    (firing 450799 (Cutter.reset false false)).pos.p < 400300 + 50000 + 500 ∧
    (firing 450299 (Cutter.reset false true)).pos.p < 400300 + 50000 ∧
    (Cutter.reset false true).ackHigh = true ∧ (Cutter.reset false true).pendingCut = none ∧
    (firing 450299 (Cutter.reset false true)).pos.schedule.length ≤ 63 := by
  decide +kernel

/-- A part with plates 16 to 18 in the queue. -/
def threePlates : State :=
  let s := inspect 300480 280310
  s.withPlan { s.plan with queue := [plate 16 .order (some 0) 210000 240000 .confirmed .planned .a,
    plate 17 .avoid none 240000 250310 .planned .requested .b, plate 18 .order (some 0) 250310 280310 .requested .planned .a] }

theorem witness_BoundaryChangesAgree :
    let p16 := plate 16 .order (some 0) 210000 240000 .confirmed .planned .a
    let p17 := plate 17 .avoid none 240000 250310 .planned .requested .b
    let p18 := plate 18 .order (some 0) 250310 280310 .requested .planned .a
    (threePlates.plan.queue = [p16] ++ p17 :: [p18] ∧ p17.number ≠ 0 ∧ ∀ q ∈ [p16], q.number ≠ p17.number) ∧
    (threePlates.plan.queue = [p16, p17] ++ p18 :: [] ∧ ∀ q ∈ [p16, p17], q.number ≠ p18.number) ∧
    (inspect 0 0).plan.queue = [] ∧ threePlates.plan.queue = p16 :: [p17, p18] := by
  decide +kernel

/-- Cut 17 outstanding with bit 1 and its deadline in the schedule, at a position. -/
def outstanding17 (p : Nat) : State :=
  (threePlates.withPos { threePlates.pos with p := p, schedule := [⟨300810, .confirmDeadline, 17⟩] }).withCutter
    { threePlates.cutter with outstanding := some ⟨17, 250310, true⟩, seqLevel := true }

theorem witness_CutAckRise :
    ((outstanding17 300410).cutter.outstanding = some ⟨17, 250310, true⟩ ∧
      (outstanding17 300410).setup.dCut ≤ (outstanding17 300410).pos.p ∧ (outstanding17 300410).pos.p < 2 ^ 48 ∧
      ((300410 : Int) - (250310 + 50000)).natAbs ≤ (outstanding17 300410).setup.cutTolerance) ∧
    ((outstanding17 300411).setup.cutTolerance < ((300411 : Int) - (250310 + 50000)).natAbs ∧
      hasRoom (outstanding17 300411)) ∧
    (∀ o, (outstanding17 300411).cutter.outstanding = some o → o.seq ≠ false) ∧
    ∀ o, (inspect 5 0).cutter.outstanding = some o → o.seq ≠ true := by
  refine ⟨by decide +kernel, by unfold hasRoom; decide +kernel, ?_, ?_⟩
  · intro o h
    obtain rfl := Option.some.inj (show some ⟨17, 250310, true⟩ = some o from h)
    decide
  · intro o h
    exact absurd (show none = some o from h) (by simp)

/-- A part with cut 31 pending and none outstanding (7.9). -/
def pending31 (p : Nat) : State :=
  firing p { Cutter.reset false true with pendingCut := some ⟨31, 400300⟩ }

theorem witness_CutterLevels :
    (lineState.cutter.pendingCut = none ∧ hasRoom (queued 31 lineState)) ∧
    ((pending31 450799).cutter.pendingCut = some ⟨31, 400300⟩ ∧ (pending31 450799).cutter.outstanding = none ∧
      (pending31 450799).pos.p < 400300 + (pending31 450799).setup.dCut + (pending31 450799).setup.confirmWindow ∧
      (pending31 450799).pos.schedule.length ≤ 63) ∧
    ((pending31 450799).cutter.requestedHold = false ∧ (pending31 450799).cutter.faultHigh = false) := by
  unfold hasRoom; decide +kernel

theorem witness_CutterFaultRise :
    MasksOk (pending31 450050) ∧ hasRoom (pending31 450050) ∧ (pending31 450050).cutter.requestedHold = false ∧
      (pending31 450050).cutter.faultHigh = false ∧ (MasksOk lineState ∧ lineState.cutter.pendingCut = none) :=
  ⟨⟨by decide +kernel, by decide +kernel, by decide +kernel⟩, by unfold hasRoom; decide +kernel, by decide +kernel,
    by decide +kernel, ⟨by decide +kernel, by decide +kernel, by decide +kernel⟩, by decide +kernel⟩

theorem witness_EvaluationAndFinalGrade :
    (∀ f ∈ [flaw 39 0 15 243100 243180], f.cls < 16) ∧
    (evaluation gradeBank 150000 [] false false).grade = .a ∧
    (evaluation gradeBank 150000 [flaw 41 0 3 0 1] false false).grade = .b ∧
    (evaluation gradeBank 150000 [flaw 41 0 3 0 1, flaw 42 0 3 0 1] false false).grade = .c ∧
    (evaluation gradeBank 150000 [flaw 39 0 15 0 1] false false).grade = .reject ∧
    (evaluation gradeBank 150000 [flaw 39 0 15 0 1] true false).uninspected = true ∧
    (evaluation { gradeBank with fatal := List.replicate 16 true } 150000 [flaw 39 0 15 0 1] true true).fatal = true := by
  decide +kernel

/-- A part at a position with a graded plate at the head of the queue. -/
def diverting (p : Nat) : State :=
  let s := inspect p 280310
  let x : Plate := { plate 17 .avoid none 240000 250310 .confirmed .deviated .b with
    finalGrade := some .cullet, destination := some .reject }
  (s.withPlan { s.plan with queue := [x, plate 18 .order (some 0) 250310 280310 .deviated .planned .a] }).withPos
    { s.pos with schedule := List.replicate 62 ⟨400000, .cut, 3⟩ }

theorem witness_GradingAndDivert :
    (hasRoom (diverting 388999) ∧ (diverting 388999).pos.schedule.length ≤ 62 ∧
      (diverting 388999).pos.p < 240000 + 150000 - 1000) ∧
    ∃ p rest, (diverting 389000).plan.queue = p :: rest ∧ (∀ q ∈ rest, q.number ≠ p.number) ∧
      p.destination = some .reject :=
  ⟨by unfold hasRoom; decide +kernel, _, _, rfl, by decide +kernel, rfl⟩

theorem witness_LaneControl :
    (hasRoom (queued 31 lineState) ∧ 4 ≤ (4 : Byte).toNat ∧ 3 ≤ (3 : Byte).toNat) ∧
    ((1 : Byte).toNat = (1 : LaneId).val ∧ (2 : Byte).toNat = ForwardMode.hits.code ∧
      (0 : Byte).toNat = ForwardMode.off.code ∧ (1 : Byte).toNat = ForwardMode.all.code) ∧
    (lineState.trunk.run = .inspect ∧ (lineState.rx 1).state = .running ∧ (lineState.rx 1).lastPosition = some 250000 ∧
      250000 + lineState.setup.linePitch < 2 ^ 48 ∧ (lineState.rx 0).state = .disabled) ∧
    ((withRx 2 (fun x => { x with state := .waiting }) lineState).rx 2).state = .waiting ∧
    ((withRx 2 (fun x => { x with state := .silent }) lineState).rx 2).state = .silent ∧
    (standby.trunk.run ≠ .inspect ∧ (standby.rx 2).state = .disabled ∧
      ((withRx 2 (fun x => { x with state := .idle }) standby).rx 2).state = .idle) := by
  unfold hasRoom; decide +kernel

/-- The frame of a LINE frame body, with its CRC. -/
def lineFrameOf (body : List Byte) : Frame :=
  ⟨32, BitVec.ofNat 16 body.length, body, crc16 (crcCover 32 (BitVec.ofNat 16 body.length) body)⟩

/-- The payload of a line of 32 pixels at 600 grey. -/
def payload600 : List Byte := (List.replicate 8 grey600).flatten

/-- Lane 1 of the line tests in another state. -/
def lineStateIn (st : LaneState) : State :=
  withRx 1 (fun x => { x with state := st, openGap := some 250005, silentSince := some 0 }) lineState

theorem witness_LinesThatAreNotGood :
    (payload600.length < 65000 ∧ (lineState.rx 0).state = .disabled ∧ (lineState.rx 1).state ≠ .disabled) ∧
    (crcHolds ⟨32, 0, [], 0⟩ = false ∧ 4 * payload600.length ≠ 5 * 28 ∧ bankInEffect lineState 1 5001 = some 0 ∧
      28 ≠ (lineState.laneEntry 0 1).pixelCount) ∧
    (crcHolds (lineFrameOf (leBytes 2 5001 ++ leBytes 2 32 ++ (1 : Byte) :: payload600)) = true ∧
      4 * payload600.length = 5 * 32 ∧ 32 = (lineState.laneEntry 0 1).pixelCount) ∧
    ((withRx 1 (fun x => { x with forward := .all }) (lineStateIn .idle)).rx 1).forward = .all ∧
    ((lineStateIn .idle).rx 1).slot = none ∧
    (lookupTrigger 5003 lineState = none ∧ hasRoom lineState) ∧
    ((lineState.rx 1).lastTrigger = some 5000 ∧ lookupTrigger 5000 lineState = some 250000 ∧
      ((5000 : Int) - 5000) % 65536 = 0) ∧
    (((lineStateIn .silent).rx 1).openGap = some 250005 ∧ lookupTrigger 5000 (lineStateIn .silent) = some 250000) := by
  unfold hasRoom; decide +kernel

theorem witness_SeedAndResume :
    (crcHolds (lineFrameOf (leBytes 2 5001 ++ leBytes 2 32 ++ (1 : Byte) :: payload600)) = true ∧
      4 * payload600.length = 5 * 32 ∧ lookupTrigger 5001 (lineStateIn .waiting) = some 250005 ∧
      bankInEffect (lineStateIn .waiting) 1 5001 = some 0 ∧ 32 = ((lineStateIn .waiting).laneEntry 0 1).pixelCount ∧
      ((lineStateIn .waiting).rx 1).inHand = none ∧ 250005 + (lineStateIn .waiting).setup.linePitch < 2 ^ 48) ∧
    ((1 : Byte).getLsbD 0 = true ∧ (0 : Byte).getLsbD 0 = false ∧
      ((((unpackPixels payload600).take 32).drop 0).countP fun v => v == 0 || v == 1023) ≤ 20) ∧
    (((lineStateIn .silent).rx 1).lastPosition = some 250000 ∧ ((lineStateIn .silent).rx 1).openGap = some 250005 ∧
      ((lineStateIn .silent).rx 1).seeded = true ∧
      ¬(lineStateIn .silent).setup.reseedMs ≤ (1999 + 2 ^ 32 - 0) % 2 ^ 32 ∧
      (lineStateIn .silent).setup.reseedMs ≤ (2000 + 2 ^ 32 - 0) % 2 ^ 32) := by
  decide +kernel

theorem witness_RunningLine :
    (crcHolds (lineFrameOf (leBytes 2 5001 ++ leBytes 2 32 ++ (1 : Byte) :: payload600)) = true ∧
      lookupTrigger 5001 lineState = some 250005 ∧ bankInEffect lineState 1 5001 = some 0 ∧
      32 = (lineState.laneEntry 0 1).pixelCount ∧ (lineState.rx 1).inHand = none ∧ (lineState.rx 1).state = .running ∧
      (lineState.rx 1).lastTrigger = some 5000) ∧
    (((5001 : Int) - 5000) % 65536 = 1 ∧ (((5001 : Int) - 5000 - 1) % 65536).toNat = 0 ∧
      (((5002 : Int) - 5000 - 1) % 65536).toNat = 1 ∧ lookupTrigger 5002 lineState = some 250010) ∧
    ((unpackPixels (List.replicate 40 0)).take 32).countP (fun v => v == 0 || v == 1023) = 32 ∧
    (lineState.laneEntry 0 1).satLimit < 32 ∧
    ((withRx 1 (fun x => { x with satRun := 14 }) lineState).rx 1).satRun < 15 ∧
    ((withRx 1 (fun x => { x with satRun := 15 }) lineState).rx 1).satRun = 15 := by
  decide +kernel

theorem witness_SilenceAndLaneLinks :
    ((lineState.rx 1).state = .running ∧ lineState.setup.silentMs ≤ (lineState.rx 1).silenceTimer ∧
      (lineState.rx 1).openGap = none ∧ (lineState.rx 1).lastPosition ≠ none ∧
      ((lineState.rx 1).lastPosition.getD 0) + lineState.setup.linePitch < 2 ^ 48) ∧
    (((lineStateIn .waiting).rx 1).state = .waiting ∧ ((lineStateIn .waiting).rx 1).openGap ≠ none) ∧
    ((withRx 1 (fun x => { x with silenceTimer := 49 }) lineState).rx 1).silenceTimer < lineState.setup.silentMs ∧
    ((lineState.rx 0).state ≠ .waiting ∧ (lineState.rx 0).state ≠ .running) := by
  decide +kernel

theorem witness_HeadFrames :
    crcHolds (frameOf 34 [7]) = true ∧ hasRoom (queued 31 lineState) ∧ crcHolds ⟨34, 1, [7], 0⟩ = false := by
  unfold hasRoom; decide +kernel

theorem witness_TrunkFrame :
    (crcHolds ⟨16, 2, [9, 1], 0⟩ = false ∧ crcHolds (frameOf 18 []) = true ∧ crcHolds (frameOf 16 [9]) = true ∧
      crcHolds (frameOf 17 []) = true) ∧
    (crcHolds (frameOf 16 [9, 1]) = true ∧ (frameOf 16 [9, 1]).body.length = (frameOf 16 [9, 1]).len.toNat ∧
      (frameOf 16 [9, 1]).len.toNat ≤ 8192 ∧ (frameOf 16 [9, 1]).body = 9 :: 1 :: []) ∧
    (lineState.trunk.executing = none ∧ lineState.trunk.requests = []) ∧
    ((List.replicate 3 (⟨1, 1, []⟩ : Request)).length < 4 ∧ (List.replicate 4 (⟨1, 1, []⟩ : Request)).length = 4) ∧
    (crcHolds (frameOf 17 [3, 5]) = true ∧ (frameOf 17 [3, 5]).body = 3 :: [5] ∧ (3 : Byte).toNat = (3 : LaneId).val ∧
      4 ≤ (4 : Byte).toNat) ∧
    ((lineState.rx 3).link = .down ∧ (lineState.rx 1).link = .up ∧ (lineState.rx 1).headSending = none) := by
  decide +kernel

/-- A part whose trunk link is UP. -/
def linkedUp (s : State) : State := s.withTrunk { s.trunk with link := .up, urgent := [] }

/-- A forwarded line of lane 2. -/
def testForward : ForwardLine := ⟨2, 5, none, 0, 1, []⟩

theorem witness_ArbiterOrder :
    (lineState.trunk.link = .down ∧ lineState.trunk.sending = none) ∧
    ((linkedUp lineState).trunk.link = .up ∧ (linkedUp lineState).trunk.urgent = [] ∧
      (linkedUp lineState).trunk.flaws = [] ∧ ∀ i, ((linkedUp lineState).rx i).slot = none) ∧
    (((withRx 2 (fun x => { x with slot := some testForward }) (linkedUp lineState)).rx (3 + 1 + (3 : Fin 4) + 3)).slot =
        some testForward) ∧
    (∀ j : Fin 4, j < 2 →
      ((withRx 2 (fun x => { x with slot := some testForward }) (linkedUp lineState)).rx (3 + 1 + j)).slot = none) := by
  decide +kernel

/-- A part whose shift timer runs with a period. -/
def shifting (timer : Nat) : State :=
  let s := inspect 310000 0
  (s.withStore { s.store with setup := { s.setup with shiftPeriodS := 1 } }).withReport { s.report with shiftTimer := timer }

theorem witness_ShiftCloseAndReportGet :
    (queued 30 lineState).trunk.urgent.length + 2 ≤ Config.urgentSlots ∧
    (0 < (shifting 0).setup.shiftPeriodS ∧ (shifting 0).report.shiftTimer = 0 ∧ hasRoom (shifting 0)) ∧
    0 < (shifting 1).report.shiftTimer ∧ lineState.setup.shiftPeriodS = 0 ∧ lineState.report.closed = none ∧
    hasRoom (queued 31 lineState) ∧ 2 ≤ (2 : Byte).toNat := by
  unfold hasRoom; decide +kernel

/-- The part of RUN_START's witness, with other distances. -/
def distances (dDiv dCut netHi : Nat) : State :=
  standby.withStore { standby.store with setup := { standby.store.setup with dDiv := dDiv, dCut := dCut, netHi := netHi } }

theorem witness_RunStart :
    (hasRoom standby ∧ standby.trunk.run = .standby ∧ standby.store.detect.active ≠ none ∧ standby.store.grade.active ≠ none ∧
      lineState.trunk.run ≠ .standby ∧ State.reset.store.detect.active = none) ∧
    ((distances 50000 50000 3450000).setup.dDiv ≤ 50000 ∧
      (distances 50000 900 3450000).setup.dCut ≤ standby.setup.cutLead + standby.setup.confirmWindow ∧
      (distances 50000 901 150000).setup.netHi ≤ standby.setup.netLo) ∧
    (standby.setup.dCut < standby.setup.dDiv ∧ standby.setup.cutLead + standby.setup.confirmWindow < standby.setup.dCut ∧
      standby.setup.netLo < standby.setup.netHi ∧
      (∀ i, ((withRx 0 (fun x => { x with state := .idle }) standby).rx i).state = .idle ∨
        ((withRx 0 (fun x => { x with state := .idle }) standby).rx i).state = .disabled) ∧
      (∀ i, (standby.rx i).inHand = none) ∧ standby.pos.schedule = [] ∧ standby.pos.firing = [] ∧
      standby.map.records = [] ∧ standby.plan.queue = [] ∧ standby.store.grade.find .committing = none ∧
      1 ≤ (gradeBank.specs.getD (firstEnabled gradeBank) default).length ∧
      standby.pos.p + standby.setup.startOffset < 2 ^ 48) := by
  unfold hasRoom; decide +kernel

theorem witness_RunStop :
    (hasRoom (queued 31 standby) ∧ standby.trunk.run ≠ .inspect ∧ stopping.trunk.run ≠ .inspect) ∧
    lineState.trunk.run = .inspect ∧ (lineState.rx 1).state = .running ∧ (lineState.rx 1).lastPosition = some 250000 ∧
    (∀ i, (lineState.rx i).state = .running → i = 1) ∧ ∀ i, ((inspect 5 0).rx i).state ≠ .running := by
  unfold hasRoom; decide +kernel

/-- What a list reads as after one place is filled. -/
theorem getD_set_some {α : Type} {xs : List (Option α)} {i n : Nat} {a x : α}
    (h : (xs.set i (some a)).getD n none = some x) : (n = i ∧ x = a) ∨ xs.getD n none = some x := by
  rw [List.getD_eq_getElem?_getD, List.getElem?_set] at h
  by_cases hi : i = n
  · subst hi
    by_cases hl : i < xs.length <;> simp [hl] at h
    exact .inl ⟨rfl, h.symm⟩
  · rw [if_neg hi, ← List.getD_eq_getElem?_getD] at h
    exact .inr h

/-- The latest trigger 300 of `triggered` and the one 255 before it are what its history holds. -/
theorem triggered_history {n : Nat} {x : HistorySlot} (h : triggered.pos.history.getD n none = some x) :
    (n = 45 ∧ x = ⟨45, 7725⟩) ∨ (n = 44 ∧ x = ⟨300, 9000⟩) := by
  obtain ⟨rfl, rfl⟩ | h := getD_set_some h
  · exact .inr ⟨rfl, rfl⟩
  obtain ⟨rfl, rfl⟩ | h := getD_set_some h
  · exact .inl ⟨rfl, rfl⟩
  rw [List.getD_eq_getElem?_getD, List.getElem?_replicate] at h
  split at h <;> simp at h

/-- A part with a trigger history, a debt of 3 and an entry in the schedule. -/
def moving : State :=
  triggered.withPos { triggered.pos with debt := 3, excursion := some 8990, schedule := [⟨9001, .cut, 4⟩] }

theorem moving_ok : LinesOk moving ∧ PositionOk moving ∧ HistoryOk moving ∧ ScheduleOk moving := by
  refine ⟨by unfold LinesOk; decide +kernel,
    ⟨by decide +kernel, by decide +kernel, by decide +kernel, by decide +kernel⟩, ⟨by decide +kernel, by decide +kernel, ?_, ?_, ?_⟩,
    ⟨by decide +kernel, by decide +kernel, by decide +kernel, rfl⟩⟩
  · exact fun h => absurd h (by decide +kernel)
  · intro n x h
    obtain ⟨rfl, rfl⟩ | ⟨rfl, rfl⟩ := triggered_history h <;> decide +kernel
  · intro n m x y hx hy
    obtain ⟨rfl, rfl⟩ | ⟨rfl, rfl⟩ := triggered_history hx <;>
      obtain ⟨rfl, rfl⟩ | ⟨rfl, rfl⟩ := triggered_history hy <;> decide +kernel

theorem witness_PositionLawsAreKept :
    LinesOk moving ∧ PositionOk moving ∧ HistoryOk moving ∧ ScheduleOk moving ∧ ∃ t, step moving = .next t :=
  ⟨moving_ok.1, moving_ok.2.1, moving_ok.2.2.1, moving_ok.2.2.2, _, rfl⟩

/-- A part with its queues, its map and its plate queue at their capacities. -/
def full : State :=
  let s := queued 32 (inspect 520000 480000)
  let s := (s.withTrunk { s.trunk with
    executing := some ⟨1, 1, []⟩
    requests := List.replicate 4 ⟨1, 1, []⟩
    flaws := List.replicate 128 (flaw 1 0 0 0 0) }).withMap
      ⟨List.replicate 2048 (.flaw (flaw 1 0 9 500000 500010)), none, 480000⟩
  s.withPlan { s.plan with
    queue := List.replicate 128 (plate 17 .avoid none 240000 250310 .confirmed .deviated .b) }

theorem witness_CollectionLawsAreKept :
    LinesOk full ∧ QueuesOk full ∧ MapOk full ∧ PlannerOk full ∧ ∃ t, step full = .next t := by
  refine ⟨by unfold LinesOk; decide +kernel,
    ⟨by decide +kernel, by decide +kernel, by decide +kernel, fun h => absurd h (by decide +kernel)⟩,
    ⟨?_, Nat.le_of_eq List.length_replicate⟩, ⟨by decide +kernel, fun h => absurd h (by decide +kernel)⟩, _, rfl⟩
  exact List.pairwise_replicate.2 (.inr (Nat.le_refl _))

theorem witness_TableLawsAreKept :
    LinesOk (withShadow .inspect .committing goodDetect) ∧ BanksOk (withShadow .inspect .committing goodDetect) ∧
      MasksOk (withShadow .inspect .committing goodDetect) ∧
      ∃ t, step (withShadow .inspect .committing goodDetect) = .next t :=
  ⟨by unfold LinesOk; decide +kernel,
    ⟨⟨by decide +kernel, by decide +kernel⟩, ⟨by decide +kernel, by decide +kernel⟩⟩,
    ⟨by decide +kernel, by decide +kernel, by decide +kernel⟩, _, rfl⟩

/-- A lane whose background stands at its highest in every column and whose slots 0 and 31 are taken. -/
def busyLane : Lane where
  rx := Receiver.reset .up none
  profile := List.replicate 4096 ⟨65472, true⟩
  tracker := ⟨(((List.replicate 32 .free).set 31 (.blob (testBlob 5 6))).set 0
    (.continuation ⟨.dark, ⟨1, 2⟩, 0, 1⟩)), [31, 0]⟩

theorem witness_LaneLawsAreKept :
    let s := State.reset.withLanes (PerLane.all busyLane)
    LinesOk s ∧ ProfilesOk s ∧ TrackersOk s ∧ ∃ t, step s = .next t := by
  have lane : ∀ i, (State.reset.withLanes (PerLane.all busyLane)).lane i = busyLane := fun i => by fin_cases i <;> rfl
  refine ⟨by unfold LinesOk; decide +kernel, fun i => ?_, fun i => ?_, _, rfl⟩
  · rw [lane]
    refine ⟨List.length_replicate, fun x hx => ?_⟩
    rw [List.eq_of_mem_replicate hx]
  · rw [lane]
    refine ⟨rfl, by decide +kernel, fun j => ?_⟩
    by_cases hj : j < 32
    · revert j
      decide +kernel
    · have h : busyLane.tracker.slot j = .free := List.getD_eq_default _ _ (Nat.not_lt.1 hj)
      rw [h]
      change j ∈ [31, 0] ↔ true = false
      simp
      omega

theorem witness_PositionAndHorizonNeverFall :
    LinesOk lineState ∧ ∃ t, exec (.encoderIncrement true false) lineState = .next t :=
  ⟨witness_NoCommandStops, _, rfl⟩

theorem witness_RunStateMoves :
    (LinesOk stopping ∧ stopping.trunk.run = .stopping) ∧ (LinesOk standby ∧ standby.trunk.run = .standby) ∧
      (LinesOk lineState ∧ lineState.trunk.run = .inspect) ∧ ∃ t, exec (.runStop 1 []) lineState = .next t :=
  ⟨⟨by unfold LinesOk; decide +kernel, rfl⟩, ⟨by unfold LinesOk; decide +kernel, rfl⟩, ⟨witness_NoCommandStops, rfl⟩, _, rfl⟩

theorem witness_OutboundRecordsKeepTheirOrder :
    (LinesOk lineState ∧ ∃ t, exec .cutAckFall lineState = .next t) ∧
      ∃ t, exec .trunkSendDone (queued 32 lineState) = .next t :=
  ⟨⟨witness_NoCommandStops, _, rfl⟩, _, rfl⟩


/-! ### Witnesses of the clauses that one statement adds to another, and tests of the points they rest on -/

/-- R166, R177: a frame's CRC goes low byte first. Its bytes, read back, are the frame. -/
theorem test_frame_bytes :
    frameBytes ⟨16, 2, [9, 1], 0x29B1⟩ = [16, 2, 0, 9, 1, 0xB1, 0x29] ∧
      frameOfBytes? [16, 2, 0, 9, 1, 0xB1, 0x29] = some ⟨16, 2, [9, 1], 0x29B1⟩ ∧
      frameOfBytes? [16, 2, 0, 9, 1, 0xB1] = none := by decide +kernel

/-- R135: a GRADE commit in INSPECT hands its OK response before the PLAN_LATE of the attempt that takes the switch. -/
theorem test_bank_commit_answers_first :
    let s := inspect 300000 240000
    let s := (s.withMap ⟨[.flaw (flaw 39 0 9 243100 243180), .flaw (flaw 41 1 3 250000 250059)], none, 270005⟩).withGrade
      { s.store.grade with bank1 := ⟨.loaded, gradeBank⟩ }
    after (.bankCommit 4 [1]) s fun t =>
      (t.trunk.urgent.map Urgent.typeCode) == [1, 2] && t.store.grade.bank1.state == .active &&
        t.store.grade.bank0.state == .loaded := by decide +kernel

/-- R113 at full width: a divert position below zero lies below P and fires at once, as DIVERT_LATE. -/
theorem test_divert_below_zero :
    let s := inspect 0 0
    let s := (s.withStore { s.store with setup := { s.setup with dDiv := 50, divertLead := 100 } }).withPlan { s.plan with
      queue := [{ plate 1 .avoid none 20 40 .confirmed .deviated .b with destination := some .stack2 }] }
    let t := scheduleDivert 1 20 s
    t.divert.last = some (-30) ∧ t.divert.gate = .stack2 ∧ t.plan.queue = [] ∧
      (t.cond.line.map fun r => (r.kind, r.detail1, r.detail2)) = some (.divertLate, 1, 2 ^ 32 - 30) := by decide +kernel

theorem witness_OnAnEmptyQueue_shift :
    let s := fun period phase timer => (lineState.withStore { lineState.store with
      setup := { lineState.setup with shiftPeriodS := period } }).withReport
        { lineState.report with secondPhase := phase, shiftTimer := timer }
    ((s 1 998 1).pending = [] ∧ (s 1 998 1).trunk.executing = none ∧ 0 < (s 1 998 1).setup.shiftPeriodS ∧
      (s 1 998 1).report.secondPhase < 999) ∧
    (999 ≤ (s 1 999 1).report.secondPhase ∧ (s 1 999 1).report.shiftTimer - 1 = 0) ∧
    (s 0 0 0).setup.shiftPeriodS = 0 := by
  decide +kernel

/-- A part whose DETECT banks are 0 ACTIVE and 1 COMMITTING, or 0 RETIRING and 1 ACTIVE with T_sw at 65535. -/
def switching (retiring : Bool) : State :=
  lineState.withStore { lineState.store with
    detect := if retiring then ⟨⟨.retiring, detectBank⟩, ⟨.active, detectBank⟩⟩
              else ⟨⟨.active, detectBank⟩, ⟨.committing, detectBank⟩⟩
    tSw := if retiring then some 65535 else none }

theorem witness_ForwardIncrementAdvancesP_switch :
    (((switching false).store.detect.get 0).state = .active ∧ ((switching false).store.detect.get (otherBank 0)).state = .committing ∧
      (switching false).trunk.run ≠ .standby ∧ ((switching false).rx 1).state = .running ∧
      ((switching false).rx 0).state ≠ .running) ∧
    (((switching true).store.detect.get 0).state = .retiring ∧ ((switching true).store.detect.get (otherBank 0)).state = .active ∧
      (switching true).store.tSw = some 65535 ∧ ((0 : Int) - 65535) % 65536 = 1 ∧ ((65535 : Int) - 65535) % 65536 = 0 ∧
      ((32766 : Int) - 65535) % 65536 < 32768 ∧ 32768 ≤ ((32767 : Int) - 65535) % 65536) ∧
    ((withRx 1 (fun x => { x with lineBinding := some 0 }) (switching true)).rx 1).lineBinding ≠ none := by
  decide +kernel

theorem witness_SetupWrite_stall :
    let s := standby.withPos { standby.pos with stallTimer := 10 }
    s.trunk.run = .standby ∧ s.pos.stallArmed = true ∧ max 10 (min 65535 0) ≤ s.pos.stallTimer ∧
      (queued 30 s).trunk.urgent.length + 2 ≤ Config.urgentSlots ∧ hasRoom (queued 30 s) ∧ 0 < 256 ^ Param.stallMs.width ∧
      Param.ofCode? (11 : Byte).toNat = some .stallMs := by
  unfold hasRoom; decide +kernel

/-- A GRADE group whose bank 0 is ACTIVE, with a plate bound to it that is graded or not. -/
def boundPlate (graded : Bool) : State :=
  let s := withGradeShadow .inspect .loaded gradeBank
  s.withPlan { s.plan with queue := [{ plate 17 .avoid none 240000 250310 .confirmed .planned .b with
    finalGrade := if graded then some .cullet else none }] }

theorem witness_BankCommit_replaced :
    (((boundPlate false).store.grade.get (otherBank (boundPlate false).store.grade.shadow)).state = .active ∧
      (∃ p ∈ (boundPlate false).plan.queue, p.bank = 0 ∧ p.finalGrade = none) ∧
      ¬∃ p ∈ (boundPlate true).plan.queue, p.bank = 0 ∧ p.finalGrade = none) ∧
    (∃ b, Slot.blob b ∈ [Slot.blob (testBlob 5 6)] ∧ b.tag = 0) ∧
    ((withRx 1 (fun x => { x with lineBinding := some 0 }) (withShadow .standby .loaded goodDetect)).rx 1).lineBinding = some 0 ∧
    hasRoom (queued 31 (boundPlate false)) ∧ 2 ≤ (2 : Byte).toNat := by
  unfold hasRoom
  refine ⟨⟨by decide +kernel, ⟨_, List.mem_singleton.2 rfl, rfl, rfl⟩, ?_⟩, ⟨_, List.mem_singleton.2 rfl, rfl⟩, by decide +kernel,
    by decide +kernel, by decide +kernel⟩
  rintro ⟨p, hp, -, hg⟩
  obtain rfl := List.mem_singleton.1 hp
  exact absurd hg (by decide)

/-- A dark blob of columns 10 to 12 or of others, not joined on the present line. -/
def openBlob (lead lo hi : Nat) : Slot := .blob ⟨.dark, lead, lead, 1, lo, hi, ⟨lo, hi⟩, none, 5, 3000, false, 3, false, 0, false⟩

/-- A dark continuation of columns 20 to 21. -/
def dormant (idle : Nat) : Slot := .continuation ⟨.dark, ⟨20, 21⟩, idle, 2⟩

/-- A tracker of the given slots, the rest FREE, the first the oldest. -/
def trackerOf (xs : List Slot) : Tracker := ⟨xs ++ List.replicate (32 - xs.length) .free, List.range xs.length⟩

theorem trackerOf_ok (xs : List Slot) (h : xs.length ≤ 32) (hf : ∀ x ∈ xs, x.isFree = false) : (trackerOf xs).Ok where
  slots := by simp only [trackerOf, List.length_append, List.length_replicate]; exact Nat.add_sub_cancel' h
  once := List.nodup_range
  held j := by
    rw [show (trackerOf xs).slot j = (xs ++ List.replicate (32 - xs.length) Slot.free).getD j .free from rfl]
    simp only [trackerOf, List.mem_range]
    by_cases hj : j < xs.length
    · rw [List.getD_append _ _ _ _ hj, List.getD_eq_getElem _ _ hj]
      exact ⟨fun _ => hf _ (List.getElem_mem hj), fun _ => hj⟩
    · have : (xs ++ List.replicate (32 - xs.length) Slot.free).getD j .free = .free := by
        rw [List.getD_append_right _ _ _ _ (Nat.not_lt.1 hj)]
        simp only [List.getD_eq_getElem?_getD, List.getElem?_replicate]
        split <;> rfl
      rw [this]
      exact ⟨fun h => absurd h hj, fun h => absurd h (by decide)⟩

/-- The run of the tracker's witnesses: dark, columns 13 to 19, next to both. -/
def nextRun : Run := ⟨13, 19, .dark, 7, 3100, false⟩

theorem witness_RunsGatherHits_tracker :
    (trackerOf [openBlob 250000 10 12, openBlob 250000 20 22, dormant 2]).Ok ∧
    ((trackerOf [openBlob 250000 10 12, openBlob 250000 20 22, dormant 2]).age = [] ++ 0 :: [1, 2] ∧
      nextRun.first ≤ 12 + 1 ∧ 10 ≤ nextRun.last + 1 ∧ 20 ≤ nextRun.last + 1) ∧
    ((trackerOf [openBlob 250000 40 42, dormant 2]).Ok ∧
      (trackerOf [openBlob 250000 40 42, dormant 2]).age = [0] ++ 1 :: [] ∧ ¬40 ≤ nextRun.last + 1) ∧
    ((trackerOf [openBlob 250000 40 42]).Ok ∧ (trackerOf [openBlob 250000 40 42]).slot 1 = .free) ∧
    ((trackerOf (List.replicate 32 (openBlob 250000 40 42))).Ok ∧
      ∀ j, j < 32 → ∃ b, (trackerOf (List.replicate 32 (openBlob 250000 40 42))).slot j = .blob b) ∧
    ((trackerOf (List.replicate 31 (openBlob 250000 40 42) ++ [.continuation ⟨.bright, ⟨20, 21⟩, 0, 2⟩])).Ok ∧
      (trackerOf (List.replicate 31 (openBlob 250000 40 42) ++ [.continuation ⟨.bright, ⟨20, 21⟩, 0, 2⟩])).slot 31 =
        .continuation ⟨.bright, ⟨20, 21⟩, 0, 2⟩) := by
  refine ⟨trackerOf_ok _ (by decide) (by decide), by decide +kernel, ⟨trackerOf_ok _ (by decide) (by decide), by decide +kernel⟩,
    ⟨trackerOf_ok _ (by decide) (by decide), by decide +kernel⟩, ⟨trackerOf_ok _ (by decide) (by decide), fun j hj => ?_⟩,
    trackerOf_ok _ (by decide) (by decide), by decide +kernel⟩
  refine ⟨_, (?_ : _ = openBlob 250000 40 42)⟩
  rw [Tracker.slot, trackerOf, List.getD_append _ _ _ _ (by simpa using hj), List.getD_eq_getElem _ _ (by simpa using hj)]
  exact List.getElem_replicate ..

theorem witness_ClosedBlobIsPlacedAndClassified_line :
    let t := trackerOf [openBlob 250000 10 12, dormant 1, dormant 2]
    t.Ok ∧ t.slot 0 = openBlob 250000 10 12 ∧ t.slot 1 = dormant 1 ∧ t.slot 2 = dormant 2 ∧ t.slot 3 = .free ∧
    (∃ y, (t.takeRun (fun _ => 1) 0 250005 nextRun).1.slot 0 = .blob y ∧ y.pendingSpan = some ⟨13, 19⟩) ∧
    Slot.due (fun _ => ⟨32, 0, 31, 6, 1, 20, 0, 400, 0, 110, 0, 1⟩) (openBlob 250000 10 12) = some .idle ∧
    Slot.due (fun _ => ⟨32, 0, 31, 6, 1, 20, 1, 3, 0, 110, 0, 1⟩) (openBlob 250000 10 12) = some .segment ∧
    Slot.due (fun _ => ⟨32, 0, 31, 6, 1, 20, 1, 4, 0, 110, 0, 1⟩) (openBlob 250000 10 12) = none :=
  ⟨trackerOf_ok _ (by decide) (by decide), rfl, rfl, rfl, rfl, ⟨_, rfl, rfl⟩, by decide +kernel, by decide +kernel,
    by decide +kernel⟩

/-- The part of the map's witnesses with lane 2's gap open at 500 000 and its record in the map, or refused. -/
def gapped (entered : Bool) : State :=
  let s := mapped 2047
  withRx 2 (fun x => { x with openGap := some 500000, lastClosedGap := some 500000, lastGapStart := some 499990 }) (s.withMap { s.map with
    records := if entered then [.gap 2 499990 (some 500000), .gap 2 500000 none] else [.flaw (flaw 1 0 9 500000 500010)]
    mark := if entered then none else some ⟨500000, 500000, (PerLane.all false).set 2 true⟩ })

theorem witness_FlawEntry_gaps :
    (MapOk (mapped 2047) ∧ (mapped 2047).map.records.length < 2048) ∧
    (MapOk (mapped 2048) ∧ (mapped 2048).map.records.length = 2048 ∧ hasRoom (mapped 2048)) ∧
    (MapOk (gapped true) ∧ ((gapped true).rx 2).openGap = some 500000 ∧ 500000 < 500001 ∧
      MapRecord.gap 2 499990 (some 500000) ∈ (gapped true).map.records ∧ ((gapped true).rx 2).lastClosedGap = some 500000 ∧
      ((gapped true).rx 2).lastGapStart = some 499990) ∧
    (MapOk (gapped false) ∧ ((gapped false).rx 2).openGap = some 500000 ∧ ((gapped false).map.mark.isSome = true) ∧
      MapRecord.gap 2 499990 (some 500000) ∉ (gapped false).map.records) ∧
    ((mapped 2047).rx 2).openGap = none ∧ (479999 < 480000 ∧ 480000 ≤ (mapped 2047).plan.cLast ∧ (mapped 2047).plan.queue = []) := by
  refine ⟨⟨mapped_ok (by decide), ?_⟩, ⟨mapped_ok (by decide), ?_, by unfold hasRoom; decide +kernel⟩,
    ⟨⟨by decide +kernel, by decide +kernel⟩, by decide +kernel⟩, ⟨⟨by decide +kernel, by decide +kernel⟩, by decide +kernel⟩, by decide +kernel,
    by decide +kernel⟩
  · rw [show (mapped 2047).map.records.length = 2047 from List.length_replicate]; decide
  · exact List.length_replicate

/-- Cut 31's firing with the schedule full, or with cut 30 outstanding, or pending before it. -/
def crowded (n : Nat) (c : Cutter) : State :=
  let s := firing 450299 c
  s.withPos { s.pos with schedule := List.replicate n ⟨500000, .divert, 1⟩ }

theorem witness_CutEntryByCase_missed :
    (cutPosition 31 (crowded 64 (Cutter.reset false false)) = some 400300 ∧ (crowded 64 (Cutter.reset false false)).pos.schedule.length = 64 ∧
      (crowded 64 (Cutter.reset false false)).pos.p < 400300 + 50000 + 500 ∧ hasRoom (crowded 64 (Cutter.reset false false))) ∧
    (gradeTest ((crowded 64 (Cutter.reset false false)).withCutter (Cutter.reset false false))).cutter.pendingCut = none ∧
    ((crowded 64 (Cutter.reset false true)).cutter.ackHigh = true ∧ (crowded 64 (Cutter.reset false true)).pos.p < 400300 + 50000) ∧
    (let s := crowded 63 { Cutter.reset false true with pendingCut := some ⟨30, 400000⟩ };
      s.cutter.pendingCut = some ⟨30, 400000⟩ ∧ hasRoom s ∧ s.pos.p < 400300 + 50000 ∧ s.pos.schedule.length ≤ 63) ∧
    (pending31 450300).cutter.pendingCut = some ⟨31, 400300⟩ ∧ hasRoom (pending31 450300) ∧ (31 : Nat) ≠ 30 ∧
    (outstanding17 300810).cutter.outstanding = some ⟨17, 250310, true⟩ ∧ hasRoom (outstanding17 300810) := by
  unfold hasRoom; decide +kernel

/-- At the deadline of cut 17 with cut 18 pending behind it and CUT_ACK low. -/
def pendingBehind : State :=
  let s := outstanding17 300810
  s.withCutter { s.cutter with pendingCut := some ⟨18, 280310⟩ }

/-- The premises of the last clause hold of the state that the deadline leaves: one pending, none outstanding, room. -/
theorem witness_CutEntryByCase_issues_next :
    let t := fireDeadline 17 pendingBehind
    t.cutter.outstanding = some ⟨18, 280310, false⟩ ∧ t.cutter.pendingCut = none ∧
      (t.plan.queue.map Plate.trailStatus) = [.planned, .missed, .requested] := by
  decide +kernel

theorem witness_CutterLevels_hold :
    ((pending31 450050).cutter.requestedHold = false ∧ (pending31 450050).cutter.faultHigh = false ∧
      (pending31 450050).cutter.pendingCut = some ⟨31, 400300⟩) ∧ MasksOk (pending31 450050) ∧ hasRoom (pending31 450050) ∧
    ∃ t, exec (.cutterHold 1 []) (pending31 450050) = .next t ∧ hasRoom t :=
  ⟨by decide +kernel, ⟨by decide +kernel, by decide +kernel, by decide +kernel⟩, by unfold hasRoom; decide +kernel,
    _, rfl, by unfold hasRoom; decide +kernel⟩

/-- Plate 17 of 8.11 with its last count at 250 480, at a position with a number of entries in the schedule and of urgent
records; its DIVERT entry is due at 389 000. -/
def grading (p n m : Nat) (reported : Bool) : State :=
  let s := inspect p 280310
  let x : Plate := { plate 17 .avoid none 240000 250310 .confirmed .deviated .b with actualEnd := 250480 }
  (queued m ((s.withPlan { s.plan with queue := [x] }).withPos
    { s.pos with schedule := List.replicate n ⟨400000, .cut, 3⟩ })).withGrader ⟨none, reported, none⟩

theorem witness_GradingAndDivert_cases :
    (hasRoom (grading 388999 62 31 false) ∧ (grading 388999 62 31 false).pos.schedule.length ≤ 62 ∧
      ((grading 388999 62 31 false).pos.p : Int) < (240000 : Int) + (grading 388999 62 31 false).setup.dDiv -
        (grading 388999 62 31 false).setup.divertLead ∧ (grading 388999 62 31 false).divert.last = none) ∧
    (62 < (grading 388999 63 30 true).pos.schedule.length ∧ (grading 388999 63 30 true).grader.waitReported = true ∧
      (grading 388999 63 30 false).grader.waitReported = false ∧
      (grading 388999 63 30 false).trunk.urgent.length + 2 ≤ Config.urgentSlots) ∧
    ((240000 : Int) + (grading 389000 62 30 false).setup.dDiv - (grading 389000 62 30 false).setup.divertLead ≤
      ((grading 389000 62 30 false).pos.p : Int)) ∧
    (let s := (grading 388999 62 31 false).withMap ⟨[], some ⟨250000, 250479, PerLane.all false⟩, 280320⟩;
      ∃ m, s.map.mark = some m ∧ (∀ i, m.openLanes.get i = false) ∧ m.hi < 250480) ∧
    (let s := (grading 388999 62 31 false).withGrade ⟨⟨.retiring, gradeBank⟩, ⟨.active, gradeBank⟩⟩;
      (s.store.grade.get 0).state = .retiring ∧ (s.store.grade.get (otherBank 0)).state ≠ .retiring) := by
  unfold hasRoom; exact ⟨by decide +kernel, by decide +kernel, by decide +kernel, ⟨_, rfl, by decide +kernel, by decide +kernel⟩,
    by decide +kernel⟩

theorem witness_GradingAndDivert_retry :
    let s := fun p n m => (grading p n m true).withGrader ⟨some ⟨17, 389000⟩, true, some 17⟩
    ((s 388999 63 31).grader.wait = some ⟨17, 389000⟩ ∧ (s 388999 63 31).pos.p < 389000 ∧
      62 < (s 388999 63 31).pos.schedule.length) ∧
    (s 388999 62 31).pos.schedule.length ≤ 62 ∧ (389000 ≤ (s 389000 62 31).pos.p ∧ hasRoom (s 389000 62 31)) ∧
    (grading 388999 62 31 true).grader.wait = none := by
  unfold hasRoom; decide +kernel

theorem witness_RunningLine_missing :
    ((lineState.rx 1).lastTrigger = some 5000 ∧ (lineState.rx 1).lastPosition = some 250000 ∧
      250000 + lineState.setup.linePitch < 2 ^ 48 ∧ hasRoom (queued 31 lineState)) ∧
    ((((5001 : Int) - 5000 - 1) % 65536).toNat = 0 ∧ 0 < (((5002 : Int) - 5000 - 1) % 65536).toNat) ∧
    ((0 : Byte).getLsbD 0 = false ∧ 250005 + lineState.setup.linePitch < 2 ^ 48) ∧
    (⟨⟨5001, 32, 1, payload600⟩, 239999, 0, decide (239999 < lineState.map.h)⟩ : Taken).behind = true ∧
    (⟨⟨5001, 32, 1, payload600⟩, 240000, 0, decide (240000 < lineState.map.h)⟩ : Taken).behind = false := by
  unfold hasRoom; decide +kernel


/-! ### Sums at full width, the planner's tests, the Grader's test and the horizon -/

/-- R65 with the last joined line at the highest position: (2^48 - 1 + 5 - (2^48 - 50)) * 20 000 / 1000 = 1080, although the
trail does not fit its 48 bits. -/
theorem test_length_at_the_top :
    (measure Setup.powerOn (detectBank.lanes.get 0)
      { testBlob 5 6 with lead := 2 ^ 48 - 50, lastJoined := 2 ^ 48 - 1 }).length = 1080 := by decide +kernel

/-- A part at the highest position with two RUNNING lanes, one of whose glass ends above 2^48. -/
def atTheTop : State :=
  let run : Nat → Receiver → Receiver := fun q x => { x with state := .running, lastPosition := some q }
  let s := (inspect (2 ^ 48 - 1) (2 ^ 48 - 100)).withMap ⟨[], none, 2 ^ 48 - 100⟩
  withRx 1 (run (2 ^ 48 - 20)) (withRx 0 (run (2 ^ 48 - 2)) s)

/-- R81 in the same place: the lowest lane horizon is lane 1's, 2^48 - 20 + 5. -/
theorem test_horizon_at_the_top : (recomputeH atTheTop).map.h = 2 ^ 48 - 15 := by decide +kernel

/-- R112: a start cut outstanding as STANDBY is entered is MISSED and counted, with CUT_MISSED 0 and 4. -/
theorem test_start_cut_abandoned :
    let s := stopping.withCutter { stopping.cutter with outstanding := some ⟨0, 101000, true⟩ }
    let t := enterStandby s
    (t.plan.startCut.map StartCut.status) = some .missed ∧ t.report.current.cutsMissed = 1 ∧ t.cutter.outstanding = none ∧
      (t.cond.line.map fun r => (r.kind, r.detail1, r.detail2)) = some (.cutMissed, 0, 4) := by decide +kernel

/-- R133, 6.2: a SPEC entry of length 0, minimum grade 5 and enable 9 reads back as 1, C (2) and 1. -/
theorem test_spec_entry : (GradeTables.powerOn.write .spec 7 [0, 5, 9]).read .spec 7 = [1, 2, 1] := by decide +kernel

/-- R133, 4.9: a CLASS entry with every field above its range. -/
theorem test_class_entry :
    (DetectTables.powerOn.write .cls 15 [3, 1, 2, 3, 4, 2000, 7, 16, 2]).read .cls 15 = [2, 1, 2, 3, 4, 1023, 2, 15, 1] := by
  decide +kernel

/-- R109 with the deadline already at P: cut 31 is requested and MISSED in one firing. -/
theorem test_cut_already_due :
    let t := fireCut 31 (firing 450800 (Cutter.reset false false))
    (t.plan.queue.map Plate.trailStatus) = [.missed] ∧ t.report.current.cutsRequested = 1 ∧ t.report.current.cutsMissed = 1 ∧
      t.pulses.cutReq = 1 ∧ (t.cond.line.map fun r => (r.kind, r.detail1, r.detail2)) = some (.cutMissed, 31, 1) := by
  decide +kernel

theorem witness_EntryToStandby_start_cut :
    (stopping.cutter.outstanding = none ∧ stopping.cutter.pendingCut = none ∧ hasRoom (queued 31 stopping)) ∧
    ((some (⟨0, 101000, true⟩ : Outstanding)).map Outstanding.plate = some 0) ∧
    (some (⟨0, 101000⟩ : PendingCut)).map PendingCut.plate = some 0 := by
  unfold hasRoom; decide +kernel

theorem witness_WrittenEntryReadsBack_detect :
    (DetectTables.powerOn.boundaries.length = 60 ∧ DetectTables.powerOn.thresholds.length = 64 ∧
      DetectTables.powerOn.classes.length = 16) ∧
    (3 < TableId.lane.size ∧ 59 < TableId.boundary.size ∧ 63 < TableId.threshold.size ∧ 15 < TableId.cls.size) ∧
    TableId.lane.widths.length = 12 ∧ TableId.boundary.widths.length = 1 ∧ TableId.threshold.widths.length = 2 ∧
      TableId.cls.widths.length = 9 := by
  decide +kernel

theorem witness_WrittenEntryReadsBack_grade :
    (GradeTables.powerOn.zones.length = 3 ∧ GradeTables.powerOn.limits.length = 192 ∧ GradeTables.powerOn.fatal.length = 16 ∧
      GradeTables.powerOn.divert.length = 7 ∧ GradeTables.powerOn.specs.length = 8) ∧
    (2 < TableId.zone.size ∧ 191 < TableId.limit.size ∧ 15 < TableId.fatal.size ∧ 6 < TableId.divert.size ∧
      7 < TableId.spec.size ∧ 0 < TableId.plan.size) ∧
    (TableId.zone.widths.length = 2 ∧ TableId.limit.widths.length = 1 ∧ TableId.fatal.widths.length = 1 ∧
      TableId.divert.widths.length = 1 ∧ TableId.spec.widths.length = 3 ∧ TableId.plan.widths.length = 2) := by
  decide +kernel

theorem witness_CutEntryByCase_due :
    (cutPosition 31 (firing 450800 (Cutter.reset false false)) = some 400300 ∧
      400300 + 50000 + 500 ≤ (firing 450800 (Cutter.reset false false)).pos.p ∧
      hasRoom (firing 450800 (Cutter.reset false false)) ∧
      (fireCut 31 (firing 450800 (Cutter.reset false false))).cutter.pendingCut = none) ∧
    (400300 + 50000 ≤ (firing 450300 (Cutter.reset false true)).pos.p ∧ (Cutter.reset false true).ackHigh = true ∧
      hasRoom (firing 450300 (Cutter.reset false true)) ∧ (Cutter.reset false true).pendingCut = none) := by
  unfold hasRoom; decide +kernel

/-- The planner with C_last at 240 000 and 30 000 of ORDER glass to come: its run state, H (and E), plates in the queue, entries
in the schedule and wait state. -/
def planning (run : RunState) (h plates entries : Nat) (wait : WaitState) : State :=
  let s := (inspect 270010 240000).withMap ⟨[], none, h⟩
  let s := s.withTrunk { s.trunk with run := run, stopEnd := some h }
  let p := plate 16 .order (some 0) 210000 240000 .confirmed .planned .a
  (s.withPos { s.pos with schedule := List.replicate entries ⟨400000, .cut, 3⟩ }).withPlan
    { s.plan with queue := List.replicate plates p, wait := wait }

theorem witness_PlanningAttempt :
    standby.trunk.run = .standby ∧
    (let s := withGradeShadow .inspect .committing gradeBank;
      (s.store.grade.get 1).state = .committing ∧ (s.store.grade.get (otherBank 1)).state = .active ∧
        s.trunk.run ≠ .standby) ∧
    (let s := planning .stopping 269999 0 0 .none;
      (∀ b, (s.store.grade.get b).state ≠ .committing) ∧ s.trunk.stopEnd = some 269999 ∧ s.plan.complete = false ∧
        s.plan.cLast < 269999 ∧ 269999 < s.plan.cLast + (s.store.grade.activeTables.specs.getD s.plan.cursor default).length) ∧
    (let s := planning .inspect 270000 127 62 .none;
      s.plan.cLast + (s.store.grade.activeTables.specs.getD s.plan.cursor default).length ≤ 270000 ∧ s.map.h = 270000 ∧
        s.plan.queue.length < 128 ∧ s.pos.schedule.length ≤ 62) := by
  decide +kernel

/-- Each test of an attempt that fails, at the boundary of its range (R89, R100): the wait state that it leaves. -/
theorem witness_PlanningAttempt_waits :
    let left : State → WaitState × Nat := fun s => ((planningAttempt s).plan.wait, (planningAttempt s).plan.cLast)
    left (planning .inspect 269999 0 0 .none) = (.horizon, 240000) ∧
    left (planning .inspect 270000 128 0 .none) = (.queue, 240000) ∧
    (left (planning .inspect 270000 127 63 .none) = (.schedule, 240000) ∧ hasRoom (planning .inspect 270000 127 63 .none) ∧
      ((planningAttempt (planning .inspect 270000 127 63 .none)).cond.line.map CondRecord.kind) = some .scheduleFull) ∧
    ((planningAttempt (planning .inspect 270000 127 63 .schedule)).cond.line.map CondRecord.kind) = none ∧
    (planningAttempt (planning .stopping 240000 1 0 .horizon)).plan.complete = true ∧
    (planningAttempt (planning .stopping 240000 0 0 .horizon)).trunk.run = .standby ∧
    ((planningAttempt (planning .stopping 240001 1 0 .none)).plan.queue.map Plate.kind) = [.order, .tail] := by
  unfold hasRoom; decide +kernel

theorem witness_GraderTest :
    (∃ p, p.finalGrade = none ∧ threePlates.plan.queue = [] ++ p :: threePlates.plan.queue.tail ∧ p.leadStatus = .confirmed ∧
      p.trailStatus = .planned) ∧
    (∃ p, p.finalGrade = none ∧ (grading 388999 62 31 false).plan.queue = [] ++ p :: [] ∧ p.leadStatus = .confirmed ∧
      p.trailStatus = .deviated ∧ (grading 388999 62 31 false).grader.wait = none) ∧
    ((grading 388999 62 31 false).withGrader ⟨some ⟨17, 389000⟩, true, some 17⟩).grader.wait ≠ none ∧
    ∀ p ∈ (diverting 389000).plan.queue.take 1, p.finalGrade ≠ none :=
  ⟨⟨_, rfl, rfl, rfl, rfl⟩, ⟨_, rfl, rfl, rfl, rfl, rfl⟩, by decide +kernel, by decide +kernel⟩

/-- The lane horizons of R81's table: a RUNNING lane by its line, by its lowest blob and by the line in handling; a WAITING lane
by S0; other lanes none; and no lane at all. -/
theorem witness_HorizonIsRecomputed :
    (lineState.trunk.run = .inspect ∧ (∀ i, laneHorizon lineState i = if i = 1 then some 250005 else none) ∧
      lineState.map.h < 250005) ∧
    (let s := lineState.setTracker 1 (trackerOf [openBlob 249000 10 12, openBlob 248000 20 22]);
      laneHorizon s 1 = some 248000 ∧ s.map.h < 248000) ∧
    laneHorizon (withRx 1 (fun x => { x with inHand := some 240000 }) lineState) 1 = some 240000 ∧
    lineState.map.h = 240000 ∧
    laneHorizon (withRx 2 (fun x => { x with state := .waiting }) lineState) 2 = some 101000 ∧
    (∀ i, laneHorizon (inspect 5 0) i = none) ∧ (inspect 5 0).map.h < 5 ∧ standby.trunk.run ≠ .inspect := by
  decide +kernel

theorem witness_RunStop_response :
    let w := (stopLanes lineState).1
    (lineState.lane 1).tracker.Ok ∧ (stopLanes lineState).2 = 250005 ∧
    hasRoom (planningAttempt ((w.withMap { w.map with h := max w.map.h 250005 }).withTrunk
      { w.trunk with run := .stopping, stopEnd := some 250005 })) := by
  refine ⟨?_, by decide +kernel, by unfold hasRoom; decide +kernel⟩
  exact trackerOf_ok [] (by decide) (by decide)

theorem witness_RunningLine_saturated :
    let s := fun k => withRx 1 (fun x => { x with satRun := k }) lineState
    (((s 14).rx 1).satRun < 15 ∧ ((s 15).rx 1).satRun = 15 ∧ hasRoom (queued 31 (s 15))) ∧
    ((s 15).laneEntry 0 1).satLimit <
      ((((⟨5001, 32, 1, List.replicate 40 0⟩ : Line).pixels.take (((s 15).laneEntry 0 1).winHi + 1)).drop
        ((s 15).laneEntry 0 1).winLo).countP fun v => v == 0 || v == 1023) := by
  unfold hasRoom; decide +kernel

/-! ### Witnesses of the clauses that say what falls due, what overlaps and what a check finds -/

/-- A closed gap of lane 2 ends at 500 000, and a record of the lane ends there. The map took that gap as the record, or
refused it. -/
def closedAt500000 (taken : Bool) : State :=
  let s := (mapped 0).withMap { (mapped 0).map with records := [.gap 2 499990 (some 500000)] }
  withRx 2 (fun x => { x with lastClosedGap := some 500000, lastGapStart := if taken then some 499990 else none }) s

/-- R76: where the map took the last closed gap its record is extended; a later extension of a refused one finds no record and
is entered as a new one, whatever older record of the lane ends there. -/
theorem test_extension_of_a_refused_gap :
    (closedGap 2 500000 500005 (closedAt500000 true)).map.records = [.gap 2 499990 (some 500005)] ∧
    (closedGap 2 500000 500005 (closedAt500000 false)).map.records =
      [.gap 2 499990 (some 500000), .gap 2 500000 (some 500005)] ∧
    ((closedGap 2 500000 500005 (closedAt500000 false)).rx 2).lastGapStart = some 500000 := by decide +kernel

/-- R76: a gap that the map floors, and an open gap that it refused, leave no record to extend. -/
theorem test_no_record_to_extend :
    ((closedGap 2 479990 480000 (closedAt500000 true)).rx 2).lastGapStart = none ∧
    ((closeGap 2 500001 (gapped false)).rx 2).lastGapStart = none ∧
    ((closeGap 2 500001 (gapped true)).rx 2).lastGapStart = some 500000 := by decide +kernel

/-- The part at 2^48 - 2 with entries due at the next position and above it, and with a divert wait that ends there. -/
def aboutToFire (entries : List Entry) (wait : Option DivertWait) : State :=
  let s := (nearTop 3).withPos { (nearTop 3).pos with schedule := entries }
  s.withGrader { s.grader with wait := wait }

theorem witness_ScheduleOrderAndFiring_advance :
    (let s := aboutToFire [⟨2 ^ 48 - 1, .cut, 1⟩, ⟨2 ^ 48, .divert, 1⟩] none;
      isForward s true false ∧ s.pos.debt = 0 ∧ s.pos.p < 2 ^ 48 - 1 ∧
        (takeFiring (advancePhase (s.withPos { s.pos with p := s.pos.p + 1 }))).pos.firing ≠ []) ∧
    (let s := aboutToFire [] (some ⟨17, 2 ^ 48 - 1⟩);
      isForward s true false ∧ s.pos.schedule = [] ∧ s.grader.wait = some ⟨17, 2 ^ 48 - 1⟩ ∧ s.pos.p + 1 = 2 ^ 48 - 1) ∧
    (aboutToFire [] none).grader.wait = none ∧
    ((lineState.rx 1).state = .running ∧ isForward lineState true false ∧ lineState.pos.debt = 0) ∧
    ∀ i, ((aboutToFire [] none).rx i).state = .disabled := by
  unfold isForward; decide +kernel

/-- Each check of R135 at the edge of what it accepts, with the code and the index of the entry. -/
theorem witness_CommitChecks :
    (goodDetect.boundaries.length = 60 ∧ detectFailure goodDetect = none ∧ gradeFailure gradeBank = none) ∧
    (let lane : LaneEntry → DetectTables := fun e => { goodDetect with lanes := goodDetect.lanes.set 3 e };
      detectFailure (lane ⟨224, 0, 223, 6, 1, 20, 1, 400, 0, 110, 0, 1⟩) = some ⟨1, 3⟩ ∧
      detectFailure (lane ⟨256, 256, 255, 6, 1, 20, 1, 400, 0, 110, 0, 1⟩) = some ⟨2, 3⟩ ∧
      detectFailure (lane ⟨256, 0, 256, 6, 1, 20, 1, 400, 0, 110, 0, 1⟩) = some ⟨3, 3⟩ ∧
      detectFailure (lane ⟨256, 0, 255, 6, 1, 20, 1, 400, 0, 110, 1, 1⟩) = some ⟨5, 3⟩) ∧
    detectFailure { goodDetect with boundaries := goodDetect.boundaries.set 59 257 } = some ⟨4, 59⟩ ∧
    detectFailure { goodDetect with boundaries := goodDetect.boundaries.set 46 255 } = some ⟨4, 46⟩ ∧
    gradeFailure { gradeBank with zones := gradeBank.zones.set 2 ⟨5, 5⟩ } = some ⟨6, 2⟩ ∧
    gradeFailure { gradeBank with limits := gradeBank.limits.set 63 1 } = some ⟨7, 63⟩ ∧
    gradeFailure { gradeBank with specs := List.replicate 8 ⟨1, .a, false⟩ } = some ⟨8, 0⟩ ∧
    gradeFailure { gradeBank with specs := gradeBank.specs.set 7 ⟨4999, .a, true⟩ } = some ⟨9, 7⟩ := by
  decide +kernel

/-- A map with a flaw of [100, 199], a gap of [50, 100), and a mark of [10, 20] with a lane open in it or not. -/
def overlapping (openLane : Bool) : State :=
  let s := culled [.gap 1 50 (some 100), .flaw (flaw 1 0 9 100 199)]
  s.withMap { s.map with mark := some ⟨10, 20, (PerLane.all false).set 1 openLane⟩ }

theorem witness_RangesAndZones :
    ((flawsOver 199 200 (overlapping false)).length = 1 ∧ flawsOver 200 300 (overlapping false) = [] ∧
      flawsOver 0 100 (overlapping false) = [] ∧ (flawsOver 0 101 (overlapping false)).length = 1) ∧
    (gapOver 99 100 (overlapping false) = true ∧ gapOver 100 200 (overlapping false) = false ∧
      gapOver 0 50 (overlapping false) = false) ∧
    (markOver 20 30 (overlapping false) = true ∧ markOver 21 30 (overlapping false) = false ∧
      markOver 21 30 (overlapping true) = true ∧ markOver 0 10 (overlapping true) = false) ∧
    ((evaluate gradeBank 100 100 (overlapping true)).grade = .a ∧ (evaluate gradeBank 99 100 (overlapping false)).uninspected = true) ∧
    (gradeZone gradeBank 0 = 0 ∧ gradeZone gradeBank 49999 = 0 ∧ gradeZone gradeBank 50000 = 3 ∧
      gradeZone gradeBank 3250000 = 1 ∧ gradeZone gradeBank 1899999 = 2) ∧
    (Tally.zero.length = 64 ∧ (flaw 1 0 15 0 1).cls < 16) := by
  decide +kernel

theorem witness_RequestsWithBadArguments_values :
    (hasRoom (queued 31 lineState) ∧ ([0, 1, 5, 2] : List Byte) = [0, 1] ++ 5 :: 2 :: [] ∧ ([0, 1] : List Byte).length % 2 = 0 ∧
      ([0, 1] : List Byte).length < 2 * (2 : Byte).toNat ∧ 2 ≤ (2 : Byte).toNat ∧ 6 ≤ (6 : Byte).toNat) ∧
    ([0, 1, 5] : List Byte).length < 2 * (2 : Byte).toNat ∧
    (2 ≤ (2 : Byte).toNat ∧ 4 ≤ (4 : Byte).toNat ∧ TableId.ofCodes? 0 4 = none ∧ TableId.ofCodes? 1 6 = none) ∧
    (TableId.ofCodes? (1 : Byte).toNat (5 : Byte).toNat = some .plan ∧ 1 ≤ (1 : Byte).toNat ∧
      (List.replicate 4 (0 : Byte)).length < 5) ∧
    (17 ≤ (17 : Byte).toNat ∧ Param.ofCode? (16 : Byte).toNat = some .delegLocal ∧
      ([0, 0] : List Byte).length < Param.delegLocal.width) := by
  unfold hasRoom; decide +kernel

/-- The plates of 6.10 follow one on another, and the commit of the next one is accepted. -/
theorem witness_PlanCommit_chain :
    (commitPlate .order (some 0) .a 270000 (committing 299909 62)).isSome = true ∧
    (commitPlate .avoid none .b 250310 (committing 299910 62)).isSome = true ∧
    (threePlates.plan.queue.map fun p => (p.plannedStart, p.plannedEnd)) = [(210000, 240000), (240000, 250310), (250310, 280310)] ∧
    threePlates.plan.cLast = 280310 := by
  decide +kernel

/-- Cut 31 pending with its ISSUE_LIMIT entry in the schedule. -/
def limited31 (p : Nat) : State :=
  (pending31 p).withPos { (pending31 p).pos with schedule := [⟨450300, .issueLimit, 31⟩] }

theorem witness_CutterLevels_fall :
    (let s := limited31 450299;
      s.cutter.pendingCut = some ⟨31, 400300⟩ ∧ s.cutter.outstanding = none ∧
        s.pos.p < 400300 + s.setup.dCut + s.setup.confirmWindow ∧ s.pos.schedule.length ≤ 63 ∧
        (s.pos.schedule.any fun e => decide (e.kind = .issueLimit ∧ e.plate = 31)) = true) ∧
    ((pending31 450799).pos.schedule.any fun e => decide (e.kind = .issueLimit ∧ e.plate = 31)) = false := by
  decide +kernel

/-- 7.9: the issue at the fall of CUT_ACK counts the cut as requested and puts its deadline where the rule says. -/
theorem test_cut_ack_fall_counts : after .cutAckFall (limited31 450150) fun t =>
    t.report.current.cutsRequested == 1 && t.pos.schedule == [⟨450800, .confirmDeadline, 31⟩] &&
      (t.plan.queue.map Plate.trailSeq) == [some true] := by decide +kernel

/-- The states that the changes of a lane in INSPECT leave have room for the response. -/
theorem witness_LaneControl_inspect :
    hasRoom (recomputeH (openGap 0 lineState.map.h lineState)) ∧
    hasRoom (recomputeH (withRx 2 (fun x => { x with state := .disabled }) lineState)) ∧
    hasRoom (recomputeH (releaseLineBinding 1 (openGap 1 250005 (flush 1 lineState)))) := by
  unfold hasRoom; decide +kernel

/-- Lane 1 of the line tests under forward mode ALL, with a line in its slot or none. -/
def forwardAll (st : LaneState) (slot : Option ForwardLine) : State :=
  withRx 1 (fun x => { x with forward := .all, slot := slot }) (lineStateIn st)

theorem witness_LinesThatAreNotGood_forward :
    (((forwardAll .running (some testForward)).rx 1).forward = .all ∧ ((forwardAll .running none).rx 1).slot = none ∧
      lookupTrigger 5003 (forwardAll .waiting (some testForward)) = none ∧ hasRoom (queued 31 (forwardAll .waiting none))) ∧
    ((forwardAll .running none).rx 1).lastTrigger = some 5000 ∧
    (lookupTrigger 5000 (forwardAll .silent none) = some 250000 ∧ ((forwardAll .silent none).rx 1).lastPosition = some 250000) := by
  unfold hasRoom; decide +kernel

/-- R35: a stale line under mode ALL takes the slot with no position, and the line that lay there is counted. -/
theorem test_stale_line_is_forwarded :
    after (.lineFrame 1 (frameOf 32 (lineBody 5003 1 grey600))) (forwardAll .running (some testForward)) fun t =>
      ((t.rx 1).slot.map fun f => (f.trigger, f.position)) == some (5003, none) && (t.rx 1).forwardDropped == 1 &&
        (t.rx 1).stale == 1 := by decide +kernel

/-- R31: line 5002 resumes above the gap's start, and line 5001 at it. -/
theorem witness_SeedAndResume_resume :
    let s := lineStateIn .silent
    (s.rx 1).openGap = some 250005 ∧ lookupTrigger 5002 s = some 250010 ∧ 250005 < max 250010 s.map.h ∧
      ¬250005 < max 250005 s.map.h ∧ (s.rx 1).silentSince = some 0 ∧ s.msTime < s.setup.reseedMs := by
  decide +kernel

/-- R31: a short silence closes the gap at the line's position. -/
theorem test_resume_closes_at_the_line :
    after (.lineFrame 1 (frameOf 32 (lineBody 5002 1 grey600))) (lineStateIn .silent) fun t =>
      (t.rx 1).lastClosedGap == some 250010 && (t.rx 1).openGap == none && (t.rx 1).state == .running := by decide +kernel
end Sys2Proof.Tests
end

section
/-! SUPPORT. What the commands do to the Position Unit, said once: `PosKeeps` for every command but ENCODER_INCREMENT and the
resets, and for an increment the one place that moves P, the trigger history and the schedule together (R3, R7, R9, R13). -/

namespace Sys2Proof.Machine

/-! ### Commands that leave P, the debt and the triggers alone -/

/-- P, the debt and the triggers are the same, and the schedule keeps its order, its place above P and its capacity. -/
structure PosKeeps (s u : State) : Prop where
  p : u.pos.p = s.pos.p
  debt : u.pos.debt = s.pos.debt
  excursion : u.pos.excursion = s.pos.excursion
  reverseArmed : u.pos.reverseArmed = s.pos.reverseArmed
  trigger : u.pos.trigger = s.pos.trigger
  triggerSeen : u.pos.triggerSeen = s.pos.triggerSeen
  history : u.pos.history = s.pos.history
  sorted : schedSorted s.pos.schedule → schedSorted u.pos.schedule
  above : (∀ e ∈ s.pos.schedule, s.pos.p < e.fire) → ∀ e ∈ u.pos.schedule, s.pos.p < e.fire
  schedLe : u.pos.schedule.length ≤ max s.pos.schedule.length Config.scheduleSlots
  firing : u.pos.firing.length ≤ s.pos.firing.length

theorem Inner.posKeeps {s u : State} (h : Inner s u) : PosKeeps s u :=
  ⟨h.p, h.debt, h.excursion, h.reverseArmed, h.trigger, h.triggerSeen, h.history, h.sorted, h.above, h.schedLe, h.firing⟩

theorem PosKeeps.trans {s t u : State} (a : PosKeeps s t) (b : PosKeeps t u) : PosKeeps s u where
  p := b.p.trans a.p
  debt := b.debt.trans a.debt
  excursion := b.excursion.trans a.excursion
  reverseArmed := b.reverseArmed.trans a.reverseArmed
  trigger := b.trigger.trans a.trigger
  triggerSeen := b.triggerSeen.trans a.triggerSeen
  history := b.history.trans a.history
  sorted h := b.sorted (a.sorted h)
  above h := a.p ▸ b.above (a.p.symm ▸ a.above h)
  schedLe := by have := a.schedLe; have := b.schedLe; omega
  firing := b.firing.trans a.firing

/-- A change of the stall report alone. -/
theorem PosKeeps.stall (s : State) (n : Nat) (a : Bool) :
    PosKeeps s (s.withPos { s.pos with stallTimer := n, stallArmed := a }) :=
  ⟨rfl, rfl, rfl, rfl, rfl, rfl, rfl, id, id, le_max_left _ _, le_rfl⟩

/-- A change outside the Position Unit. -/
theorem PosKeeps.same {s u : State} (h : u.pos = s.pos) : PosKeeps s u := by
  constructor <;> simp [h]

theorem PosKeeps.refl (s : State) : PosKeeps s s := PosKeeps.same rfl

theorem PosKeeps.lanes (s : State) (x : PerLane Lane) : PosKeeps s (s.withLanes x) := PosKeeps.same rfl
theorem PosKeeps.map (s : State) (x : FlawMap) : PosKeeps s (s.withMap x) := PosKeeps.same rfl
theorem PosKeeps.store (s : State) (x : TableStore) : PosKeeps s (s.withStore x) := PosKeeps.same rfl
theorem PosKeeps.trunk (s : State) (x : Trunk) : PosKeeps s (s.withTrunk x) := PosKeeps.same rfl
theorem PosKeeps.modRx (s : State) (i : LaneId) (f : Receiver → Receiver) : PosKeeps s (s.modRx i f) := PosKeeps.same rfl

theorem answer_posKeeps (r : Request) (st : Status) (body : List Byte) (u : State) : PosKeeps u (answer r st body u) := by
  obtain ⟨v, e, q, hi, hc, -, -⟩ := answer_form r st body u
  rw [hc]
  exact hi.posKeeps.trans (PosKeeps.trunk _ _)

theorem respond_posKeeps {tag kind : Byte} {args body : List Byte} {st : Status} {s u : State} (h : PosKeeps s u) :
    ∃ v, respond tag kind args st body u = done v ∧ PosKeeps s v :=
  ⟨_, rfl, h.trans (answer_posKeeps _ _ _ _)⟩

/-- A request that is refused, or that reads, is answered in the state as it stands. -/
theorem respond_posKeeps_refl (tag kind : Byte) (args body : List Byte) (st : Status) (s : State) :
    ∃ v, respond tag kind args st body s = done v ∧ PosKeeps s v := respond_posKeeps (PosKeeps.refl s)

theorem stallExpiry_posKeeps (s : State) : PosKeeps s (stallExpiry s) := by
  unfold stallExpiry
  split
  · exact (PosKeeps.stall s _ _).trans (raise_inner _ _ _ _ _).posKeeps
  · exact PosKeeps.refl s

theorem writeSetup_posKeeps (p : Param) (v : Nat) (s : State) : PosKeeps s (writeSetup p v s) := by
  unfold writeSetup
  dsimp only
  refine (PosKeeps.store s { s.store with setup := s.setup.put p (p.stored v) }).trans ?_
  split
  · exact stallExpiry_posKeeps _
  · split
    · exact PosKeeps.same rfl
    · exact PosKeeps.refl _

theorem startRun_posKeeps (s : State) : PosKeeps s (startRun s) := by
  unfold startRun
  dsimp only
  refine PosKeeps.trans ?_ (planningAttempt_inner _).posKeeps
  refine PosKeeps.trans ?_ (recomputeH_inner _).posKeeps
  refine PosKeeps.trans ?_ (PosKeeps.trunk _ _)
  refine PosKeeps.trans ?_ (Inner.foldl (startLane_inner _) _ _).posKeeps
  refine PosKeeps.trans ?_ (insertStartCut_inner _ _).posKeeps
  refine PosKeeps.trans ?_ (startPlanner_inner _ _).posKeeps
  refine PosKeeps.trans ?_ (Inner.divert _ _).posKeeps
  refine PosKeeps.trans ?_ (settleDetect_inner _).posKeeps
  exact (PosKeeps.lanes _ _).trans (PosKeeps.map _ _)

theorem stopRun_posKeeps (s : State) : PosKeeps s (stopRun s).1 := by
  unfold stopRun
  dsimp only
  refine PosKeeps.trans ?_ (planningAttempt_inner _).posKeeps
  exact (stopLanes_inner s).posKeeps.trans ((PosKeeps.map _ _).trans (PosKeeps.trunk _ _))

theorem headReplyArrives_posKeeps (i : LaneId) (f : Frame) (s : State) : PosKeeps s (headReplyArrives i f s) := by
  unfold headReplyArrives
  split
  · exact (handRecord_inner _ _).posKeeps
  · exact PosKeeps.same rfl

theorem linkDown_posKeeps (i : LaneId) (s : State) : PosKeeps s (linkDown i s) := by
  unfold linkDown
  dsimp only
  split
  · exact (PosKeeps.modRx s i _).trans (goSilent_inner _ _ _).posKeeps
  · exact PosKeeps.modRx s i _

theorem requestArrives_posKeeps (r : Request) (s : State) : PosKeeps s (requestArrives r s) := by
  unfold requestArrives depart
  split
  · split <;> exact PosKeeps.same rfl
  · exact (handRecord_inner _ _).posKeeps

theorem headArrives_posKeeps (n : Nat) (m : List Byte) (s : State) : PosKeeps s (headArrives n m s) := by
  unfold headArrives badFrame
  split
  · exact PosKeeps.same rfl
  · split <;> exact PosKeeps.same rfl

theorem trunkFrameArrives_posKeeps (f : Frame) (s : State) : PosKeeps s (trunkFrameArrives f s) := by
  have bad : PosKeeps s (badFrame s) := PosKeeps.same rfl
  unfold trunkFrameArrives
  split
  · exact PosKeeps.same rfl
  · split
    · exact bad
    · split
      · split
        · exact requestArrives_posKeeps _ s
        · exact bad
      · split
        · split
          · exact headArrives_posKeeps _ _ s
          · exact bad
        · exact bad

theorem trunkDown_posKeeps (s : State) : PosKeeps s (trunkDown s) := by
  unfold trunkDown
  split <;> exact PosKeeps.same rfl

theorem tableWrite_posKeeps (t : Byte) (a : List Byte) (s : State) :
    ∃ u, execTableWrite t a s = done u ∧ PosKeeps s u := by
  have refused := respond_posKeeps_refl t 2 a []
  unfold execTableWrite
  split
  · split
    · exact refused _ s
    · split
      · exact refused _ s
      · split
        · exact refused _ s
        · split
          · exact refused _ s
          · next hl => exact respond_posKeeps (writeEntry_inner _ _ _ _ (by simpa using hl)).posKeeps
  · exact refused _ s

theorem tableRead_posKeeps (t : Byte) (a : List Byte) (s : State) :
    ∃ u, execTableRead t a s = done u ∧ PosKeeps s u := by
  have read := fun body st => respond_posKeeps_refl t 3 a body st s
  unfold execTableRead
  split
  · split
    · split <;> exact read _ _
    · exact read _ _
  · exact read _ _

theorem bankCommit_posKeeps (t : Byte) (a : List Byte) (s : State) :
    ∃ u, execBankCommit t a s = done u ∧ PosKeeps s u := by
  have refused := fun body st => respond_posKeeps_refl t 4 a body st s
  unfold execBankCommit
  split
  · split
    · exact refused _ _
    · split
      · exact refused _ _
      · next g _ hl =>
        split
        · exact refused _ _
        · have hc := (acceptCommit_inner g s (by simpa using hl)).posKeeps
          exact ⟨_, rfl, (hc.trans (answer_posKeeps _ _ _ _)).trans (followCommit_inner _ _).posKeeps⟩
  · exact refused _ _

theorem setupWrite_posKeeps (t : Byte) (a : List Byte) (s : State) :
    ∃ u, execSetupWrite t a s = done u ∧ PosKeeps s u := by
  have refused := fun body st => respond_posKeeps_refl t 5 a body st s
  unfold execSetupWrite
  split
  · split
    · exact refused _ _
    · split
      · split
        · exact refused _ _
        · exact respond_posKeeps (writeSetup_posKeeps _ _ s)
      · exact refused _ _
  · exact refused _ _

theorem setupRead_posKeeps (t : Byte) (a : List Byte) (s : State) :
    ∃ u, execSetupRead t a s = done u ∧ PosKeeps s u := by
  have read := fun body st => respond_posKeeps_refl t 6 a body st s
  unfold execSetupRead
  split
  · split <;> exact read _ _
  · exact read _ _

theorem runStart_posKeeps (t : Byte) (a : List Byte) (s : State) :
    ∃ u, execRunStart t a s = done u ∧ PosKeeps s u := by
  have refused := fun body st => respond_posKeeps_refl t 7 a body st s
  unfold execRunStart
  split
  · exact refused _ _
  · split
    · exact refused _ _
    · split
      · exact refused _ _
      · exact respond_posKeeps (startRun_posKeeps s)

theorem runStop_posKeeps (t : Byte) (a : List Byte) (s : State) :
    ∃ u, execRunStop t a s = done u ∧ PosKeeps s u := by
  unfold execRunStop
  split
  · exact respond_posKeeps (stopRun_posKeeps s)
  · exact respond_posKeeps_refl _ _ _ _ _ s

theorem laneControl_posKeeps (t : Byte) (a : List Byte) (s : State) :
    ∃ u, execLaneControl t a s = done u ∧ PosKeeps s u := by
  have refused := fun body st => respond_posKeeps_refl t 9 a body st s
  have forward : ∀ i m, PosKeeps s (setForward i m s) := fun _ _ => PosKeeps.same rfl
  unfold execLaneControl
  split
  · split
    · split
      · exact respond_posKeeps ((forward _ _).trans (enableLane_inner _ _).posKeeps)
      · exact respond_posKeeps ((forward _ _).trans (disableLane_inner _ _).posKeeps)
      · exact refused _ _
    · exact refused _ _
  · exact refused _ _

theorem reportGet_posKeeps (t : Byte) (a : List Byte) (s : State) :
    ∃ u, execReportGet t a s = done u ∧ PosKeeps s u := by
  unfold execReportGet
  split <;> exact respond_posKeeps (PosKeeps.same rfl)

theorem conditionClear_posKeeps (t : Byte) (a : List Byte) (s : State) :
    ∃ u, execConditionClear t a s = done u ∧ PosKeeps s u := by
  unfold execConditionClear
  split <;> exact respond_posKeeps (PosKeeps.same rfl)

theorem outputSet_posKeeps (t : Byte) (a : List Byte) (s : State) :
    ∃ u, execOutputSet t a s = done u ∧ PosKeeps s u := by
  unfold execOutputSet
  split <;> exact respond_posKeeps (PosKeeps.same rfl)

theorem outputOwner_posKeeps (t : Byte) (a : List Byte) (s : State) :
    ∃ u, execOutputOwner t a s = done u ∧ PosKeeps s u := by
  unfold execOutputOwner
  split <;> exact respond_posKeeps (PosKeeps.same rfl)

/-- What every command but ENCODER_INCREMENT and the resets does to the Position Unit before the take. -/
theorem exec_posKeeps (c : Instr) (s : State) (hl : LinesOk s) (henc : ∀ a b, c ≠ .encoderIncrement a b)
    (hpow : ∀ lv, c ≠ .powerOnReset lv) (hsoft : ∀ tag args, c ≠ .partReset tag args) :
    ∃ u, exec c s = done u ∧ PosKeeps s u := by
  cases c with
  | powerOnReset lv => exact absurd rfl (hpow lv)
  | partReset t a => exact absurd rfl (hsoft t a)
  | encoderIncrement a b => exact absurd rfl (henc a b)
  | stallTimerExpiry => exact ⟨_, rfl, stallExpiry_posKeeps s⟩
  | silenceTimerExpiry i => exact ⟨_, rfl, (silenceExpiry_inner i s).posKeeps⟩
  | shiftTimerExpiry => exact ⟨_, rfl, (shiftExpiry_inner s).posKeeps⟩
  | cutAckRise q => exact ⟨_, rfl, (ackRise_inner q s).posKeeps⟩
  | cutAckFall => exact ⟨_, rfl, (ackFall_inner s).posKeeps⟩
  | cutterFaultRise => exact ⟨_, rfl, (faultRise_inner s).posKeeps⟩
  | cutterFaultFall => exact ⟨_, rfl, (faultFall_inner s).posKeeps⟩
  | lineFrame i f => exact ⟨_, rfl, (lineArrives_inner i f s (hl i)).posKeeps⟩
  | headReplyFrame i f => exact ⟨_, rfl, headReplyArrives_posKeeps i f s⟩
  | laneLinkDown i => exact ⟨_, rfl, linkDown_posKeeps i s⟩
  | laneLinkUp i => exact ⟨_, rfl, PosKeeps.same rfl⟩
  | headCommandSent i => exact ⟨_, rfl, PosKeeps.same rfl⟩
  | trunkFrame f => exact ⟨_, rfl, trunkFrameArrives_posKeeps f s⟩
  | trunkLinkDown => exact ⟨_, rfl, trunkDown_posKeeps s⟩
  | trunkLinkUp => exact ⟨_, rfl, PosKeeps.same rfl⟩
  | trunkSendDone => exact ⟨_, rfl, PosKeeps.same rfl⟩
  | headFrameOtherType i f => exact ⟨_, rfl, PosKeeps.same rfl⟩
  | statusGet t a => exact respond_posKeeps_refl _ _ _ _ _ s
  | tableWrite t a => exact tableWrite_posKeeps t a s
  | tableRead t a => exact tableRead_posKeeps t a s
  | bankCommit t a => exact bankCommit_posKeeps t a s
  | setupWrite t a => exact setupWrite_posKeeps t a s
  | setupRead t a => exact setupRead_posKeeps t a s
  | runStart t a => exact runStart_posKeeps t a s
  | runStop t a => exact runStop_posKeeps t a s
  | laneControl t a => exact laneControl_posKeeps t a s
  | cutterHold t a => exact respond_posKeeps (requestHold_inner s).posKeeps
  | cutterRelease t a => exact respond_posKeeps (releaseHold_inner s).posKeeps
  | shiftClose t a => exact respond_posKeeps ((closeShift_inner _ _).trans (Inner.report _ _)).posKeeps
  | reportGet t a => exact reportGet_posKeeps t a s
  | conditionGet t a => exact respond_posKeeps_refl _ _ _ _ _ s
  | conditionClear t a => exact conditionClear_posKeeps t a s
  | outputSet t a => exact outputSet_posKeeps t a s
  | outputOwner t a => exact outputOwner_posKeeps t a s

end Sys2Proof.Machine
end

section
/-! SUPPORT. What a raise and a switch of banks change, and a raise that finds room for its notice (R139, R146 to R151). -/

namespace Sys2Proof.Machine

/-! ### What a raise can change -/

/-- `t` is `s` but for the planner, the conditions, the report and the urgent queue. -/
def NoticeFrame (s t : State) : Prop :=
  t = (((s.withPlan t.plan).withCond t.cond).withReport t.report).withTrunk
    { s.trunk with urgent := t.trunk.urgent, urgentDrops := t.trunk.urgentDrops }

theorem NoticeFrame.refl (s : State) : NoticeFrame s s := rfl

theorem NoticeFrame.trans {s t u : State} (a : NoticeFrame s t) (b : NoticeFrame t u) : NoticeFrame s u := by
  unfold NoticeFrame at *
  rw [b, a]
  rfl

theorem handUrgent_frame (r : Urgent) (s : State) : NoticeFrame s (handUrgent r s).1 := by
  unfold handUrgent
  split <;> rfl

theorem NoticeFrame.cond (s : State) (c : ConditionUnit) : NoticeFrame s (s.withCond c) := rfl

theorem handleLine_frame (k : CondKind) (lane : Option LaneId) (d1 d2 : Nat) (e : Bool) (s : State) :
    NoticeFrame s (handleLine k lane d1 d2 e s).1 := by
  unfold handleLine
  split
  · exact (NoticeFrame.cond s _).trans (handUrgent_frame _ _)
  · exact NoticeFrame.cond s _

theorem handleGantry_frame (k : CondKind) (lane : Option LaneId) (d1 d2 : Nat) (s : State) :
    NoticeFrame s (handleGantry k lane d1 d2 s).1 := by
  unfold handleGantry
  split
  · exact (NoticeFrame.cond s _).trans (handUrgent_frame _ _)
  · exact (NoticeFrame.cond s _).trans (handleLine_frame _ _ _ _ _ _)

theorem raiseOnce_frame (k : CondKind) (lane : Option LaneId) (d1 d2 : Nat) (s : State) :
    NoticeFrame s (raiseOnce k lane d1 d2 s).1 := by
  have counted : NoticeFrame s (countRaise k s) := rfl
  unfold raiseOnce
  refine counted.trans ?_
  dsimp only
  split
  · exact NoticeFrame.refl _
  · exact handleGantry_frame _ _ _ _ _
  · exact handleLine_frame _ _ _ _ _ _

theorem raise_frame (k : CondKind) (lane : Option LaneId) (d1 d2 : Nat) (s : State) :
    NoticeFrame s (raise k lane d1 d2 s) := by
  unfold raise
  dsimp only
  split
  · exact (raiseOnce_frame _ _ _ _ _).trans (raiseOnce_frame _ _ _ _ _)
  · exact raiseOnce_frame _ _ _ _ _

/-! ### A raise with room -/

/-- The state with the condition records and the urgent queue replaced: what handling a raise at a level changes. -/
def withNotice (c : ConditionUnit) (us : List Urgent) (s : State) : State :=
  (s.withCond c).withTrunk { s.trunk with urgent := us }

/-- A raise handled at LINE with room: the LINE record, and its notice where the record was vacant. -/
theorem handleLine_room {s : State} (k : CondKind) (lane : Option LaneId) (d1 d2 : Nat) (e : Bool) (h : hasRoom s) :
    ∃ l us, handleLine k lane d1 d2 e s = (withNotice { s.cond with line := l } us s, false) ∧
      heldAtLine k lane d1 d2 e s (withNotice { s.cond with line := l } us s) := by
  unfold handleLine heldAtLine
  cases hl : s.cond.line with
  | none =>
    exact ⟨_, _, handUrgent_room (s := s.withCond _) h, rfl, rfl⟩
  | some r => exact ⟨_, s.trunk.urgent, rfl, rfl, rfl⟩

/-- A raise with room is handled whole, and drops nothing. -/
theorem raiseOnce_room {s : State} (k : CondKind) (lane : Option LaneId) (d1 d2 : Nat) (h : hasRoom s) :
    ∃ t, raiseOnce k lane d1 d2 s = (t, false) ∧ Raised k lane d1 d2 s t := by
  have room : ∀ c, hasRoom ((countRaise k s).withCond c) := fun _ => h
  unfold raiseOnce routeOf
  cases hg : s.setup.delegGantry.testBit (k.code - 1) with
  | false =>
    obtain ⟨l, us, ht, hline⟩ := handleLine_room (s := countRaise k s) k lane d1 d2 false h
    exact ⟨_, ht, rfl, rfl, by rw [if_pos hg]; exact ⟨rfl, hline⟩, rfl⟩
  | true =>
    cases hlocal : s.setup.delegLocal.testBit (k.code - 1) with
    | true => exact ⟨_, rfl, rfl, rfl, by rw [if_neg (by simp [hg]), if_pos hlocal]; exact ⟨rfl, rfl, rfl⟩, rfl⟩
    | false =>
      simp only [Bool.not_true, Bool.false_eq_true, if_false]
      unfold handleGantry
      cases hr : s.cond.gantry with
      | none =>
        have hr' : (countRaise k s).cond.gantry = none := hr
        rw [hr']
        refine ⟨_, handUrgent_room (room _), rfl, rfl, ?_, rfl⟩
        rw [if_neg (by simp [hg]), if_neg (by simp [hlocal]), hr]
        exact ⟨rfl, rfl, rfl⟩
      | some r =>
        have hr' : (countRaise k s).cond.gantry = some r := hr
        rw [hr']
        obtain ⟨l, us, ht, hline⟩ := handleLine_room k lane d1 d2 true
          (room { (countRaise k s).cond with gantry := some r.addFurther })
        refine ⟨_, ht, rfl, rfl, ?_, rfl⟩
        rw [if_neg (by simp [hg]), if_neg (by simp [hlocal]), hr]
        exact ⟨rfl, hline⟩

/-- A raise that finds room for a notice (R146 to R151). -/
theorem raise_room {s : State} (k : CondKind) (lane : Option LaneId) (d1 d2 : Nat) (h : hasRoom s) :
    Raised k lane d1 d2 s (raise k lane d1 d2 s) := by
  obtain ⟨t, ht, hr⟩ := raiseOnce_room k lane d1 d2 h
  unfold raise
  rw [ht]
  exact hr

/-! ### What a switch of banks changes -/

/-- `t` is `s` but for the lanes and the Table Store. -/
def BankFrame (s t : State) : Prop := t = (s.withLanes t.lanes).withStore t.store

theorem BankFrame.trans {s t u : State} (a : BankFrame s t) (b : BankFrame t u) : BankFrame s u := by
  unfold BankFrame at *
  rw [b, a]
  rfl

theorem giveLineBindings_frame (old : BankId) (s : State) : BankFrame s (giveLineBindings old s) := by
  unfold giveLineBindings
  split <;> rfl

theorem switchDetect_frame (t : Option Nat) (s : State) : BankFrame s (switchDetect t s) := by
  unfold switchDetect
  split
  · rfl
  · split
    · rfl
    · exact (giveLineBindings_frame _ s).trans rfl

theorem switchGrade_frame (s : State) : BankFrame s (switchGrade s) := by
  unfold switchGrade
  split
  · rfl
  · split <;> rfl

theorem BankFrame.pos {s t : State} (h : BankFrame s t) : t.pos = s.pos := by
  unfold BankFrame at h
  rw [h]
  rfl

theorem switchDetect_pos (t : Option Nat) (s : State) : (switchDetect t s).pos = s.pos := (switchDetect_frame t s).pos

/-! ### The two banks of a group -/

theorem setState_get {α : Type} (g : Group α) (a b : BankId) (st : BankState) :
    ((g.setState a st).get b).state = if b = a then st else (g.get b).state := by
  fin_cases a <;> fin_cases b <;> rfl

/-- Of two banks, those that are not a third are the same. -/
theorem bank_eq_of_ne : ∀ {a b c : BankId}, a ≠ c → b ≠ c → a = b := by decide

theorem otherBank_otherBank : ∀ b : BankId, otherBank (otherBank b) = b := by decide

theorem otherBank_ne : ∀ b : BankId, otherBank b ≠ b := by decide

/-- The bank in a state is found, where the other bank is not in it. -/
theorem find_eq_some {α : Type} {g : Group α} {b : BankId} {st : BankState} (h : (g.get b).state = st)
    (h' : (g.get (otherBank b)).state ≠ st) : g.find st = some b := by
  cases hf : g.find st with
  | none => exact absurd h (find_none hf b)
  | some c =>
    have hc : c ≠ otherBank b := by
      rintro rfl
      exact h' (find_state hf)
    rw [bank_eq_of_ne hc (otherBank_ne b).symm]

/-- A switch between the two banks: what each becomes. -/
theorem switch_get {α : Type} (g : Group α) (old : BankId) (bound : Bool) :
    (g.switch (otherBank old) (some old) bound).get (otherBank old) =
      { g.get (otherBank old) with state := .active } ∧
    (g.switch (otherBank old) (some old) bound).get old =
      { g.get old with state := if bound then .retiring else .loaded } := by
  fin_cases old <;> exact ⟨rfl, rfl⟩

end Sys2Proof.Machine
end


section
/-! SUPPORT. An increment and the laws of the Position Unit (R2 to R4, R7 to R9, R13). -/

namespace Sys2Proof.Machine

/-- The laws of the Position Unit, the trigger history and the schedule. -/
structure PosLaws (s : State) : Prop where
  position : PositionOk s
  history : HistoryOk s
  schedule : ScheduleOk s

/-! ### The trigger history (R9, R10) -/

/-- The history's law speaks of P, the trigger's number and the slots alone; P may grow. -/
theorem HistoryOk.mono {s u : State} (h : HistoryOk s) (hp : s.pos.p ≤ u.pos.p) (ht : u.pos.trigger = s.pos.trigger)
    (hs : u.pos.triggerSeen = s.pos.triggerSeen) (hh : u.pos.history = s.pos.history) : HistoryOk u := by
  have age : ∀ n, triggerAge u n = triggerAge s n := fun n => by unfold triggerAge; rw [ht]
  constructor
  · rw [hh]; exact h.slots
  · rw [ht]; exact h.latest
  · rw [hs, hh]; exact h.unseen
  · intro n x hx
    rw [hh] at hx
    obtain ⟨hn, hlt, hpos, hage⟩ := h.place n x hx
    exact ⟨hn, hlt, hpos.trans hp, by rw [age]; exact hage⟩
  · intro n m x y hx hy
    rw [hh] at hx hy
    rw [age, age]
    exact h.increase n m x y hx hy

/-- A history with the slot of a trigger written. -/
theorem writeHistory_getD {h : List (Option HistorySlot)} (hl : h.length = Config.historySlots) (t p n : Nat) :
    (writeHistory t p h).getD n none = if n = t % Config.historySlots then some ⟨t, p⟩ else h.getD n none := by
  have hlt : t % Config.historySlots < h.length := by rw [hl]; exact Nat.mod_lt _ (by decide)
  unfold writeHistory
  rw [List.getD_eq_getElem?_getD, List.getElem?_set, List.getD_eq_getElem?_getD]
  by_cases hn : t % Config.historySlots = n
  · rw [if_pos hn, if_pos hlt, if_pos hn.symm]; rfl
  · rw [if_neg hn, if_neg (Ne.symm hn)]

/-- A trigger issued, before the Table Store's switch (R7, R8): the pulses, the number, the history, trigger seen. -/
def stampTrigger (s : State) : State :=
  (s.withPulses { s.pulses with trig := s.pulses.trig + 1 }).withPos { s.pos with
    phase := 0
    trigger := (s.pos.trigger + 1) % 65536
    history := writeHistory ((s.pos.trigger + 1) % 65536) s.pos.p s.pos.history
    triggerSeen := true }

theorem issueTrigger_eq (s : State) :
    issueTrigger s = switchDetect (some ((s.pos.trigger + 1) % 65536)) (stampTrigger s) := rfl

theorem issueTrigger_inner (s : State) : Inner (stampTrigger s) (issueTrigger s) := switchDetect_inner _ _

theorem triggerAge_stampTrigger_self (s : State) : triggerAge (stampTrigger s) ((s.pos.trigger + 1) % 65536) = 0 := by
  show ((s.pos.trigger + 1) % 65536 + 65536 - (s.pos.trigger + 1) % 65536 % 65536) % 65536 = 0
  omega

/-- A new trigger makes every other one of the latest 65536 older by one. -/
theorem triggerAge_stampTrigger {s : State} {t : Nat} (h : triggerAge s t < 65535) :
    triggerAge (stampTrigger s) t = triggerAge s t + 1 := by
  have e : triggerAge (stampTrigger s) t = ((s.pos.trigger + 1) % 65536 + 65536 - t % 65536) % 65536 := rfl
  rw [e]
  unfold triggerAge at *
  omega

/-- A new trigger at a position ahead of every position in the history keeps the history's law: its slot is that of the
trigger 256 before it. -/
theorem HistoryOk.stamp {s : State} (h : HistoryOk s)
    (ahead : ∀ n x, s.pos.history.getD n none = some x → x.position < s.pos.p) : HistoryOk (stampTrigger s) := by
  have slot : ∀ n, (stampTrigger s).pos.history.getD n none =
      if n = (s.pos.trigger + 1) % 65536 % Config.historySlots then some ⟨(s.pos.trigger + 1) % 65536, s.pos.p⟩
      else s.pos.history.getD n none := fun n => writeHistory_getD h.slots _ _ n
  have latest := h.latest
  -- a slot after the write: the new trigger's, or an older trigger's, one older than before
  have read : ∀ n x, (stampTrigger s).pos.history.getD n none = some x →
      (x = ⟨(s.pos.trigger + 1) % 65536, s.pos.p⟩ ∧ n = (s.pos.trigger + 1) % 65536 % Config.historySlots ∧
        triggerAge (stampTrigger s) x.trigger = 0) ∨
      (s.pos.history.getD n none = some x ∧ triggerAge (stampTrigger s) x.trigger = triggerAge s x.trigger + 1 ∧
        triggerAge s x.trigger < 255) := by
    intro n x hx
    rw [slot] at hx
    split at hx
    · next hn =>
      cases hx
      exact .inl ⟨rfl, hn, triggerAge_stampTrigger_self s⟩
    · next hn =>
      obtain ⟨hplace, hlt, -, hage⟩ := h.place n x hx
      have hage' : triggerAge s x.trigger < 255 := by
        simp only [triggerAge, Config.historySlots] at *
        omega
      exact .inr ⟨hx, triggerAge_stampTrigger (by omega), hage'⟩
  constructor
  · exact (List.length_set ..).trans h.slots
  · exact Nat.mod_lt _ (by decide)
  · exact fun hf => nomatch hf
  · intro n x hx
    rcases read n x hx with ⟨rfl, rfl, hage⟩ | ⟨hold, hage, hlt⟩
    · exact ⟨rfl, Nat.mod_lt _ (by decide), le_rfl, by rw [hage]; decide⟩
    · obtain ⟨hplace, hx', hpos, -⟩ := h.place n x hold
      exact ⟨hplace, hx', hpos, by rw [hage]; simp only [Config.historySlots]; omega⟩
  · intro n m x y hx hy hxy
    rcases read m y hy with ⟨-, -, hagey⟩ | ⟨holdy, hagey, -⟩
    · omega
    · rcases read n x hx with ⟨rfl, -, -⟩ | ⟨holdx, hagex, -⟩
      · exact ahead m y holdy
      · exact h.increase n m x y holdx holdy (by omega)

/-! ### The schedule at an advance (R13) -/

/-- What is left of the schedule once what is due has been taken out lies above P. -/
theorem takeFiring_above (s : State) : ∀ e ∈ (takeFiring s).pos.schedule, s.pos.p < e.fire := fun _ he =>
  of_decide_eq_true (List.mem_filter.1 he).2

theorem takeFiring_sorted {s : State} (h : schedSorted s.pos.schedule) : schedSorted (takeFiring s).pos.schedule :=
  List.Pairwise.filter _ h

theorem takeFiring_length_le (s : State) : (takeFiring s).pos.schedule.length ≤ s.pos.schedule.length :=
  List.length_filter_le _ _

/-- Once the entries due are taken out, the rest of the schedule's part in an advance is inner, and hands every one. -/
theorem fireSchedule_inner (s : State) : Inner (takeFiring s) (fireSchedule s) ∧ (fireSchedule s).pos.firing = [] := by
  obtain ⟨hand, empty⟩ := handFiring_inner (takeFiring s).pos.firing.length (takeFiring s) le_rfl
  have ends : ∀ {u}, Inner (handFiring (takeFiring s).pos.firing.length (takeFiring s)) u →
      Inner (takeFiring s) u ∧ u.pos.firing = [] := fun {u} hu =>
    ⟨hand.trans hu, List.eq_nil_of_length_eq_zero (by have := hu.firing; rw [empty] at this; simpa using this)⟩
  unfold fireSchedule
  dsimp only
  split
  · split
    · exact ends (retryDivert_inner _)
    · exact ends (Inner.refl _)
  · exact ends (afterDeparture_inner _)

/-! ### The laws through each change -/

theorem PosKeeps.laws {s u : State} (k : PosKeeps s u) (h : PosLaws s) : PosLaws u where
  position :=
    { p_lt := k.p ▸ h.position.p_lt
      debt_le := k.debt ▸ h.position.debt_le
      excursion_iff := by rw [k.excursion, k.debt]; exact h.position.excursion_iff
      armed := by rw [k.debt, k.reverseArmed]; exact h.position.armed }
  history := h.history.mono k.p.ge k.trigger k.triggerSeen k.history
  schedule :=
    { sorted := k.sorted h.schedule.sorted
      above := by rw [k.p]; exact k.above h.schedule.above
      room := by have := k.schedLe; have := h.schedule.room; omega
      handed := List.eq_nil_of_length_eq_zero (by have := k.firing; rw [h.schedule.handed] at this; simpa using this) }

/-- A change of the debt, the excursion and the reverse report that keeps their law (R3, R4). -/
theorem PosLaws.setDebt {s : State} (h : PosLaws s) (d : Nat) (x : Option Nat) (r : Bool) (hd : d ≤ 255)
    (hx : x = none ↔ d = 0) (hr : d = 0 → r = true) :
    PosLaws (s.withPos { s.pos with debt := d, excursion := x, reverseArmed := r }) where
  position := ⟨h.position.p_lt, hd, hx, hr⟩
  history := h.history.mono le_rfl rfl rfl rfl
  schedule := ⟨h.schedule.sorted, h.schedule.above, h.schedule.room, h.schedule.handed⟩

/-- P one greater, the stall timer restarted and armed (R3, R5). -/
def moveP (s : State) : State := s.withPos { s.pos with p := s.pos.p + 1, stallTimer := 0, stallArmed := true }

/-- What an advance's trigger phase keeps of the Position Unit, with a trigger or without (R7). -/
theorem advancePhase_keeps (s : State) : (advancePhase s).pos.p = s.pos.p ∧ (advancePhase s).pos.debt = s.pos.debt ∧
    (advancePhase s).pos.excursion = s.pos.excursion ∧ (advancePhase s).pos.reverseArmed = s.pos.reverseArmed ∧
    (advancePhase s).pos.schedule = s.pos.schedule ∧ (advancePhase s).pos.firing = s.pos.firing := by
  unfold advancePhase
  dsimp only
  split
  · rw [issueTrigger_eq, switchDetect_pos]
    exact ⟨rfl, rfl, rfl, rfl, rfl, rfl⟩
  · exact ⟨rfl, rfl, rfl, rfl, rfl, rfl⟩

/-- P moved on, the trigger phase keeps the history's law, with a trigger or without. -/
theorem historyOk_advancePhase {s : State} (h : HistoryOk s) : HistoryOk (advancePhase (moveP s)) := by
  have moved : HistoryOk (moveP s) := h.mono (Nat.le_succ _) rfl rfl rfl
  unfold advancePhase
  dsimp only
  split
  · have k := issueTrigger_inner (moveP s)
    exact (moved.stamp fun n x hx => Nat.lt_succ_of_le (h.place n x hx).2.2.1).mono k.p.ge k.trigger k.triggerSeen k.history
  · exact moved.mono le_rfl rfl rfl rfl

/-- What follows the schedule's part in an advance is inner: H where no lane is considered (R82). -/
theorem advanceP_inner (s : State) : Inner (fireSchedule (advancePhase (moveP s))) (advanceP s) := by
  unfold advanceP
  dsimp only
  split
  · exact Inner.refl _
  · exact recomputeH_inner _

/-- An advance of P below its bound keeps the laws. -/
theorem advanceP_laws {s : State} (h : PosLaws s) (hp : s.pos.p < Config.positionRange - 1) : PosLaws (advanceP s) := by
  obtain ⟨pp, pd, px, pr, psched, -⟩ := advancePhase_keeps (moveP s)
  obtain ⟨fi, fe⟩ := fireSchedule_inner (advancePhase (moveP s))
  refine (advanceP_inner s).posKeeps.laws ⟨?_, ?_, ?_⟩
  · have p : (fireSchedule (advancePhase (moveP s))).pos.p = s.pos.p + 1 := fi.p.trans pp
    have d : (fireSchedule (advancePhase (moveP s))).pos.debt = s.pos.debt := fi.debt.trans pd
    have x : (fireSchedule (advancePhase (moveP s))).pos.excursion = s.pos.excursion := fi.excursion.trans px
    have r : (fireSchedule (advancePhase (moveP s))).pos.reverseArmed = s.pos.reverseArmed := fi.reverseArmed.trans pr
    exact ⟨by rw [p]; omega, d ▸ h.position.debt_le, by rw [x, d]; exact h.position.excursion_iff,
      by rw [d, r]; exact h.position.armed⟩
  · exact (historyOk_advancePhase h.history).mono fi.p.ge fi.trigger fi.triggerSeen fi.history
  · have room : (takeFiring (advancePhase (moveP s))).pos.schedule.length ≤ Config.scheduleSlots :=
      (takeFiring_length_le _).trans (psched ▸ h.schedule.room)
    refine ⟨fi.sorted (takeFiring_sorted (psched ▸ h.schedule.sorted)), ?_, fi.schedLe.trans (max_le room le_rfl), fe⟩
    rw [fi.p]
    exact fi.above (takeFiring_above _)

theorem forwardIncrement_laws {s : State} (h : PosLaws s) : PosLaws (forwardIncrement s) := by
  have le := h.position.debt_le
  unfold forwardIncrement
  split
  · split
    · next hp => exact advanceP_laws h hp
    · exact h
  · split
    · exact h.setDebt 0 none true (by decide) (by simp) fun _ => rfl
    · exact h.setDebt (s.pos.debt - 1) _ _ (by omega) (by rw [h.position.excursion_iff]; omega) (by omega)

theorem reverseIncrement_laws {s : State} (h : PosLaws s) : PosLaws (reverseIncrement s) := by
  have le := h.position.debt_le
  unfold reverseIncrement
  split
  · exact h.setDebt 1 (some s.pos.p) _ (by decide) (by simp) (by simp)
  · next hd =>
    split
    · exact h.setDebt (s.pos.debt + 1) _ _ (by omega) (by rw [h.position.excursion_iff]; omega) (by omega)
    · split
      · exact (raise_inner _ _ _ _ _).posKeeps.laws
          (h.setDebt s.pos.debt _ false le h.position.excursion_iff fun h0 => absurd h0 hd)
      · exact h

/-- The quadrature state takes the new pair (R2). -/
def takePair (a b : Bool) (s : State) : State := s.withPos { s.pos with encA := a, encB := b }

theorem takePair_laws {s : State} (a b : Bool) (h : PosLaws s) : PosLaws (takePair a b s) :=
  ⟨⟨h.position.p_lt, h.position.debt_le, h.position.excursion_iff, h.position.armed⟩,
    h.history.mono le_rfl rfl rfl rfl,
    ⟨h.schedule.sorted, h.schedule.above, h.schedule.room, h.schedule.handed⟩⟩

/-- An ENCODER_INCREMENT keeps the laws (R2 to R4). -/
theorem encoderChange_laws {s : State} (a b : Bool) (h : PosLaws s) : PosLaws (encoderChange a b s) := by
  have hpair := takePair_laws a b h
  unfold encoderChange
  dsimp only
  split
  · exact forwardIncrement_laws hpair
  · exact reverseIncrement_laws hpair
  · exact hpair

/-- The reset values keep the laws (R1). -/
theorem PosLaws.reset {s : State} (a b : Bool) (h : s.pos = PositionUnit.reset a b) : PosLaws s := by
  have slot : ∀ n, s.pos.history.getD n none = none := by
    intro n
    rw [h, PositionUnit.reset, List.getD_eq_getElem?_getD, List.getElem?_replicate]
    split <;> rfl
  have latest : s.pos.trigger = 0 := by rw [h]; rfl
  have slots : s.pos.history.length = Config.historySlots := by
    rw [h]; exact List.length_replicate
  have vacant : ∀ {n x}, s.pos.history.getD n none ≠ some x := fun hx => nomatch (slot _).symm.trans hx
  constructor
  · constructor <;> rw [h] <;> simp [PositionUnit.reset, Config.positionRange]
  · exact ⟨slots, by rw [latest]; decide, fun _ => slot, fun _ _ hx => absurd hx vacant,
      fun _ _ _ _ hx => absurd hx vacant⟩
  · constructor <;> rw [h] <;> simp [PositionUnit.reset]

/-! ### Commands and steps -/

/-- Every command keeps the laws. -/
theorem exec_posLaws {c : Instr} {s t : State} (hl : LinesOk s) (h : PosLaws s) (ht : exec c s = .next t) :
    PosLaws t := by
  have take : ∀ u, PosLaws u → PosLaws (arbiter u) := fun u => (PosKeeps.same (arbiter_afterTake u).blocks.pos).laws
  by_cases henc : ∃ a b, c = .encoderIncrement a b
  · obtain ⟨a, b, rfl⟩ := henc
    rw [next_of_done ht]
    exact take _ (encoderChange_laws a b h)
  by_cases hpow : ∃ lv, c = .powerOnReset lv
  · obtain ⟨lv, rfl⟩ := hpow
    rw [next_of_done ht]
    exact take _ (PosLaws.reset lv.encA lv.encB rfl)
  by_cases hsoft : ∃ tag args, c = .partReset tag args
  · obtain ⟨tag, args, rfl⟩ := hsoft
    rw [next_of_done ht]
    exact take _ (PosLaws.reset s.pos.encA s.pos.encB rfl)
  obtain ⟨u, hu, k⟩ := exec_posKeeps c s hl (fun a b e => henc ⟨a, b, e⟩) (fun lv e => hpow ⟨lv, e⟩)
    (fun t a e => hsoft ⟨t, a, e⟩)
  rw [next_of_done (hu.symm.trans ht)]
  exact take _ (k.laws h)

/-- The take leaves no line in handling. -/
theorem arbiter_linesOk {u : State} (h : LinesOk u) : LinesOk (arbiter u) := by
  intro i
  have hi : ((arbiter u).lane i).rx = { u.rx i with slot := ((arbiter u).rx i).slot } := by
    rw [((arbiter_afterTake u).blocks.lanes i).1]
  exact (congrArg Receiver.inHand hi).trans (h i)

/-- No line is in handling after a reset. -/
theorem linesOk_of_reset {s u : State} (keep : Bool) (h : u.lanes = s.lanes.map (Lane.afterReset keep)) : LinesOk u := by
  intro i
  unfold State.rx State.lane
  rw [h, PerLane.get_map]
  rfl

/-- No command leaves a line in handling. -/
theorem exec_linesOk {c : Instr} {s t : State} (hl : LinesOk s) (ht : exec c s = .next t) : LinesOk t := by
  by_cases hpow : ∃ lv, c = .powerOnReset lv
  · obtain ⟨lv, rfl⟩ := hpow
    rw [next_of_done ht]
    exact arbiter_linesOk (linesOk_of_reset (s := s) false rfl)
  by_cases hsoft : ∃ tag args, c = .partReset tag args
  · obtain ⟨tag, args, rfl⟩ := hsoft
    rw [next_of_done ht]
    exact arbiter_linesOk (linesOk_of_reset (s := s) true rfl)
  obtain ⟨u, hu, k⟩ := exec_kept c s hl (fun lv e => hpow ⟨lv, e⟩) (fun t a e => hsoft ⟨t, a, e⟩)
  rw [next_of_done (hu.symm.trans ht)]
  exact arbiter_linesOk fun i => (k.inHand i).trans (hl i)

/-- A receiver's millisecond leaves the line in handling. -/
theorem Receiver.tick_inHand (x : Receiver) : x.tick.inHand = x.inHand := by
  unfold Receiver.tick
  split <;> rfl

theorem tick_posKeeps (s : State) : PosKeeps s (tick s) :=
  (PosKeeps.stall s (satAdd 65535 s.pos.stallTimer 1) s.pos.stallArmed).trans (PosKeeps.same rfl)

theorem tick_linesOk {s : State} (h : LinesOk s) : LinesOk (tick s) := by
  intro i
  show ((s.lanes.map fun l : Lane => { l with rx := l.rx.tick }).get i).rx.inHand = none
  rw [PerLane.get_map]
  exact (Receiver.tick_inHand _).trans (h i)

theorem takeUp_posKeeps (r : Request) (s : State) : PosKeeps s (takeUp r s) := by
  unfold takeUp
  split
  · exact PosKeeps.same rfl
  · exact answer_posKeeps _ _ _ s

theorem takeUp_linesOk (r : Request) {s : State} (h : LinesOk s) : LinesOk (takeUp r s) := by
  unfold takeUp
  split
  · exact h
  · exact fun i => ((answer_kept _ _ _ s).inHand i).trans (h i)

/-- The part's own step, before the take. -/
theorem ownStep_keeps {s t : State} (hl : LinesOk s) (ht : ownStep s = .next t) : LinesOk t ∧ PosKeeps s t := by
  have take : ∀ u, LinesOk u → PosKeeps s u → LinesOk (arbiter u) ∧ PosKeeps s (arbiter u) := fun u h k =>
    ⟨arbiter_linesOk h, k.trans (PosKeeps.same (arbiter_afterTake u).blocks.pos)⟩
  unfold ownStep at ht
  split at ht
  · rw [next_of_done ht]
    exact take _ (takeUp_linesOk _ hl) (takeUp_posKeeps _ s)
  · rw [next_of_done ht]
    exact take _ (tick_linesOk hl) (tick_posKeeps s)

/-- A step is the part's own, or a command's on the queue's rest. -/
theorem step_cases {s t : State} (h : step s = .next t) :
    ownStep s = .next t ∨ ∃ c rest, exec c (s.withPending rest) = .next t := by
  unfold step at h
  split at h
  · exact .inl h
  · exact .inr ⟨_, _, h⟩

/-- Every step keeps the laws, and leaves no line in handling. -/
theorem step_posLaws {s t : State} (hl : LinesOk s) (h : PosLaws s) (ht : step s = .next t) : LinesOk t ∧ PosLaws t := by
  rcases step_cases ht with own | ⟨c, rest, hc⟩
  · obtain ⟨lines, keeps⟩ := ownStep_keeps hl own
    exact ⟨lines, keeps.laws h⟩
  · have lines : LinesOk (s.withPending rest) := hl
    have laws : PosLaws (s.withPending rest) := (PosKeeps.same (s := s) (u := s.withPending rest) rfl).laws h
    exact ⟨exec_linesOk lines hc, exec_posLaws lines laws hc⟩

/-- Settles O54: `PosLaws` through every command and the part's own step, and no line left in handling. -/
theorem positionLawsAreKept : Obligations.PositionLawsAreKept := by
  unfold Obligations.PositionLawsAreKept
  intro s t hl hp hh hs ht
  obtain ⟨lines, laws⟩ := step_posLaws hl ⟨hp, hh, hs⟩ ht
  exact ⟨lines, laws.position, laws.history, laws.schedule⟩

/-! ### P and H never fall (R3, R82) -/

theorem answer_horizon (r : Request) (st : Status) (body : List Byte) (u : State) :
    u.map.h ≤ (answer r st body u).map.h := (answer_plain r st body u).horizon

theorem writeSetup_horizon (p : Param) (v : Nat) (s : State) : s.map.h ≤ (writeSetup p v s).map.h := by
  unfold writeSetup
  dsimp only
  split
  · exact (stallExpiry_plain (s.withStore { s.store with setup := s.setup.put p (p.stored v) })).horizon
  · split <;> exact le_rfl

theorem stopRun_horizon (s : State) : s.map.h ≤ (stopRun s).1.map.h := by
  have lanes := (stopLanes_inner s).horizon
  unfold stopRun
  dsimp only
  refine le_trans ?_ (planningAttempt_inner _).horizon
  simp only [State.withTrunk_map, State.withMap_map]
  omega

/-- A request answered, and the take, leave H at or above what it was before. -/
theorem horizon_of_respond {tag kind : Byte} {args body : List Byte} {st : Status} {s u t : State}
    (h : s.map.h ≤ u.map.h) (ht : respond tag kind args st body u = .next t) : s.map.h ≤ t.map.h := by
  rw [next_of_done ht, (arbiter_afterTake _).blocks.map]
  exact h.trans (answer_horizon _ _ _ _)

theorem setupWrite_horizon {tag : Byte} {args : List Byte} {s t : State} (ht : execSetupWrite tag args s = .next t) :
    s.map.h ≤ t.map.h := by
  unfold execSetupWrite at ht
  split at ht
  · split at ht
    · exact horizon_of_respond le_rfl ht
    · split at ht
      · split at ht
        · exact horizon_of_respond le_rfl ht
        · exact horizon_of_respond (writeSetup_horizon _ _ s) ht
      · exact horizon_of_respond le_rfl ht
  · exact horizon_of_respond le_rfl ht

theorem outputSet_horizon {tag : Byte} {args : List Byte} {s t : State} (ht : execOutputSet tag args s = .next t) :
    s.map.h ≤ t.map.h := by
  unfold execOutputSet at ht
  split at ht
  · refine horizon_of_respond ?_ ht
    exact le_refl s.map.h
  · exact horizon_of_respond le_rfl ht

theorem outputOwner_horizon {tag : Byte} {args : List Byte} {s t : State} (ht : execOutputOwner tag args s = .next t) :
    s.map.h ≤ t.map.h := by
  unfold execOutputOwner at ht
  split at ht
  · refine horizon_of_respond ?_ ht
    exact le_refl s.map.h
  · exact horizon_of_respond le_rfl ht

theorem runStop_horizon {tag : Byte} {args : List Byte} {s t : State} (ht : execRunStop tag args s = .next t) :
    s.map.h ≤ t.map.h := by
  unfold execRunStop at ht
  split at ht
  · exact horizon_of_respond (stopRun_horizon s) ht
  · exact horizon_of_respond le_rfl ht

theorem trunkLinkDown_horizon {s t : State} (ht : execTrunkLinkDown s = .next t) : s.map.h ≤ t.map.h := by
  rw [next_of_done ht, (arbiter_afterTake _).blocks.map]
  unfold trunkDown
  split <;> exact le_rfl

theorem trunkSendDone_horizon {s t : State} (ht : execTrunkSendDone s = .next t) : s.map.h ≤ t.map.h := by
  rw [next_of_done ht, (arbiter_afterTake _).blocks.map]
  exact le_rfl

/-- Every command but the resets and RUN_START leaves H at or above what it was. -/
theorem exec_horizon {c : Instr} {s t : State} (hl : LinesOk s) (ht : exec c s = .next t)
    (hpow : ∀ lv, c ≠ .powerOnReset lv) (hsoft : ∀ tag args, c ≠ .partReset tag args)
    (hrun : ∀ tag args, c ≠ .runStart tag args) : s.map.h ≤ t.map.h := by
  have plain : (∃ u, exec c s = done u ∧ Plain s u) → s.map.h ≤ t.map.h := by
    rintro ⟨u, hu, k⟩
    rw [next_of_done (hu.symm.trans ht), (arbiter_afterTake u).blocks.map]
    exact k.horizon
  have others := exec_plain c s hl hpow hsoft
  cases c with
  | setupWrite tag args => exact setupWrite_horizon ht
  | outputSet tag args => exact outputSet_horizon ht
  | outputOwner tag args => exact outputOwner_horizon ht
  | runStop tag args => exact runStop_horizon ht
  | trunkLinkDown => exact trunkLinkDown_horizon ht
  | trunkSendDone => exact trunkSendDone_horizon ht
  | runStart tag args => exact absurd rfl (hrun tag args)
  | _ => exact plain (others nofun nofun nofun nofun nofun nofun nofun)

/-- Settles O58: P by `PosKeeps` but at an increment, H by the commands' `Plain`. -/
theorem positionAndHorizonNeverFall : Obligations.PositionAndHorizonNeverFall := by
  unfold Obligations.PositionAndHorizonNeverFall
  intro c s t hl ht hpow hsoft
  refine ⟨?_, exec_horizon hl ht hpow hsoft⟩
  by_cases henc : ∃ a b, c = .encoderIncrement a b
  · obtain ⟨a, b, rfl⟩ := henc
    rw [next_of_done ht, (arbiter_afterTake _).blocks.pos]
    exact (encoderChange_p a b s).imp id fun h => ⟨h, a, b, rfl⟩
  · obtain ⟨u, hu, k⟩ := exec_posKeeps c s hl (fun a b e => henc ⟨a, b, e⟩) hpow hsoft
    rw [next_of_done (hu.symm.trans ht), (arbiter_afterTake u).blocks.pos]
    exact .inl k.p

end Sys2Proof.Machine
end

section
/-! The encoder's increments that keep P, the stall report and the trigger lookup (R2 to R5, R10). -/

namespace Sys2Proof.Machine

/-! ### The increment that a change of the pair is (R2) -/

theorem encoderChange_eq (a b : Bool) (s : State) : encoderChange a b s =
    match incrementOf s.pos.encA s.pos.encB a b with
    | .forward => forwardIncrement (takePair a b s)
    | .reverse => reverseIncrement (takePair a b s)
    | .neither => takePair a b s := rfl

theorem incrementOf_pairAfter : ∀ x y : Bool, incrementOf x y (pairAfter (x, y)).1 (pairAfter (x, y)).2 = .forward := by
  decide

theorem incrementOf_pairBefore :
    ∀ x y : Bool, incrementOf (pairAfter (x, y)).1 (pairAfter (x, y)).2 x y = .reverse := by
  decide

theorem incrementOf_both : ∀ x y : Bool, incrementOf x y (!x) (!y) = .neither := by decide

theorem encoderChange_forward {a b : Bool} {s : State} (h : isForward s a b) :
    encoderChange a b s = forwardIncrement (takePair a b s) := by
  have hi : incrementOf s.pos.encA s.pos.encB a b = .forward := by
    obtain ⟨rfl, rfl⟩ := Prod.ext_iff.1 h
    exact incrementOf_pairAfter _ _
  rw [encoderChange_eq, hi]

theorem encoderChange_reverse {a b : Bool} {s : State} (h : isReverse s a b) :
    encoderChange a b s = reverseIncrement (takePair a b s) := by
  have hi : incrementOf s.pos.encA s.pos.encB a b = .reverse := by
    obtain ⟨ha, hb⟩ := Prod.ext_iff.1 h
    rw [show s.pos.encA = _ from ha, show s.pos.encB = _ from hb]
    exact incrementOf_pairBefore a b
  rw [encoderChange_eq, hi]

theorem encoderChange_both {a b : Bool} {s : State} (ha : a ≠ s.pos.encA) (hb : b ≠ s.pos.encB) :
    encoderChange a b s = takePair a b s := by
  rw [encoderChange_eq, Bool.eq_not.2 ha, Bool.eq_not.2 hb, incrementOf_both]

/-! ### The branches of an increment (R3, R4) -/

theorem forwardIncrement_debt {s : State} (h : 0 < s.pos.debt) : forwardIncrement s = s.withPos { s.pos with
    debt := s.pos.debt - 1
    excursion := if s.pos.debt = 1 then none else s.pos.excursion
    reverseArmed := if s.pos.debt = 1 then true else s.pos.reverseArmed } := by
  unfold forwardIncrement
  rw [if_neg (by omega)]
  by_cases h1 : s.pos.debt = 1
  · rw [if_pos h1, if_pos h1, if_pos h1, h1]
  · rw [if_neg h1, if_neg h1, if_neg h1]

theorem forwardIncrement_top {s : State} (hd : s.pos.debt = 0) (hp : s.pos.p = 2 ^ 48 - 1) : forwardIncrement s = s := by
  unfold forwardIncrement
  rw [if_pos hd, if_neg (by rw [hp]; decide)]

theorem forwardIncrement_advance {s : State} (hd : s.pos.debt = 0) (hp : s.pos.p < 2 ^ 48 - 1) :
    forwardIncrement s = advanceP s := by
  unfold forwardIncrement
  rw [if_pos hd]
  exact if_pos hp

theorem reverseIncrement_first {s : State} (h : s.pos.debt = 0) :
    reverseIncrement s = s.withPos { s.pos with debt := 1, excursion := some s.pos.p } := by
  unfold reverseIncrement
  rw [if_pos h]

theorem reverseIncrement_more {s : State} (h : 1 ≤ s.pos.debt) (h' : s.pos.debt ≤ 254) :
    reverseIncrement s = s.withPos { s.pos with debt := s.pos.debt + 1 } := by
  unfold reverseIncrement
  rw [if_neg (by omega), if_pos (by omega)]

theorem reverseIncrement_disarmed {s : State} (h : s.pos.debt = 255) (ha : s.pos.reverseArmed = false) :
    reverseIncrement s = s := by
  unfold reverseIncrement
  rw [if_neg (by omega), if_neg (by omega), if_neg (by simp [ha])]

theorem reverseIncrement_report {s : State} {x : Nat} (h : s.pos.debt = 255) (ha : s.pos.reverseArmed = true)
    (hx : s.pos.excursion = some x) :
    reverseIncrement s =
      raise .encoderReverse none (x % 2 ^ 32) 0 (s.withPos { s.pos with reverseArmed := false }) := by
  unfold reverseIncrement
  rw [if_neg (by omega), if_neg (by omega), if_pos ha, hx]
  rfl

/-- What an ENCODER_INCREMENT comes to, but for the arbiter's take. -/
theorem encoderIncrement_takes {a b : Bool} {s u : State} (h : encoderChange a b s = u) :
    ∃ t, exec (.encoderIncrement a b) s = .next t ∧ AfterTake u t := h ▸ done_afterTake _

/-- Settles O4, branch by branch of an increment. -/
theorem incrementsThatKeepP : Obligations.IncrementsThatKeepP := by
  unfold Obligations.IncrementsThatKeepP
  refine ⟨fun s a b hf hd => ?_, ⟨fun s a b hr => ⟨fun hd => ?_, fun hd hd' => ?_, fun hd ha => ?_⟩,
    fun s a b x hr hd ha hx hroom => ?_⟩, fun s a b => ⟨fun ha hb => ?_, fun hf hd hp => ?_⟩⟩
  · exact encoderIncrement_takes ((encoderChange_forward hf).trans (forwardIncrement_debt hd))
  · exact encoderIncrement_takes ((encoderChange_reverse hr).trans (reverseIncrement_first hd))
  · exact encoderIncrement_takes ((encoderChange_reverse hr).trans (reverseIncrement_more hd hd'))
  · exact encoderIncrement_takes ((encoderChange_reverse hr).trans (reverseIncrement_disarmed hd ha))
  · obtain ⟨t, ht, take⟩ :=
      encoderIncrement_takes ((encoderChange_reverse hr).trans (reverseIncrement_report (s := takePair a b s) hd ha hx))
    exact ⟨_, t, ht, raise_room _ _ _ _ hroom, take⟩
  · exact encoderIncrement_takes (encoderChange_both ha hb)
  · exact encoderIncrement_takes ((encoderChange_forward hf).trans (forwardIncrement_top hd hp))

/-! ### The stall report (R5) -/

theorem stallDue_iff (s : State) :
    stallDue s = true ↔ s.pos.stallArmed = true ∧ s.setup.stallMs ≤ s.pos.stallTimer := by
  unfold stallDue
  rw [Bool.and_eq_true, decide_eq_true_iff]

theorem stallExpiry_due {s : State} (h : stallDue s = true) : stallExpiry s =
    raise .ribbonStalled none s.setup.stallMs s.pos.debt (s.withPos { s.pos with stallArmed := false }) := if_pos h

theorem stallExpiry_not_due {s : State} (h : ¬stallDue s = true) : stallExpiry s = s := if_neg h

/-- Settles O7: the two sides of `stallDue`. -/
theorem stallReportWhenDue : Obligations.StallReportWhenDue := by
  unfold Obligations.StallReportWhenDue
  intro s
  constructor
  · intro armed due room
    have h : exec .stallTimerExpiry s = done (raise .ribbonStalled none s.setup.stallMs s.pos.debt
        (s.withPos { s.pos with stallArmed := false })) :=
      congrArg done (stallExpiry_due ((stallDue_iff s).2 ⟨armed, due⟩))
    exact ⟨_, _, h, raise_room _ _ _ _ room, arbiter_afterTake _⟩
  · intro late
    have not_due : ¬stallDue s = true := by
      rw [stallDue_iff]
      rintro ⟨armed, due⟩
      rcases late with disarmed | early
      · rw [armed] at disarmed; cases disarmed
      · omega
    exact ⟨_, congrArg done (stallExpiry_not_due not_due), arbiter_afterTake _⟩

/-! ### The trigger lookup (R10) -/

/-- The number of triggers since one, as the lookup forms it, is the difference modulo 65536. -/
theorem lookupAge_eq {n t : Nat} (ht : t < 65536) :
    (((n + 65536 - t % 65536) % 65536 : Nat) : Int) = ((n : Int) - t) % 65536 := by
  omega

/-- The lookup's three conditions (R10). -/
theorem lookupTrigger_eq_some {s : State} {t x : Nat} (ht : t < 65536) :
    lookupTrigger t s = some x ↔ s.pos.triggerSeen = true ∧ ((s.pos.trigger : Int) - t) % 65536 < 256 ∧
      s.pos.history.getD (t % 256) none = some ⟨t, x⟩ := by
  have age := lookupAge_eq (n := s.pos.trigger) ht
  unfold lookupTrigger Config.historySlots
  by_cases hs : s.pos.triggerSeen = true
  · by_cases ha : (s.pos.trigger + 65536 - t % 65536) % 65536 < 256
    · rw [if_pos (by simpa [hs] using ha), ← age]
      have ha' : (((s.pos.trigger + 65536 - t % 65536) % 65536 : Nat) : Int) < 256 := by omega
      simp only [hs, ha', true_and]
      cases hh : s.pos.history.getD (t % 256) none with
      | none => simp
      | some y =>
        obtain ⟨n, p⟩ := y
        by_cases hn : n = t <;> simp [hn]
    · rw [if_neg (by simpa [hs] using ha), ← age]
      simp only [reduceCtorEq, false_iff]
      omega
  · rw [if_neg (by simp [hs])]
    simp [hs]

/-- Settles O6: each way of being stale fails one of the three conditions. -/
theorem triggerLookup : Obligations.TriggerLookup := by
  unfold Obligations.TriggerLookup
  intro s t latest ht
  have found := fun x => lookupTrigger_eq_some (s := s) (x := x) ht
  have stale : ∀ {c : Prop}, (∀ x, lookupTrigger t s = some x → c) → ¬c → lookupTrigger t s = none := fun h hc =>
    Option.eq_none_iff_forall_ne_some.2 fun x hx => hc (h x hx)
  refine ⟨found, fun unseen => ?_, fun far => ?_, fun ahead near => ?_, fun slot => ?_⟩
  · exact stale (fun x hx => ((found x).1 hx).1) (by simp [unseen])
  · exact stale (fun x hx => ((found x).1 hx).2.1) (by omega)
  · have behind : 65281 ≤ ((s.pos.trigger : Int) - t) % 65536 := by omega
    exact ⟨behind, stale (fun x hx => ((found x).1 hx).2.1) (by omega)⟩
  · exact Option.eq_none_iff_forall_ne_some.2 fun x hx => slot x ((found x).1 hx).2.2

end Sys2Proof.Machine
end

section
/-! The schedule: where an entry is placed, what an advance of P takes out, and the course of an advance (R12 to R14). -/

namespace Sys2Proof.Machine

/-! ### Entries taken out of a schedule in order -/

/-- What is due and what is not, one after the other, are a schedule in order as it was. -/
theorem filter_due_append {es : List Entry} (h : schedSorted es) (p : Nat) :
    (es.filter fun e => decide (e.fire ≤ p)) ++ (es.filter fun e => decide (p < e.fire)) = es := by
  induction es with
  | nil => rfl
  | cons x xs ih =>
    obtain ⟨hx, hxs⟩ := List.pairwise_cons.1 h
    by_cases hp : x.fire ≤ p
    · rw [List.filter_cons_of_pos (by simpa using hp), List.filter_cons_of_neg (by simpa using hp), List.cons_append,
        ih hxs]
    · have later : ∀ e ∈ x :: xs, p < e.fire := by
        intro e he
        rcases List.mem_cons.1 he with rfl | he
        · omega
        · have := hx e he; omega
      rw [List.filter_eq_nil_iff.2 fun e he => by have := later e he; simp; omega,
        List.filter_eq_self.2 fun e he => by simpa using later e he, List.nil_append]

/-! ### The lanes considered for H (R81) -/

theorem tableHorizon_isSome (s : State) (i : LaneId) :
    (tableHorizon s i).isSome = true ↔ (s.rx i).state = .running ∨ (s.rx i).state = .waiting := by
  unfold tableHorizon State.rx
  dsimp only
  cases (s.lane i).rx.state <;> simp

theorem laneHorizon_isSome (s : State) (i : LaneId) :
    (laneHorizon s i).isSome = true ↔ (s.rx i).state = .running ∨ (s.rx i).state = .waiting := by
  unfold laneHorizon
  rw [Option.isSome_map, tableHorizon_isSome]

/-- The least of some numbers is there exactly when one of them is. -/
theorem foldl_min_isSome (hs : List Nat) (m : Option Nat) :
    (hs.foldl (fun m h => some (match m with | some v => min v h | none => h)) m).isSome = true ↔
      m.isSome = true ∨ hs ≠ [] := by
  induction hs generalizing m with
  | nil => simp
  | cons h hs ih => rw [List.foldl_cons, ih]; simp

/-- A lane is considered exactly when it is RUNNING or WAITING (R81). -/
theorem anyConsidered_iff (s : State) :
    anyConsidered s = true ↔ ∃ i, (s.rx i).state = .running ∨ (s.rx i).state = .waiting := by
  have every : ∀ i : LaneId, i ∈ laneIds := by decide
  unfold anyConsidered lowestHorizon
  refine (foldl_min_isSome _ none).trans ?_
  simp only [Option.isSome_none, Bool.false_eq_true, false_or, ne_eq, List.filterMap_eq_nil_iff, not_forall]
  constructor
  · rintro ⟨i, -, hi⟩
    exact ⟨i, (laneHorizon_isSome s i).1 (Option.isSome_iff_ne_none.2 hi)⟩
  · rintro ⟨i, hi⟩
    exact ⟨i, every i, Option.isSome_iff_ne_none.1 ((laneHorizon_isSome s i).2 hi)⟩

/-! ### The course of an advance -/

theorem waitReached_iff (s : State) : waitReached s = true ↔ ∃ w, s.grader.wait = some w ∧ w.fire = s.pos.p := by
  unfold waitReached
  cases s.grader.wait <;> simp

theorem handFiring_nil (n : Nat) {s : State} (h : s.pos.firing = []) : handFiring n s = s := by
  cases n with
  | zero => rfl
  | succ n => unfold handFiring; rw [h]

theorem handFiring_cons (n : Nat) {s : State} {e : Entry} {rest : List Entry} (h : s.pos.firing = e :: rest) :
    handFiring (n + 1) s = handFiring n (handEntry e (s.withPos { s.pos with firing := rest })) := by
  rw [handFiring, h]

/-- With entries due, the retry and one attempt follow the last of them. -/
theorem fireSchedule_some {s : State} (h : (takeFiring s).pos.firing ≠ []) : fireSchedule s =
    planningAttempt (retryDivert (handFiring (takeFiring s).pos.firing.length (takeFiring s))) := by
  unfold fireSchedule
  exact if_neg fun h0 => h (List.eq_nil_of_length_eq_zero h0)

/-- With none due, the retry alone follows, where the divert wait's fire position is P. -/
theorem fireSchedule_none {s : State} (h : (takeFiring s).pos.firing = []) :
    fireSchedule s = if waitReached (takeFiring s) then retryDivert (takeFiring s) else takeFiring s := by
  unfold fireSchedule
  dsimp only
  rw [handFiring_nil _ h]
  exact if_pos (congrArg List.length h)

theorem advanceP_considered {s : State} (h : ∃ i, ((fireSchedule (advancePhase (moveP s))).rx i).state = .running ∨
    ((fireSchedule (advancePhase (moveP s))).rx i).state = .waiting) :
    advanceP s = fireSchedule (advancePhase (moveP s)) := if_pos ((anyConsidered_iff _).2 h)

theorem advanceP_not_considered {s : State} (h : ¬∃ i, ((fireSchedule (advancePhase (moveP s))).rx i).state = .running ∨
    ((fireSchedule (advancePhase (moveP s))).rx i).state = .waiting) :
    advanceP s = recomputeH (fireSchedule (advancePhase (moveP s))) := if_neg ((anyConsidered_iff _).not.2 h)

/-! ### The parts of the statement -/

/-- An entry at or below P is handed at once; above P it is placed by its fire position, or refused for room. -/
theorem insertEntry_placed {e : Entry} {s : State} {most : Nat} (hs : ScheduleOk s)
    (hm : ∀ n, roomFor e.kind n = decide (n ≤ most)) :
    (e.fire ≤ s.pos.p → insertEntry e s = .atOnce) ∧
    (s.pos.p < e.fire → s.pos.schedule.length ≤ most → ∃ pre post, s.pos.schedule = pre ++ post ∧
      (∀ x ∈ pre, x.fire ≤ e.fire) ∧ (∀ x ∈ post, e.fire < x.fire) ∧
      insertEntry e s = .held (s.withPos { s.pos with schedule := pre ++ e :: post })) ∧
    (s.pos.p < e.fire → most < s.pos.schedule.length → insertEntry e s = .refused) := by
  refine ⟨fun h => if_pos h, fun h room => ?_, fun h full => ?_⟩
  · obtain ⟨pre, post, hsplit, hpre, hpost, hplace⟩ := placeEntry_split (e := e) hs.sorted
    exact ⟨pre, post, hsplit, hpre, hpost, hplace ▸ insertEntry_room h (by rw [hm]; exact decide_eq_true room)⟩
  · unfold insertEntry
    rw [if_neg (by omega), if_neg]
    rw [hm]
    simpa using full

/-- What an advance by one takes out of a lawful schedule, and what stays. -/
theorem takeFiring_advanced {s : State} (hs : ScheduleOk s) :
    let u := takeFiring (s.withPos { s.pos with p := s.pos.p + 1 })
    u.pos.firing ++ u.pos.schedule = s.pos.schedule ∧ (∀ e ∈ u.pos.firing, e.fire = s.pos.p + 1) ∧
      ∀ e ∈ u.pos.schedule, s.pos.p + 1 < e.fire := by
  intro u
  have firing : u.pos.firing = s.pos.schedule.filter fun e => decide (e.fire ≤ s.pos.p + 1) := by
    show s.pos.firing ++ _ = _
    rw [hs.handed, List.nil_append]
    rfl
  refine ⟨by rw [firing]; exact filter_due_append hs.sorted _, fun e he => ?_, takeFiring_above _⟩
  rw [firing] at he
  obtain ⟨hmem, hdue⟩ := List.mem_filter.1 he
  have := hs.above e hmem
  have := of_decide_eq_true hdue
  omega

/-- The course of an advance at a forward increment (log entry 4). -/
theorem encoderIncrement_advance {s : State} {a b : Bool} (hf : isForward s a b) (hd : s.pos.debt = 0)
    (hp : s.pos.p < 2 ^ 48 - 1) :
    ∃ t, exec (.encoderIncrement a b) s = .next t ∧ AfterTake (advanceP (takePair a b s)) t :=
  encoderIncrement_takes ((encoderChange_forward hf).trans (forwardIncrement_advance hd hp))

/-- Settles O8: insertion, what falls due, the firing list and the course of an advance, part by part. -/
theorem scheduleOrderAndFiring : Obligations.ScheduleOrderAndFiring := by
  unfold Obligations.ScheduleOrderAndFiring
  refine ⟨fun s e hs => ?_, fun s hs => takeFiring_advanced hs, fun n u => ⟨handFiring_nil n,
    fun h => (handFiring_inner n u h).2, fun e rest h => ?_⟩, ?_⟩
  · refine insertEntry_placed hs fun n => ?_
    unfold roomFor
    cases e.kind <;> rfl
  · rw [handFiring_cons n h]
    unfold handEntry
    cases e.kind <;> rfl
  · intro s a b hf hd hp moved taken handed considered reached
    obtain ⟨hpos, -, -, -, hsched, hfiring⟩ := advancePhase_keeps moved
    have reached_iff : waitReached taken = true ↔ reached taken := by
      rw [waitReached_iff, show taken.pos.p = s.pos.p + 1 from hpos]
    obtain ⟨t, ht, take⟩ := encoderIncrement_advance hf hd hp
    refine ⟨?_, ?_, fireSchedule (advancePhase moved), t, ht, fun some_due => fireSchedule_some some_due,
      fun none_due hr => ?_, fun none_due hr => ?_, fun hc => ?_, fun hc => ?_⟩
    · show (advancePhase moved).pos.firing ++ (advancePhase moved).pos.schedule.filter _ = _
      rw [hfiring, hsched, hpos]
      rfl
    · show (advancePhase moved).pos.schedule.filter _ = _
      rw [hsched, hpos]
      rfl
    · rw [fireSchedule_none none_due]
      exact if_pos (reached_iff.2 hr)
    · rw [fireSchedule_none none_due]
      exact if_neg (reached_iff.not.2 hr)
    · exact advanceP_considered (s := takePair a b s) hc ▸ take
    · exact advanceP_not_considered (s := takePair a b s) hc ▸ take

end Sys2Proof.Machine
end

section
/-! Entry to STANDBY (R16, R73, R112, R132, R174). -/

namespace Sys2Proof.Machine

/-! ### An abandoned cut (R112) -/

/-- The boundary of an abandoned cut MISSED, and the cut counted as missed (R112). -/
def missAbandoned (n : Nat) (s : State) : State :=
  (changeBoundary n (.statusOnly .missed) s).count fun r => { r with cutsMissed := bump32 r.cutsMissed }

theorem missAbandoned_eq (n : Nat) (s : State) : missAbandoned n s =
    (changeBoundary n (.statusOnly .missed) s).withReport { s.report with current :=
      { s.report.current with cutsMissed := bump32 s.report.current.cutsMissed } } := by
  unfold missAbandoned
  rw [changeBoundary_form]
  rfl

theorem missAbandoned_frame (n : Nat) (s : State) : NoticeFrame s (missAbandoned n s) := by
  rw [missAbandoned_eq, changeBoundary_form]
  rfl

theorem abandonCut_frame (n : Option Nat) (s : State) : NoticeFrame s (abandonCut n s) := by
  cases n with
  | none => exact NoticeFrame.refl s
  | some n => exact (missAbandoned_frame n s).trans (raise_frame _ _ _ _ _)

/-! ### The banks at entry to STANDBY (R132, R136) -/

theorem banksAtStandby_frame (s : State) : BankFrame s (banksAtStandby s) :=
  ((switchDetect_frame none s).trans (switchGrade_frame _)).trans rfl

/-- A switch leaves no bank of a lawful group COMMITTING: the one that was becomes ACTIVE, and beside it stands the old
ACTIVE bank, or, with none ACTIVE, a bank that was not COMMITTING. -/
theorem switch_ne_committing {α : Type} {g : Group α} {new : BankId} (hg : g.Ok) (hn : g.find .committing = some new)
    (bound : Bool) (b : BankId) : ((g.switch new g.active bound).get b).state ≠ .committing := by
  unfold Group.switch
  dsimp only
  rw [setState_get]
  split
  · exact nofun
  · next hb =>
    cases ha : g.active with
    | some old =>
      have hold : b = old := bank_eq_of_ne hb (find_ne (by decide) ha hn)
      dsimp only
      rw [setState_get, if_pos hold]
      split <;> exact nofun
    | none =>
      intro hc
      have inactive := find_none ha
      have only0 : ∀ c : BankId, (g.get c).state = .committing → c = 0 := by
        intro c hcc
        by_contra hc0
        obtain rfl : c = 1 := bank_eq_of_ne hc0 (by decide)
        exact inactive 0 (hg.shadowCommits hcc)
      exact hb ((only0 b hc).trans (only0 new (find_state hn)).symm)

theorem switchDetect_ne_committing {s : State} (t : Option Nat) (h : s.store.detect.Ok) (b : BankId) :
    ((switchDetect t s).store.detect.get b).state ≠ .committing := by
  unfold switchDetect
  split
  · next hn => exact find_none hn b
  · next new hn =>
    split
    · next ha => exact ha ▸ switch_ne_committing h hn false b
    · next old ha =>
      dsimp only [State.withStore_store]
      rw [giveLineBindings_store, ← ha]
      exact switch_ne_committing h hn _ b

@[simp] theorem switchDetect_grade (t : Option Nat) (s : State) : (switchDetect t s).store.grade = s.store.grade := by
  unfold switchDetect
  split
  · rfl
  · split
    · rfl
    · next old _ =>
      show (giveLineBindings old s).store.grade = s.store.grade
      rw [giveLineBindings_store]

@[simp] theorem switchGrade_detect (s : State) : (switchGrade s).store.detect = s.store.detect := by
  unfold switchGrade
  split
  · rfl
  · split <;> rfl

theorem switchGrade_ne_committing {s : State} (h : s.store.grade.Ok) (b : BankId) :
    ((switchGrade s).store.grade.get b).state ≠ .committing := by
  unfold switchGrade
  split
  · next hn => exact find_none hn b
  · next new hn =>
    split
    · next ha => exact ha ▸ switch_ne_committing h hn false b
    · next old ha => exact ha ▸ switch_ne_committing h hn _ b

theorem toLoaded_get {α : Type} (g : Group α) (st : BankState) (b : BankId) :
    ((g.toLoaded st).get b).state = if (g.get b).state = st then .loaded else (g.get b).state := by
  have one : ∀ x : Bank α, (if x.state == st then { x with state := .loaded } else x).state =
      if x.state = st then .loaded else x.state := by
    intro x
    simp only [beq_iff_eq]
    split <;> rfl
  fin_cases b <;> exact one _

/-- With no bank COMMITTING, what becomes LOADED leaves none RETIRING and none COMMITTING. -/
theorem toLoaded_settled {α : Type} {g : Group α} (h : ∀ b, (g.get b).state ≠ .committing) (b : BankId) :
    ((g.toLoaded .retiring).get b).state ≠ .committing ∧ ((g.toLoaded .retiring).get b).state ≠ .retiring := by
  rw [toLoaded_get]
  split
  · exact ⟨nofun, nofun⟩
  · next hr => exact ⟨h b, hr⟩

/-- The banks settled (R132, R136). -/
theorem banksAtStandby_settled {s : State} (hd : s.store.detect.Ok) (hg : s.store.grade.Ok) (b : BankId) :
    ((banksAtStandby s).store.detect.get b).state ≠ .committing ∧
      ((banksAtStandby s).store.detect.get b).state ≠ .retiring ∧
      ((banksAtStandby s).store.grade.get b).state ≠ .committing ∧
      ((banksAtStandby s).store.grade.get b).state ≠ .retiring := by
  have detect : ∀ b, ((switchGrade (switchDetect none s)).store.detect.get b).state ≠ .committing := by
    intro b
    rw [switchGrade_detect]
    exact switchDetect_ne_committing none hd b
  have grade := switchGrade_ne_committing (s := switchDetect none s) (by rw [switchDetect_grade]; exact hg)
  exact ⟨(toLoaded_settled detect b).1, (toLoaded_settled detect b).2, toLoaded_settled grade b⟩

theorem banksAtStandby_lineBinding (s : State) (i : LaneId) : ((banksAtStandby s).rx i).lineBinding = none := by
  let lanes := (switchGrade (switchDetect none s)).lanes
  show ((lanes.map fun l : Lane => { l with rx := { l.rx with lineBinding := none } }).get i).rx.lineBinding = none
  rw [PerLane.get_map]

/-! ### The entry -/

/-- The run state STANDBY, the schedule and the firing list empty, no cut outstanding or pending (R16, R112, R174). -/
def standbyBase (s : State) : State :=
  ((s.withTrunk { s.trunk with run := .standby }).withPos { s.pos with schedule := [], firing := [] }).withCutter
    { s.cutter with outstanding := none, pendingCut := none }

/-- The cuts that stood at the entry abandoned, the outstanding one first. -/
def abandonBoth (s : State) : State :=
  abandonCut (s.cutter.pendingCut.map PendingCut.plate)
    (abandonCut (s.cutter.outstanding.map Outstanding.plate) (standbyBase s))

theorem enterStandby_eq (s : State) : enterStandby s = setWait .none (banksAtStandby (emptyMap (abandonBoth s))) := rfl

theorem abandonBoth_frame (s : State) : NoticeFrame (standbyBase s) (abandonBoth s) :=
  (abandonCut_frame _ _).trans (abandonCut_frame _ _)

/-- What follows the abandoned cuts changes the map, the lanes, the banks and the wait state alone. -/
theorem enterStandby_rest (s : State) : enterStandby s =
    ((((abandonBoth s).withMap (enterStandby s).map).withLanes (enterStandby s).lanes).withStore
      (enterStandby s).store).withPlan { (abandonBoth s).plan with wait := .none } := by
  have banks : banksAtStandby (emptyMap (abandonBoth s)) = _ := banksAtStandby_frame (emptyMap (abandonBoth s))
  rw [enterStandby_eq, banks]
  rfl

/-- The blocks after the entry, from the state with the cuts abandoned. -/
theorem enterStandby_blocks (s : State) : (enterStandby s).cond = (abandonBoth s).cond ∧
    (enterStandby s).report = (abandonBoth s).report ∧ (enterStandby s).trunk = (abandonBoth s).trunk ∧
    (enterStandby s).plan = { (abandonBoth s).plan with wait := .none } ∧
    (enterStandby s).cutter = (standbyBase s).cutter ∧ (enterStandby s).pos = (standbyBase s).pos ∧
    (enterStandby s).pulses = s.pulses ∧ (enterStandby s).grader = s.grader ∧ (enterStandby s).msTime = s.msTime ∧
    (enterStandby s).pending = s.pending := by
  rw [enterStandby_rest, abandonBoth_frame s]
  exact ⟨rfl, rfl, rfl, rfl, rfl, rfl, rfl, rfl, rfl, rfl⟩

/-- The Divert Unit and the output controls are not part of the entry. -/
theorem enterStandby_outside (s : State) :
    (enterStandby s).divert = s.divert ∧ (enterStandby s).outputs = s.outputs := by
  rw [enterStandby_rest, abandonBoth_frame s]
  exact ⟨rfl, rfl⟩

/-- The map is emptied, and H stays (R73). -/
theorem enterStandby_map (s : State) : (enterStandby s).map = { s.map with records := [], mark := none } := by
  have banks : banksAtStandby (emptyMap (abandonBoth s)) = _ := banksAtStandby_frame (emptyMap (abandonBoth s))
  rw [enterStandby_eq, banks, abandonBoth_frame s]
  rfl

theorem enterStandby_store (s : State) :
    (enterStandby s).store = (banksAtStandby (emptyMap (abandonBoth s))).store := by
  rw [enterStandby_eq, setWait, State.withPlan_store]

theorem enterStandby_rx (s : State) (i : LaneId) :
    (enterStandby s).rx i = (banksAtStandby (emptyMap (abandonBoth s))).rx i := by
  unfold State.rx State.lane
  rw [enterStandby_eq, setWait, State.withPlan_lanes]

/-- The banks at the entry are settled as the Table Store stood before it. -/
theorem enterStandby_banks {s : State} (hd : s.store.detect.Ok) (hg : s.store.grade.Ok) (b : BankId) :
    ((enterStandby s).store.detect.get b).state ≠ .committing ∧
      ((enterStandby s).store.detect.get b).state ≠ .retiring ∧
      ((enterStandby s).store.grade.get b).state ≠ .committing ∧
      ((enterStandby s).store.grade.get b).state ≠ .retiring := by
  have store : (emptyMap (abandonBoth s)).store = s.store := by rw [abandonBoth_frame s]; rfl
  rw [enterStandby_store]
  apply banksAtStandby_settled
  · rw [store]; exact hd
  · rw [store]; exact hg

/-- T_sw is absent and no lane holds a line binding (R132). -/
theorem enterStandby_unbound (s : State) :
    (enterStandby s).store.tSw = none ∧ ∀ i, ((enterStandby s).rx i).lineBinding = none := by
  rw [enterStandby_store]
  exact ⟨rfl, fun i => by rw [enterStandby_rx]; exact banksAtStandby_lineBinding _ i⟩

/-- One start cut abandoned: its boundary MISSED and counted, and the raise that follows. -/
theorem abandonBoth_start {s : State}
    (h : (s.cutter.outstanding.map Outstanding.plate = some 0 ∧ s.cutter.pendingCut = none) ∨
      (s.cutter.outstanding = none ∧ s.cutter.pendingCut.map PendingCut.plate = some 0)) :
    abandonBoth s = raise .cutMissed none 0 4 (missAbandoned 0 (standbyBase s)) := by
  unfold abandonBoth
  rcases h with ⟨ho, hp⟩ | ⟨ho, hp⟩
  · rw [ho, hp]; rfl
  · rw [ho, hp]; rfl

/-- Settles O9: the blocks after the entry, and the raise of an abandoned start cut. -/
theorem entryToStandby : Obligations.EntryToStandby := by
  unfold Obligations.EntryToStandby
  refine ⟨fun s _ hd hg => ?_, fun s => ?_⟩
  · obtain ⟨-, -, htrunk, hplan, hcutter, hpos, -, -, -, -⟩ := enterStandby_blocks s
    obtain ⟨hdivert, houtputs⟩ := enterStandby_outside s
    obtain ⟨htSw, hbindings⟩ := enterStandby_unbound s
    have hmap := enterStandby_map s
    have trunk : (enterStandby s).trunk.run = .standby ∧ (enterStandby s).trunk.stopEnd = s.trunk.stopEnd := by
      rw [htrunk, abandonBoth_frame s]; exact ⟨rfl, rfl⟩
    dsimp only
    rw [hpos, hcutter, hmap, hplan]
    exact ⟨trunk.1, rfl, rfl, rfl, rfl, rfl, rfl, rfl, enterStandby_banks hd hg, htSw, hbindings, rfl,
      trunk.2, rfl, rfl, hdivert, houtputs⟩
  · intro t base missed ended
    have hbase : base = standbyBase s := rfl
    have hmissed : missed = missAbandoned 0 (standbyBase s) := (missAbandoned_eq 0 (standbyBase s)).symm
    have settled : ended (abandonBoth s) := enterStandby_blocks s
    refine ⟨fun ho hp => ?_, fun hcut room => ⟨abandonBoth s, ?_, settled⟩⟩
    · have none_stood : abandonBoth s = standbyBase s := by
        unfold abandonBoth
        rw [ho, hp]
        rfl
      rw [hbase, ← none_stood]
      exact settled
    · rw [hmissed, abandonBoth_start hcut]
      refine raise_room _ _ _ _ ?_
      rw [missAbandoned_eq, changeBoundary_form]
      exact room

end Sys2Proof.Machine
end

section
/-! A forward increment, and the switch of the DETECT banks that its trigger takes (R3, R5, R7 to R9, R137 to R141). -/

namespace Sys2Proof.Machine

/-! ### What an advance leaves of the state in which its trigger phase ends -/

/-- The Position Unit but for its schedule and firing list. -/
def PositionUnit.counters (x : PositionUnit) : PositionUnit := { x with schedule := [], firing := [] }

/-- `t` has the counters of `s`, its setup, its outputs, its clock and its requests. -/
structure SameCounters (s t : State) : Prop where
  pos : t.pos.counters = s.pos.counters
  trig : t.pulses.trig = s.pulses.trig
  setup : t.setup = s.setup
  outputs : t.outputs = s.outputs
  msTime : t.msTime = s.msTime
  pending : t.pending = s.pending
  requests : t.trunk.requests = s.trunk.requests
  executing : t.trunk.executing = s.trunk.executing

theorem SameCounters.trans {s t u : State} (a : SameCounters s t) (b : SameCounters t u) : SameCounters s u :=
  ⟨b.pos.trans a.pos, b.trig.trans a.trig, b.setup.trans a.setup, b.outputs.trans a.outputs, b.msTime.trans a.msTime,
    b.pending.trans a.pending, b.requests.trans a.requests, b.executing.trans a.executing⟩

theorem Inner.sameCounters {s t : State} (h : Inner s t) : SameCounters s t where
  pos := by
    unfold PositionUnit.counters
    rw [h.p, h.debt, h.excursion, h.reverseArmed, h.encA, h.encB, h.stallTimer, h.stallArmed, h.phase, h.trigger,
      h.triggerSeen, h.history]
  trig := h.trig
  setup := h.setup
  outputs := h.outputs
  msTime := h.msTime
  pending := h.pending
  requests := h.requests
  executing := h.executing

theorem AfterTake.sameCounters {u t : State} (h : AfterTake u t) : SameCounters u t :=
  ⟨congrArg PositionUnit.counters h.blocks.pos, congrArg Pulses.trig h.blocks.pulses,
    congrArg TableStore.setup h.blocks.store, h.blocks.outputs, h.blocks.msTime, h.blocks.pending, h.requests, h.executing⟩

theorem takeFiring_sameCounters (s : State) : SameCounters s (takeFiring s) := ⟨rfl, rfl, rfl, rfl, rfl, rfl, rfl, rfl⟩

/-- The counters of a trigger phase: the pulses, the phase, the latest trigger, trigger seen and the history (R7 to R9). -/
def setTriggers (trig phase trigger : Nat) (seen : Bool) (history : List (Option HistorySlot)) (s : State) : State :=
  (s.withPulses { s.pulses with trig := trig }).withPos { s.pos with
    phase := phase, trigger := trigger, triggerSeen := seen, history := history }

/-- A trigger phase that reaches line_pitch issues a trigger (R7, R8). -/
theorem advancePhase_trigger {s : State} (h : s.setup.linePitch ≤ s.pos.phase + 1) :
    SameCounters (setTriggers (s.pulses.trig + 1) 0 ((s.pos.trigger + 1) % 65536) true
      (writeHistory ((s.pos.trigger + 1) % 65536) s.pos.p s.pos.history) s) (advancePhase s) := by
  have trigger : advancePhase s = issueTrigger s := if_pos h
  rw [trigger]
  exact (issueTrigger_inner s).sameCounters

/-- A trigger phase short of line_pitch counts on (R7). -/
theorem advancePhase_count {s : State} (h : ¬s.setup.linePitch ≤ s.pos.phase + 1) :
    SameCounters (setTriggers s.pulses.trig (s.pos.phase + 1) s.pos.trigger s.pos.triggerSeen s.pos.history s)
      (advancePhase s) := by
  have count : advancePhase s = s.withPos { s.pos with phase := s.pos.phase + 1 } := if_neg h
  rw [count]
  exact ⟨rfl, rfl, rfl, rfl, rfl, rfl, rfl, rfl⟩

/-- What follows the trigger phase in an advance leaves the counters. -/
theorem advanceP_sameCounters (s : State) : SameCounters (advancePhase (moveP s)) (advanceP s) :=
  (takeFiring_sameCounters _).trans (((fireSchedule_inner _).1.trans (advanceP_inner s)).sameCounters)

/-- The state after a forward increment, read off the counters that the trigger phase leaves (R3, R5). -/
theorem advanced_fields {s t : State} {a b seen : Bool} {trig phase trigger : Nat} {history : List (Option HistorySlot)}
    (h : SameCounters (setTriggers trig phase trigger seen history (moveP (takePair a b s)))
      (advancePhase (moveP (takePair a b s)))) (take : AfterTake (advanceP (takePair a b s)) t) :
    (t.pos.p = s.pos.p + 1 ∧ t.pos.encA = a ∧ t.pos.encB = b ∧ t.pos.stallTimer = 0 ∧ t.pos.stallArmed = true) ∧
    (t.pos.phase = phase ∧ t.pulses.trig = trig ∧ t.pos.trigger = trigger ∧ t.pos.triggerSeen = seen ∧
      t.pos.history = history) ∧
    t.pos.debt = s.pos.debt ∧ t.pos.excursion = s.pos.excursion ∧ t.pos.reverseArmed = s.pos.reverseArmed ∧
    t.setup = s.setup ∧ t.outputs = s.outputs ∧ t.msTime = s.msTime ∧ t.pending = s.pending ∧
    t.trunk.requests = s.trunk.requests ∧ t.trunk.executing = s.trunk.executing := by
  obtain ⟨pos, trig, setup, outputs, msTime, pending, requests, executing⟩ :=
    (h.trans (advanceP_sameCounters _)).trans take.sameCounters
  have field : ∀ {α : Type} (f : PositionUnit → α), f t.pos.counters = f _ := fun f => congrArg f pos
  exact ⟨⟨field PositionUnit.p, field PositionUnit.encA, field PositionUnit.encB, field PositionUnit.stallTimer,
      field PositionUnit.stallArmed⟩,
    ⟨field PositionUnit.phase, trig, field PositionUnit.trigger, field PositionUnit.triggerSeen,
      field PositionUnit.history⟩,
    field PositionUnit.debt, field PositionUnit.excursion, field PositionUnit.reverseArmed, setup, outputs, msTime,
    pending, requests, executing⟩

/-- A forward increment advances P and the trigger phase (R3, R5, R7 to R9). -/
theorem forward_advances {s : State} {a b : Bool} (hf : isForward s a b) (hd : s.pos.debt = 0)
    (hp : s.pos.p < 2 ^ 48 - 1) : ∃ t, exec (.encoderIncrement a b) s = .next t ∧
      t.pos.p = s.pos.p + 1 ∧ t.pos.encA = a ∧ t.pos.encB = b ∧ t.pos.stallTimer = 0 ∧ t.pos.stallArmed = true ∧
      (if s.setup.linePitch ≤ s.pos.phase + 1 then
        t.pos.phase = 0 ∧ t.pulses.trig = s.pulses.trig + 1 ∧ t.pos.trigger = (s.pos.trigger + 1) % 65536 ∧
          t.pos.triggerSeen = true ∧
          t.pos.history = s.pos.history.set (t.pos.trigger % 256) (some ⟨t.pos.trigger, s.pos.p + 1⟩)
      else
        t.pos.phase = s.pos.phase + 1 ∧ t.pulses.trig = s.pulses.trig ∧ t.pos.trigger = s.pos.trigger ∧
          t.pos.triggerSeen = s.pos.triggerSeen ∧ t.pos.history = s.pos.history) ∧
      t.pos.debt = 0 ∧ t.pos.excursion = s.pos.excursion ∧ t.pos.reverseArmed = s.pos.reverseArmed ∧
      t.setup = s.setup ∧ t.outputs = s.outputs ∧ t.msTime = s.msTime ∧ t.pending = s.pending ∧
      t.trunk.requests = s.trunk.requests ∧ t.trunk.executing = s.trunk.executing := by
  obtain ⟨t, ht, take⟩ := encoderIncrement_advance hf hd hp
  refine ⟨t, ht, ?_⟩
  by_cases hphase : s.setup.linePitch ≤ s.pos.phase + 1
  · obtain ⟨⟨p, encA, encB, timer, armed⟩, ⟨phase, trig, trigger, seen, history⟩, debt, rest⟩ :=
      advanced_fields (advancePhase_trigger (s := moveP (takePair a b s)) hphase) take
    rw [if_pos hphase]
    exact ⟨p, encA, encB, timer, armed, ⟨phase, trig, trigger, seen, trigger ▸ history⟩, debt.trans hd, rest⟩
  · obtain ⟨⟨p, encA, encB, timer, armed⟩, phased, debt, rest⟩ :=
      advanced_fields (advancePhase_count (s := moveP (takePair a b s)) hphase) take
    rw [if_neg hphase]
    exact ⟨p, encA, encB, timer, armed, phased, debt.trans hd, rest⟩

/-! ### Bindings on a DETECT bank (R140) -/

/-- Something is bound to a DETECT bank: an OPEN blob tagged with it, or a lane's line binding. -/
theorem detectBindings_pos {s : State} {b : BankId} : 0 < detectBindings s b ↔
    (∃ j x, Slot.blob x ∈ (s.lane j).tracker.slots ∧ x.tag = b) ∨ ∃ j, (s.rx j).lineBinding = some b := by
  have every : ∀ i : LaneId, i ∈ laneIds := by decide
  have tagged : ∀ j, 0 < (s.lane j).tracker.slots.countP (Slot.tagged b) ↔
      ∃ x, Slot.blob x ∈ (s.lane j).tracker.slots ∧ x.tag = b := by
    intro j
    rw [List.countP_pos_iff]
    constructor
    · rintro ⟨slot, hmem, htag⟩
      cases slot with
      | blob x => exact ⟨x, hmem, by simpa [Slot.tagged] using htag⟩
      | free => cases htag
      | continuation c => cases htag
    · rintro ⟨x, hmem, htag⟩
      exact ⟨_, hmem, by simpa [Slot.tagged] using htag⟩
  unfold detectBindings
  rw [Nat.add_pos_iff_pos_or_pos, List.countP_pos_iff, Nat.pos_iff_ne_zero, ne_eq, List.sum_eq_zero_iff]
  refine or_congr ?_ ?_
  · simp only [List.mem_map, forall_exists_index, and_imp, forall_apply_eq_imp_iff₂, not_forall, ← Nat.pos_iff_ne_zero,
      ← ne_eq, tagged]
    exact ⟨fun ⟨j, _, h⟩ => ⟨j, h⟩, fun ⟨j, h⟩ => ⟨j, every j, h⟩⟩
  · simp only [beq_iff_eq]
    exact ⟨fun ⟨j, _, h⟩ => ⟨j, h⟩, fun ⟨j, h⟩ => ⟨j, every j, h⟩⟩

/-! ### The switch (R139) -/

/-- The line binding that a lane holds after a DETECT switch in INSPECT or STOPPING. -/
def givenBinding (old : BankId) (s : State) (j : LaneId) : Option BankId :=
  if s.trunk.run ≠ .standby ∧ (s.rx j).state = .running then some old else (s.rx j).lineBinding

theorem giveLineBindings_lane (old : BankId) (s : State) (j : LaneId) : (giveLineBindings old s).lane j =
    { s.lane j with rx := { s.rx j with lineBinding := givenBinding old s j } } := by
  unfold giveLineBindings
  by_cases hr : s.trunk.run = .standby
  · have kept : givenBinding old s j = (s.rx j).lineBinding := if_neg fun h => h.1 hr
    rw [if_pos (beq_iff_eq.2 hr), kept]
    rfl
  · rw [if_neg fun h => hr (beq_iff_eq.1 h)]
    unfold State.lane
    rw [State.withLanes_lanes, PerLane.get_map]
    by_cases hj : (s.rx j).state = .running
    · have given : givenBinding old s j = some old := if_pos ⟨hr, hj⟩
      rw [given]
      exact if_pos (beq_iff_eq.2 hj)
    · have kept : givenBinding old s j = (s.rx j).lineBinding := if_neg fun h => hj h.2
      rw [kept]
      exact if_neg fun h => hj (beq_iff_eq.1 h)

/-- A DETECT switch with a bank COMMITTING and the other ACTIVE. -/
theorem switchDetect_eq {s : State} {old : BankId} (t : Option Nat) (ho : (s.store.detect.get old).state = .active)
    (hn : (s.store.detect.get (otherBank old)).state = .committing) :
    switchDetect t s = (giveLineBindings old s).withStore { s.store with
      detect := s.store.detect.switch (otherBank old) (some old)
        (decide (0 < detectBindings (giveLineBindings old s) old))
      tSw := if decide (0 < detectBindings (giveLineBindings old s) old) then t else none } := by
  have hfind : s.store.detect.find .committing = some (otherBank old) :=
    find_eq_some hn (by rw [otherBank_otherBank, ho]; exact nofun)
  have hactive : s.store.detect.active = some old := find_eq_some ho (by rw [hn]; exact nofun)
  unfold switchDetect
  rw [hfind, hactive]
  dsimp only
  rw [giveLineBindings_store]

/-! ### The bank in effect and the release of a line binding (R27, R137, R140, R141) -/

/-- A trigger's distance from T_sw, as the model forms it, is the difference modulo 65536 (R137). -/
theorem atOrAfter_iff (n sw : Nat) : atOrAfter n sw = true ↔ ((n : Int) - sw) % 65536 < 32768 := by
  unfold atOrAfter
  rw [decide_eq_true_iff]
  omega

theorem bankInEffect_unswitched {s : State} {new : BankId} (h : s.store.detect.active = some new)
    (hsw : s.store.tSw = none) (i : LaneId) (n : Nat) : bankInEffect s i n = some new := by
  unfold bankInEffect
  simp only [h, hsw]

/-- With T_sw present: the ACTIVE bank at or after it, and before it the lane's binding, where it has one (R137). -/
theorem bankInEffect_switched {s : State} {new : BankId} {sw : Nat} (h : s.store.detect.active = some new)
    (hsw : s.store.tSw = some sw) (i : LaneId) (n : Nat) : bankInEffect s i n =
      some (if atOrAfter n sw then new else (s.rx i).lineBinding.getD new) := by
  unfold bankInEffect
  simp only [h, hsw]
  cases (s.rx i).lineBinding with
  | none => simp
  | some old => simp only [Option.getD_some]; split <;> rfl

/-- A line before T_sw releases nothing. -/
theorem finishOldBank_before {s : State} {sw n : Nat} (hsw : s.store.tSw = some sw) (h : ¬atOrAfter n sw = true)
    (i : LaneId) : finishOldBank i n s = s := by
  unfold finishOldBank
  cases (s.rx i).lineBinding with
  | none => simp only [hsw]
  | some old => simp only [hsw, h]; rfl

/-- A line at or after T_sw releases the lane's binding. -/
theorem finishOldBank_after {s : State} {sw n : Nat} {i : LaneId} (hsw : s.store.tSw = some sw)
    (h : atOrAfter n sw = true) (hb : (s.rx i).lineBinding ≠ none) : finishOldBank i n s = releaseLineBinding i s := by
  obtain ⟨old, hold⟩ := Option.ne_none_iff_exists'.1 hb
  unfold finishOldBank
  simp only [hsw, hold, h, if_true]

@[simp] theorem settleDetect_lanes (s : State) : (settleDetect s).lanes = s.lanes := by
  unfold settleDetect
  split
  · split <;> rfl
  · rfl

theorem releaseLineBinding_lane (i j : LaneId) (s : State) : (releaseLineBinding i s).lane j =
    if j = i then { s.lane i with rx := { s.rx i with lineBinding := none } } else s.lane j := by
  unfold releaseLineBinding State.lane
  rw [settleDetect_lanes]
  exact State.setLane_lane s i j _

/-- What a release makes of the Table Store: with something still bound to the RETIRING bank it stays (R141). -/
theorem settleDetect_store {s : State} {old : BankId} (hf : s.store.detect.find .retiring = some old) :
    (settleDetect s).store = if 0 < detectBindings s old then s.store else
      { s.store with detect := s.store.detect.setState old .loaded, tSw := none } := by
  unfold settleDetect
  rw [hf]
  by_cases hb : detectBindings s old = 0
  · rw [if_neg (by omega)]
    dsimp only
    rw [if_pos (beq_iff_eq.2 hb), State.withStore_store]
  · rw [if_pos (by omega)]
    dsimp only
    rw [if_neg fun h => hb (beq_iff_eq.1 h)]

/-! ### The parts of the statement -/

/-- Something is bound to the old bank at the switch: a tagged blob, or a line binding held then. -/
theorem detectBindings_giveLineBindings (old : BankId) (s : State) :
    0 < detectBindings (giveLineBindings old s) old ↔
      (∃ j x, Slot.blob x ∈ (s.lane j).tracker.slots ∧ x.tag = old) ∨ ∃ j, givenBinding old s j = some old := by
  rw [detectBindings_pos]
  unfold State.rx
  simp only [giveLineBindings_lane]

/-- Something is bound to the old bank after a release: a tagged blob, or the line binding of another lane. -/
theorem detectBindings_release (i : LaneId) (old : BankId) (s : State) :
    0 < detectBindings (s.modRx i fun x => { x with lineBinding := none }) old ↔
      (∃ j x, Slot.blob x ∈ (s.lane j).tracker.slots ∧ x.tag = old) ∨
        ∃ j, j ≠ i ∧ (s.rx j).lineBinding = some old := by
  have binding : ∀ j, ((s.modRx i fun x => { x with lineBinding := none }).rx j).lineBinding = some old ↔
      j ≠ i ∧ (s.rx j).lineBinding = some old := by
    intro j
    rw [State.modRx_rx]
    by_cases hj : j = i <;> simp [hj]
  rw [detectBindings_pos]
  simp only [State.modRx_tracker, binding]

/-- The release of a line binding, and the RETIRING bank after it (R140, R141). -/
theorem releaseLineBinding_store {s : State} {old : BankId} (i : LaneId)
    (ho : (s.store.detect.get old).state = .retiring) (hn : (s.store.detect.get (otherBank old)).state = .active) :
    (releaseLineBinding i s).store =
      if 0 < detectBindings (s.modRx i fun x => { x with lineBinding := none }) old then s.store
      else { s.store with detect := s.store.detect.setState old .loaded, tSw := none } :=
  settleDetect_store (s := s.modRx i fun x => { x with lineBinding := none })
    (find_eq_some ho (by rw [State.modRx_store, hn]; exact nofun))

/-- A trigger with a bank COMMITTING: the states, T_sw and the lanes after the switch (R139). -/
theorem issueTrigger_switch {s : State} {old : BankId} (ho : (s.store.detect.get old).state = .active)
    (hn : (s.store.detect.get (otherBank old)).state = .committing) :
    issueTrigger s = (giveLineBindings old (stampTrigger s)).withStore { s.store with
      detect := s.store.detect.switch (otherBank old) (some old)
        (decide (0 < detectBindings (giveLineBindings old (stampTrigger s)) old))
      tSw := if decide (0 < detectBindings (giveLineBindings old (stampTrigger s)) old) then
        some ((s.pos.trigger + 1) % 65536) else none } :=
  switchDetect_eq (s := stampTrigger s) _ ho hn

/-- The banks and T_sw after a trigger's switch (R139). -/
theorem issueTrigger_store {s : State} {old : BankId} (ho : (s.store.detect.get old).state = .active)
    (hn : (s.store.detect.get (otherBank old)).state = .committing) :
    (issueTrigger s).store.detect.get (otherBank old) =
        { s.store.detect.get (otherBank old) with state := .active } ∧
      (issueTrigger s).store.detect.get old = { s.store.detect.get old with
        state := if 0 < detectBindings (giveLineBindings old (stampTrigger s)) old then .retiring else .loaded } ∧
      (issueTrigger s).store.tSw = (if 0 < detectBindings (giveLineBindings old (stampTrigger s)) old then
        some (issueTrigger s).pos.trigger else none) ∧
      (issueTrigger s).store.grade = s.store.grade ∧ (issueTrigger s).setup = s.setup := by
  have trigger : (issueTrigger s).pos.trigger = (s.pos.trigger + 1) % 65536 := (issueTrigger_inner s).trigger
  rw [trigger, issueTrigger_switch ho hn, State.withStore_store]
  obtain ⟨hnew, hold⟩ := switch_get s.store.detect old
    (decide (0 < detectBindings (giveLineBindings old (stampTrigger s)) old))
  simp only [decide_eq_true_eq] at hold
  exact ⟨hnew, hold, if_congr decide_eq_true_iff rfl rfl, rfl, rfl⟩

theorem issueTrigger_lane {s : State} {old : BankId} (ho : (s.store.detect.get old).state = .active)
    (hn : (s.store.detect.get (otherBank old)).state = .committing) (j : LaneId) : (issueTrigger s).lane j =
      { s.lane j with rx := { s.rx j with lineBinding := givenBinding old s j } } := by
  rw [issueTrigger_switch ho hn]
  exact giveLineBindings_lane old (stampTrigger s) j

/-- Settles O5: the advance and its trigger phase, the switch at a trigger, the bank in effect, and the release. -/
theorem forwardIncrementAdvancesP : Obligations.ForwardIncrementAdvancesP := by
  unfold Obligations.ForwardIncrementAdvancesP
  refine ⟨fun s a b hf hd hp => forward_advances hf hd hp, fun s i old => ?_⟩
  intro new detect tagged
  refine ⟨fun ho hn => ?_, fun ho hn => ⟨fun n _ => ?_, ?_⟩⟩
  · intro t given used
    have bound : _ ↔ used := detectBindings_giveLineBindings old (stampTrigger s)
    obtain ⟨hnew, hold, hsw, hgrade, hsetup⟩ := issueTrigger_store ho hn
    refine ⟨hnew, fun hused => ?_, fun hused => ?_, (issueTrigger_inner s).trigger, hgrade, hsetup,
      issueTrigger_lane ho hn⟩
    · rw [if_pos (bound.2 hused)] at hold hsw
      exact ⟨hold, hsw⟩
    · rw [if_neg fun h => hused (bound.1 h)] at hold hsw
      exact ⟨hold, hsw⟩
  · have hactive : s.store.detect.active = some new :=
      find_eq_some hn (by rw [otherBank_otherBank, ho]; exact nofun)
    refine ⟨fun hsw => bankInEffect_unswitched hactive hsw i n, fun sw hsw hat => ?_, fun sw hsw hbefore => ?_⟩
    · have hat := (atOrAfter_iff n sw).2 hat
      exact ⟨(bankInEffect_switched hactive hsw i n).trans (by rw [if_pos hat]), finishOldBank_after hsw hat⟩
    · have hbefore : ¬atOrAfter n sw = true := by rw [atOrAfter_iff]; omega
      exact ⟨finishOldBank_before hsw hbefore i, (bankInEffect_switched hactive hsw i n).trans (by rw [if_neg hbefore])⟩
  · intro r used
    have bound := detectBindings_release i old s
    have hstore := releaseLineBinding_store i ho hn
    refine ⟨fun j => releaseLineBinding_lane i j s, fun hused => ?_, fun hused => ?_⟩
    · exact hstore.trans (if_pos (bound.2 hused))
    · exact hstore.trans (if_neg fun h => hused (bound.1 h))

end Sys2Proof.Machine
end

section
/-! A lane's receiver replaced, what opening a gap makes of it, and what answering a request leaves of it (R29, R32,
R168). -/

namespace Sys2Proof.Machine

/-! ### One lane's receiver replaced -/

@[simp] theorem setLane_setLane (s : State) (i : LaneId) (a b : Lane) :
    (s.setLane i a).setLane i b = s.setLane i b := by
  unfold State.setLane
  fin_cases i <;> rfl

theorem setLane_lane_self (s : State) (i : LaneId) : s.setLane i (s.lane i) = s := by
  unfold State.setLane State.lane
  fin_cases i <;> rfl

/-- The state with one lane's receiver replaced: `State.modRx` with the new receiver at hand. -/
def State.withRx (s : State) (i : LaneId) (y : Receiver) : State := s.setLane i { s.lane i with rx := y }

theorem modRx_eq_withRx (s : State) (i : LaneId) (f : Receiver → Receiver) :
    s.modRx i f = s.withRx i (f (s.rx i)) := rfl

theorem withRx_self (s : State) (i : LaneId) : s.withRx i (s.rx i) = s := setLane_lane_self s i

@[simp] theorem withRx_rx (s : State) (i : LaneId) (y : Receiver) : (s.withRx i y).rx i = y :=
  State.modRx_rx_same s i fun _ => y

@[simp] theorem withRx_withRx (s : State) (i : LaneId) (y z : Receiver) : (s.withRx i y).withRx i z = s.withRx i z := by
  unfold State.withRx
  rw [setLane_setLane, State.setLane_lane_same]

@[simp] theorem withRx_modRx (s : State) (i : LaneId) (y : Receiver) (f : Receiver → Receiver) :
    (s.withRx i y).modRx i f = s.withRx i (f y) := by
  rw [modRx_eq_withRx, withRx_rx, withRx_withRx]

theorem rx_of_lanes {s t : State} (h : t.lanes = s.lanes) (i : LaneId) : t.rx i = s.rx i := by
  unfold State.rx State.lane
  rw [h]

theorem lane_of_lanes {s t : State} (h : t.lanes = s.lanes) (i : LaneId) : t.lane i = s.lane i := by
  unfold State.lane
  rw [h]

@[simp] theorem raise_rx (k : CondKind) (lane : Option LaneId) (d1 d2 : Nat) (s : State) (i : LaneId) :
    (raise k lane d1 d2 s).rx i = s.rx i := rx_of_lanes (raise_lanes k lane d1 d2 s) i

/-! ### Opening a gap (R32) -/

@[simp] theorem enterOpenGap_lanes (i : LaneId) (g : Nat) (s : State) : (enterOpenGap i g s).lanes = s.lanes := by
  unfold enterOpenGap
  split
  · rfl
  · exact raise_lanes _ _ _ _ _

theorem openGap_rx (i : LaneId) (g : Nat) (s : State) : (openGap i g s).rx i = { s.rx i with openGap := some g } := by
  unfold openGap
  rw [State.modRx_rx_same, rx_of_lanes (enterOpenGap_lanes i g s)]

theorem openGapIfNone_eq (i : LaneId) (g : Nat) (s : State) :
    openGapIfNone i g s = if (s.rx i).openGap = none then openGap i g s else s := by
  unfold openGapIfNone
  cases h : (s.rx i).openGap with
  | none => rw [if_pos rfl]
  | some a => rw [if_neg nofun]

theorem openGapIfNone_rx (i : LaneId) (g : Nat) (s : State) :
    (openGapIfNone i g s).rx i = { s.rx i with openGap := some ((s.rx i).openGap.getD g) } := by
  rw [openGapIfNone_eq]
  cases h : (s.rx i).openGap with
  | none => rw [if_pos rfl, openGap_rx]; rfl
  | some a => rw [if_neg nofun, Option.getD_some, ← h]

/-! ### Answering and the take -/

@[simp] theorem handRecord_lanes (r : Urgent) (s : State) : (handRecord r s).lanes = s.lanes := by
  unfold handRecord
  dsimp only
  split
  · exact (raise_lanes _ _ _ _ _).trans (handUrgent_lanes r s)
  · exact handUrgent_lanes r s

@[simp] theorem answer_lanes (r : Request) (st : Status) (body : List Byte) (s : State) :
    (answer r st body s).lanes = s.lanes := by
  obtain ⟨e, q, hc, -, -⟩ := complete_cases r (handRecord (.response r.tag r.kind st body) s)
  unfold answer
  rw [hc]
  exact handRecord_lanes _ s

/-- The take fills no slot. -/
theorem take_slot_none {u t : State} (h : AfterTake u t) {i : LaneId} (hs : (u.rx i).slot = none) :
    (t.rx i).slot = none := by
  rcases (h.blocks.lanes i).2 with kept | ⟨taken, -⟩
  · exact kept.trans hs
  · exact taken

/-- A request answered in a state whose last operation recomputed H: with room for the RESPONSE the answer is whole, and
in any case a receiver has lost at most its line binding and its slot. -/
theorem respond_recomputeH (tag kind : Byte) (args body : List Byte) (st : Status) (v : State) (i : LaneId) :
    ∃ t, respond tag kind args st body (recomputeH v) = .next t ∧
      (hasRoom (recomputeH v) → Answered ⟨tag, kind, args⟩ st body (recomputeH v) t) ∧
      (∃ sl lb, t.rx i = { v.rx i with slot := sl, lineBinding := lb }) ∧
      ((v.rx i).slot = none → (t.rx i).slot = none) := by
  obtain ⟨t, ht, take⟩ := done_afterTake (answer ⟨tag, kind, args⟩ st body (recomputeH v))
  have answered := rx_of_lanes (answer_lanes ⟨tag, kind, args⟩ st body (recomputeH v)) i
  have quiet := quiet_rx (recomputeH_quiet v) i
  refine ⟨t, ht, fun room => ?_, ⟨(t.rx i).slot, ((recomputeH v).rx i).lineBinding, ?_⟩,
    fun hs => take_slot_none take ?_⟩
  · obtain ⟨t', ht', ha⟩ :=
      respond_answered (tag := tag) (kind := kind) (args := args) (body := body) (status := st) room
    cases ht.symm.trans ht'
    exact ha
  · exact (take_rx _ _ take i).trans (by rw [answered, quiet])
  · rw [answered, quiet]
    exact hs

/-- H is recomputed in INSPECT alone (R82). -/
theorem recomputeH_outside {s : State} (h : s.trunk.run ≠ .inspect) : recomputeH s = s :=
  if_neg fun hr => h (beq_iff_eq.1 hr)

end Sys2Proof.Machine
end

section
/-! LANE_CONTROL: how its arguments are read, and the rows of the table of R33. -/

namespace Sys2Proof.Machine

/-! ### The arguments -/

theorem laneOf?_val (i : LaneId) : laneOf? i.val = some i := dif_pos i.isLt

theorem laneOf?_none {v : Nat} (h : 4 ≤ v) : laneOf? v = none := dif_neg (by omega)

theorem forwardMode_ofCode?_code (m : ForwardMode) : ForwardMode.ofCode? m.code = some m := by
  cases m <;> rfl

theorem forwardMode_ofCode?_none {v : Nat} (h : 3 ≤ v) : ForwardMode.ofCode? v = none := by
  obtain ⟨k, rfl⟩ := Nat.exists_eq_add_of_le' h
  rfl

/-- LANE_CONTROL takes three bytes, whatever follows them. -/
theorem laneControl_fields (lane enable mode : Byte) (rest : List Byte) :
    readFields [1, 1, 1] (lane :: enable :: mode :: rest) = some [lane.toNat, enable.toNat, mode.toNat] := by
  rw [readFields_byte, readFields_byte, readFields_byte]
  rfl

theorem exec_laneControl (tag : Byte) (args : List Byte) (s : State) :
    exec (.laneControl tag args) s = execLaneControl tag args s := rfl

section Arguments

variable {tag lane enable mode : Byte} {rest : List Byte} {s : State} {i : LaneId} {m : ForwardMode}

theorem laneControl_unknown (h : 4 ≤ lane.toNat ∨ 3 ≤ mode.toNat) :
    exec (.laneControl tag (lane :: enable :: mode :: rest)) s =
      respond tag 9 (lane :: enable :: mode :: rest) .malformed [] s := by
  rw [exec_laneControl]
  unfold execLaneControl
  rw [laneControl_fields]
  dsimp only
  rcases h with hl | hm
  · rw [laneOf?_none hl]
  · rw [forwardMode_ofCode?_none hm]
    cases laneOf? lane.toNat <;> rfl

theorem laneControl_known (hl : lane.toNat = i.val) (hm : mode.toNat = m.code) :
    exec (.laneControl tag (lane :: enable :: mode :: rest)) s =
      match enable.toNat with
      | 0 => respond tag 9 (lane :: enable :: mode :: rest) .ok [] (enableLane i (setForward i m s))
      | 1 => respond tag 9 (lane :: enable :: mode :: rest) .ok [] (disableLane i (setForward i m s))
      | _ => respond tag 9 (lane :: enable :: mode :: rest) .malformed [] s := by
  rw [exec_laneControl]
  unfold execLaneControl
  rw [laneControl_fields, hl, hm]
  dsimp only
  rw [laneOf?_val, forwardMode_ofCode?_code] <;> rfl

theorem laneControl_enable (hl : lane.toNat = i.val) (hm : mode.toNat = m.code) (he : enable = 0) :
    exec (.laneControl tag (lane :: enable :: mode :: rest)) s =
      respond tag 9 (lane :: enable :: mode :: rest) .ok [] (enableLane i (setForward i m s)) := by
  rw [laneControl_known hl hm, he]
  rfl

theorem laneControl_disable (hl : lane.toNat = i.val) (hm : mode.toNat = m.code) (he : enable = 1) :
    exec (.laneControl tag (lane :: enable :: mode :: rest)) s =
      respond tag 9 (lane :: enable :: mode :: rest) .ok [] (disableLane i (setForward i m s)) := by
  rw [laneControl_known hl hm, he]
  rfl

end Arguments

/-! ### The rows of the table (R33) -/

theorem setLaneState_withRx (i : LaneId) (st : LaneState) (s : State) (y : Receiver) :
    setLaneState i st (s.withRx i y) = recomputeH (s.withRx i { y with state := st }) := by
  unfold setLaneState
  rw [withRx_modRx]

theorem discardSlot_withRx (i : LaneId) (s : State) (y : Receiver) :
    discardSlot i (s.withRx i y) = s.withRx i { y with slot := none } := withRx_modRx s i y _

section Table

variable {i : LaneId} {s : State}

theorem discardSlot_state {st : LaneState} (h : (s.rx i).state = st) : ((discardSlot i s).rx i).state = st := by
  unfold discardSlot
  rw [State.modRx_rx_same]
  exact h

theorem discardSlot_run {r : RunState} (h : s.trunk.run = r) : (discardSlot i s).trunk.run = r := h

theorem enableLane_enabled (h : (s.rx i).state ≠ .disabled) : enableLane i s = s := by
  unfold enableLane
  cases hs : (s.rx i).state with
  | disabled => exact absurd hs h
  | idle => cases s.trunk.run <;> rfl
  | waiting => cases s.trunk.run <;> rfl
  | running => cases s.trunk.run <;> rfl
  | silent => cases s.trunk.run <;> rfl

theorem enableLane_outside (hr : s.trunk.run ≠ .inspect) (h : (s.rx i).state = .disabled) :
    enableLane i s = setLaneState i .idle s := by
  unfold enableLane
  rw [h]
  cases hrun : s.trunk.run with
  | inspect => exact absurd hrun hr
  | standby => rfl
  | stopping => rfl

theorem enableLane_inspect (hr : s.trunk.run = .inspect) (h : (s.rx i).state = .disabled) :
    enableLane i s = setLaneState i .waiting (enterWaiting i s.map.h s) := by
  unfold enableLane
  rw [hr, h]

theorem disableLane_disabled (h : (s.rx i).state = .disabled) : disableLane i s = discardSlot i s := by
  unfold disableLane
  dsimp only
  rw [discardSlot_state h]
  cases (discardSlot i s).trunk.run <;> rfl

theorem disableLane_outside (hr : s.trunk.run ≠ .inspect) (h : (s.rx i).state = .idle) :
    disableLane i s = setLaneState i .disabled (discardSlot i s) := by
  unfold disableLane
  dsimp only
  rw [discardSlot_state h]
  cases hrun : s.trunk.run with
  | inspect => exact absurd hrun hr
  | standby => rw [discardSlot_run hrun]
  | stopping => rw [discardSlot_run hrun]

theorem disableLane_open (hr : s.trunk.run = .inspect) (h : (s.rx i).state = .waiting ∨ (s.rx i).state = .silent) :
    disableLane i s = setLaneState i .disabled (discardSlot i s) := by
  unfold disableLane
  dsimp only
  rw [discardSlot_run hr]
  rcases h with h | h
  · rw [discardSlot_state h]
  · rw [discardSlot_state h]

theorem disableLane_running (hr : s.trunk.run = .inspect) (h : (s.rx i).state = .running) :
    disableLane i s =
      setLaneState i .disabled (releaseLineBinding i (openGap i (heldSum (lastGlass i (flush i (discardSlot i s))))
        (flush i (discardSlot i s)))) := by
  unfold disableLane
  dsimp only
  rw [discardSlot_run hr, discardSlot_state h]

/-- The end of a lane's last glass (R29, R30, R33). -/
theorem lastGlass_some {p : Nat} (hp : (s.rx i).lastPosition = some p) : lastGlass i s = p + s.setup.linePitch := by
  unfold lastGlass
  rw [hp]
  rfl

/-- No flush moves the end of a lane's last glass. -/
theorem lastGlass_flush {p : Nat} (hp : (s.rx i).lastPosition = some p) :
    lastGlass i (flush i s) = p + s.setup.linePitch := by
  rw [lastGlass_some (p := p) (by rw [quiet_rx (flush_quiet i s) i]; exact hp), State.setup, (flush_inner i s).setup]

end Table

/-- The gap of an enable in INSPECT: steps 1 to 3 of R22. -/
theorem enterWaiting_withRx (i : LaneId) (g : Nat) (s : State) (y : Receiver) :
    enterWaiting i g (s.withRx i y) = openGapIfNone i g (s.withRx i
      { y with lastTrigger := none, lastPosition := none, seeded := false, silenceTimer := 0, satRun := 0 }) := by
  unfold enterWaiting
  rw [withRx_modRx]

/-- Settles O41, row by row of the table. -/
theorem laneControl : Obligations.LaneControl := by
  unfold Obligations.LaneControl
  intro s tag lane enable mode rest room args cmd
  refine ⟨fun unknown => ?_, fun i m hl hm => ?_⟩
  · rw [show cmd = respond tag 9 args .malformed [] s from laneControl_unknown unknown]
    exact respond_answered room
  intro x fwd became
  have enabled : enable = 0 → cmd = respond tag 9 args .ok [] (enableLane i (s.withRx i fwd)) :=
    laneControl_enable hl hm
  have disabled : enable = 1 → cmd = respond tag 9 args .ok [] (disableLane i (s.withRx i fwd)) :=
    laneControl_disable hl hm
  have state : ∀ {st}, x.state = st → ((s.withRx i fwd).rx i).state = st := fun h => by rw [withRx_rx]; exact h
  have run : ∀ {r}, s.trunk.run = r → (s.withRx i fwd).trunk.run = r := id
  -- a row that does not recompute H, and one that ends in doing so
  have whole : ∀ {u} (y : Receiver), cmd = respond tag 9 args .ok [] u → u = s.withRx i y →
      ∃ t, cmd = .next t ∧ Answered ⟨tag, 9, args⟩ .ok [] (became y) t := fun y hc hu => by
    rw [hc, hu]
    exact respond_answered room
  have recomputed : ∀ {u} (v : State), cmd = respond tag 9 args .ok [] u → u = recomputeH v →
      ∃ t, cmd = .next t ∧ (hasRoom (recomputeH v) → Answered ⟨tag, 9, args⟩ .ok [] (recomputeH v) t) ∧
        (∃ sl lb, t.rx i = { v.rx i with slot := sl, lineBinding := lb }) ∧
        ((v.rx i).slot = none → (t.rx i).slot = none) := fun v hc hu => by
    rw [hc, hu]
    exact respond_recomputeH _ _ _ _ _ v i
  refine ⟨fun he hx => whole _ (enabled he) ?_, fun he hx => whole _ (disabled he) ?_,
    fun hr he hx => whole _ (enabled he) ?_, fun hr he hx => whole _ (disabled he) ?_,
    fun hr he hx => ?_, fun hr he hx => ?_, fun p hr he hx hp hlt => ?_⟩
  · exact enableLane_enabled (by rw [withRx_rx]; exact hx)
  · rw [disableLane_disabled (state hx), discardSlot_withRx]
  · rw [enableLane_outside (s := s.withRx i fwd) hr (state hx), setLaneState_withRx]
    exact recomputeH_outside hr
  · rw [disableLane_outside (s := s.withRx i fwd) hr (state hx), discardSlot_withRx, setLaneState_withRx]
    exact recomputeH_outside hr
  · intro bare opened w
    have hbare : bare.rx i = _ := withRx_rx s i _
    have hopened : enterWaiting i s.map.h (s.withRx i fwd) = opened := by
      rw [enterWaiting_withRx, openGapIfNone_eq, withRx_rx]
      rfl
    have hrx : opened.rx i = { bare.rx i with openGap := some (x.openGap.getD s.map.h) } := by
      rw [← hopened, enterWaiting_withRx, openGapIfNone_rx, hbare, withRx_rx]
    obtain ⟨t, ht, ha, ⟨sl, lb, hrx'⟩, -⟩ :=
      recomputed (opened.withRx i { opened.rx i with state := .waiting }) (enabled he)
        ((enableLane_inspect (run hr) (state hx)).trans (congrArg (setLaneState i .waiting) hopened))
    rw [withRx_rx, hrx, hbare] at hrx'
    refine ⟨t, ht, ha, ?_⟩
    rw [hrx']
    exact ⟨rfl, rfl, rfl, rfl, rfl, rfl, rfl, rfl, rfl⟩
  · obtain ⟨t, ht, ha, ⟨sl, lb, hrx⟩, hslot⟩ :=
      recomputed (s.withRx i { fwd with slot := none, state := .disabled }) (disabled he) (by
        rw [disableLane_open (run hr) (hx.imp state state), discardSlot_withRx, setLaneState_withRx])
    refine ⟨t, ht, ha, ?_, ?_, hslot (by rw [withRx_rx]), ?_⟩ <;> rw [hrx, withRx_rx]
  · intro flushed released w
    have glass : lastGlass i flushed = p + s.setup.linePitch :=
      lastGlass_flush (s := s.withRx i { fwd with slot := none }) (by rw [withRx_rx]; exact hp)
    have hflushed : flushed.rx i = { fwd with slot := none, lineBinding := (flushed.rx i).lineBinding } := by
      have quiet := quiet_rx (flush_quiet i (s.withRx i { fwd with slot := none })) i
      rw [withRx_rx] at quiet
      exact quiet
    have hreleased : released.rx i = { fwd with
        slot := none, openGap := some (p + s.setup.linePitch), lineBinding := (released.rx i).lineBinding } :=
      (quiet_rx (releaseLineBinding_quiet i _) i).trans (by rw [openGap_rx, hflushed])
    obtain ⟨t, ht, ha, ⟨sl, lb, hrx⟩, hslot⟩ :=
      recomputed (released.withRx i { released.rx i with state := .disabled }) (disabled he) (by
        rw [disableLane_running (run hr) (state hx), discardSlot_withRx]
        show setLaneState i .disabled (releaseLineBinding i (openGap i (heldSum (lastGlass i flushed)) flushed)) = _
        rw [glass, heldSum_of_lt hlt]
        rfl)
    refine ⟨t, ht, ha, ?_, ?_, hslot (by rw [withRx_rx, hreleased]), ?_⟩ <;> rw [hrx, withRx_rx] <;> rw [hreleased]

end Sys2Proof.Machine
end

section
/-! LINE frames that are not good: discarded, malformed, stale or out of order, and the forward copy of mode ALL (R20,
R21, R24, R35). -/

namespace Sys2Proof.Machine

theorem exec_lineFrame (i : LaneId) (f : Frame) (s : State) : exec (.lineFrame i f) s = done (lineArrives i f s) := rfl

/-- What a LINE frame comes to, but for the arbiter's take. -/
theorem lineFrame_takes {i : LaneId} {f : Frame} {s u : State} (h : lineArrives i f s = u) :
    ∃ t, exec (.lineFrame i f) s = .next t ∧ AfterTake u t := by
  rw [exec_lineFrame, h]
  exact done_afterTake u

/-! ### The forward copy (R35) -/

/-- The receiver after a line has been offered to its forward slot under mode ALL. -/
def Receiver.offered (f : ForwardLine) (x : Receiver) : Receiver :=
  if x.forward = .all then
    { x with slot := some f, forwardDropped := if x.slot = none then x.forwardDropped else bump32 x.forwardDropped }
  else x

theorem Receiver.copyForward_eq (f : ForwardLine) (x : Receiver) : x.copyForward f = { x with
    slot := some f
    forwardDropped := if x.slot = none then x.forwardDropped else bump32 x.forwardDropped } := by
  unfold Receiver.copyForward
  cases h : x.slot with
  | none => rw [if_pos rfl]
  | some l => rw [if_neg nofun]

theorem copyIf_all (i : LaneId) (l : Line) (p : Option Nat) (s : State) :
    copyIf .all i l p s = s.withRx i ((s.rx i).offered (forwardLineOf i l p)) := by
  unfold copyIf Receiver.offered
  split
  · rw [modRx_eq_withRx, Receiver.copyForward_eq]
  · exact (withRx_self s i).symm

/-- An offer leaves the slot and the forward-dropped counter to change, and nothing that R24 looks at. -/
theorem Receiver.offered_eq (f : ForwardLine) (x : Receiver) : x.offered f =
    { x with slot := (x.offered f).slot, forwardDropped := (x.offered f).forwardDropped } := by
  unfold Receiver.offered
  split <;> rfl

theorem outOfOrder_offered (f : ForwardLine) (x : Receiver) (t p : Nat) :
    outOfOrder (x.offered f) t p = outOfOrder x t p := by
  rw [Receiver.offered_eq]
  rfl

/-! ### The frame checks (R20) -/

/-- What a frame that is read holds: its CRC, and five bytes for every four pixels. -/
theorem parseLine_some {f : Frame} {l : Line} (h : parseLine f = some l) :
    crcHolds f = true ∧ 4 * l.payload.length = 5 * l.pixelCount ∧
      ∃ t0 t1 n0 n1, f.body = t0 :: t1 :: n0 :: n1 :: l.flags :: l.payload ∧ l.trigger = ofLE [t0, t1] ∧
        l.pixelCount = ofLE [n0, n1] := by
  unfold parseLine at h
  split at h
  · next t0 t1 n0 n1 flags payload hbody =>
    dsimp only at h
    split at h
    · next hc =>
      cases h
      simp only [Bool.and_eq_true, beq_iff_eq] at hc
      obtain ⟨⟨⟨hcrc, -⟩, hfour⟩, hfive⟩ := hc
      refine ⟨hcrc, ?_, t0, t1, n0, n1, hbody, rfl, rfl⟩
      dsimp only
      omega
    · cases h
  · cases h

/-- A frame laid out as a LINE frame is read as the line it was laid out from, where it is read. -/
theorem parseLine_layout {t n : Nat} {flags ftype : Byte} {payload : List Byte} {len crc : BitVec 16} {l : Line}
    (ht : t < 65536) (hn : n < 65536)
    (h : parseLine ⟨ftype, len, leBytes 2 t ++ leBytes 2 n ++ flags :: payload, crc⟩ = some l) :
    l = ⟨t, n, flags, payload⟩ := by
  obtain ⟨-, -, t0, t1, n0, n1, hbody, htrigger, hcount⟩ := parseLine_some h
  have e1 : ofLE (leBytes 2 t) = t := by rw [ofLE_leBytes]; omega
  have e2 : ofLE (leBytes 2 n) = n := by rw [ofLE_leBytes]; omega
  obtain ⟨trigger, count, fl, pl⟩ := l
  simp only [leBytes, List.cons_append, List.nil_append, List.cons.injEq] at hbody e1 e2
  obtain ⟨rfl, rfl, rfl, rfl, rfl, rfl⟩ := hbody
  rw [Line.mk.injEq]
  exact ⟨htrigger.trans e1, hcount.trans e2, rfl, rfl⟩

theorem checkedLine_some {i : LaneId} {f : Frame} {s : State} {l : Line} (h : checkedLine i f s = some l) :
    parseLine f = some l ∧ ∀ b, bankInEffect s i l.trigger = some b → l.pixelCount = (s.laneEntry b i).pixelCount := by
  unfold checkedLine at h
  split at h
  · cases h
  · next l' hp =>
    split at h
    · next hb =>
      cases h
      exact ⟨hp, fun b hb' => by rw [hb] at hb'; cases hb'⟩
    · next b hb =>
      split at h
      · next hn =>
        cases h
        refine ⟨hp, fun b' hb' => ?_⟩
        rw [hb] at hb'
        cases hb'
        exact beq_iff_eq.1 hn
      · cases h

theorem checkedLine_of_parse {i : LaneId} {f : Frame} {s : State} {l : Line} (hp : parseLine f = some l)
    (hb : ∀ b, bankInEffect s i l.trigger = some b → l.pixelCount = (s.laneEntry b i).pixelCount) :
    checkedLine i f s = some l := by
  unfold checkedLine
  rw [hp]
  dsimp only
  split
  · rfl
  · next b hbank => exact if_pos (beq_iff_eq.2 (hb b hbank))

/-! ### A frame that arrives, by the lane's state (R20, R21, R24) -/

section Arrival

variable {i : LaneId} {f : Frame} {s : State} {l : Line}

/-- The states in which a line is placed by its lookup (R24). -/
def LaneState.places (st : LaneState) : Prop := st = .waiting ∨ st = .running ∨ st = .silent

theorem lineArrives_disabled (h : (s.rx i).state = .disabled) : lineArrives i f s = s := by
  unfold lineArrives
  rw [h]

theorem lineArrives_malformed (h : (s.rx i).state ≠ .disabled) (hc : checkedLine i f s = none) :
    lineArrives i f s = s.withRx i { s.rx i with malformed := bump32 (s.rx i).malformed } := by
  unfold lineArrives
  cases hs : (s.rx i).state with
  | disabled => exact absurd hs h
  | idle => simp only [hc]; rfl
  | waiting => simp only [hc]; rfl
  | running => simp only [hc]; rfl
  | silent => simp only [hc]; rfl

theorem lineArrives_idle (h : (s.rx i).state = .idle) (hc : checkedLine i f s = some l) :
    lineArrives i f s = s.withRx i ((s.rx i).offered (forwardLineOf i l none)) := by
  unfold lineArrives
  rw [h, ← copyIf_all]
  simp only [hc]

theorem lineArrives_placed (h : (s.rx i).state.places) (hc : checkedLine i f s = some l) :
    lineArrives i f s = placeLine i l (bankInEffect s i l.trigger) s := by
  unfold lineArrives
  rcases h with h | h | h <;> rw [h] <;> simp only [hc]

/-- A stale line: offered, counted, raised; then H (R24 test 1). -/
theorem placeLine_stale {b : Option BankId} (h : lookupTrigger l.trigger s = none) :
    placeLine i l b s = recomputeH (raise .laneStale (some i) l.trigger (if s.pos.triggerSeen then s.pos.trigger else 0)
      (s.withRx i { (s.rx i).offered (forwardLineOf i l none) with stale := bump32 (s.rx i).stale })) := by
  unfold placeLine
  simp only [h]
  rw [copyIf_all, withRx_modRx, Receiver.offered_eq]
  rfl

/-- A line out of order: offered with its position and counted; then H (R24 test 2). -/
theorem placeLine_outOfOrder {b : Option BankId} {p : Nat} (h : lookupTrigger l.trigger s = some p)
    (ho : outOfOrder (s.rx i) l.trigger p = true) :
    placeLine i l b s = recomputeH (s.withRx i
      { (s.rx i).offered (forwardLineOf i l (some p)) with outOfOrder := bump32 (s.rx i).outOfOrder }) := by
  unfold placeLine
  simp only [h]
  rw [copyIf_all, withRx_rx, outOfOrder_offered, if_pos ho, withRx_modRx, Receiver.offered_eq]

end Arrival

/-! ### The test of order (R24) -/

theorem outOfOrder_running {x : Receiver} {t p last : Nat} (hx : x.state = .running) (hl : x.lastTrigger = some last)
    (hlt : last < 65536) : outOfOrder x t p = true ↔
      ((t : Int) - last) % 65536 = 0 ∨ 32768 ≤ ((t : Int) - last) % 65536 := by
  unfold outOfOrder
  rw [hx, hl]
  simp only [Bool.or_eq_true, beq_iff_eq, decide_eq_true_eq]
  omega

theorem outOfOrder_silent {x : Receiver} {t p : Nat} (hx : x.state = .silent) : outOfOrder x t p = true ↔
    (∃ last, x.lastPosition = some last ∧ p ≤ last) ∨ ∃ g, x.openGap = some g ∧ p < g := by
  unfold outOfOrder
  rw [hx]
  cases x.lastPosition <;> cases x.openGap <;> simp

/-- Settles O42, by the lane's state and the checks that the frame fails. -/
theorem linesThatAreNotGood : Obligations.LinesThatAreNotGood := by
  unfold Obligations.LinesThatAreNotGood
  intro i s t n flags payload ftype crc ht hn hlen body f x cmd bump became line copied dropped
  have malformed : x.state ≠ .disabled → checkedLine i f s = none → dropped := fun hx hc =>
    lineFrame_takes (lineArrives_malformed hx hc)
  have checked : ∀ {l}, checkedLine i f s = some l → crcHolds f = true ∧ 4 * payload.length = 5 * n ∧
      ∀ b, bankInEffect s i t = some b → n = (s.laneEntry b i).pixelCount := by
    intro l hl
    obtain ⟨hp, hb⟩ := checkedLine_some hl
    obtain ⟨hcrc, hfour, -⟩ := parseLine_some hp
    obtain rfl := parseLine_layout ht hn hp
    exact ⟨hcrc, hfour, hb⟩
  have fails : x.state ≠ .disabled → ¬(crcHolds f = true ∧ 4 * payload.length = 5 * n ∧
      ∀ b, bankInEffect s i t = some b → n = (s.laneEntry b i).pixelCount) → dropped := fun hx hf =>
    malformed hx (Option.eq_none_iff_forall_ne_some.2 fun l hl => hf (checked hl))
  refine ⟨fun hx => lineFrame_takes (lineArrives_disabled hx), fun hx hcrc => fails hx fun h => ?_,
    fun hx hfour => fails hx fun h => hfour h.2.1, fun b hx hb hcount => fails hx fun h => hcount (h.2.2 b hb),
    fun hcrc hfour hcount => ?_⟩
  · rw [hcrc] at h
    exact nomatch h.1
  have hc : checkedLine i f s = some ⟨t, n, flags, payload⟩ :=
    checkedLine_of_parse (parse_good ht hn hlen hcrc hfour) hcount
  have placed : x.state.places → lineArrives i f s = _ := fun h => lineArrives_placed h hc
  refine ⟨fun hx hall => ?_, fun hx hall hslot => ?_, fun hx hall hslot => ?_, fun hx hstale room => ?_,
    fun p last hx hp hl hlt horder => ?_, fun p hx hp horder => ?_⟩
  · refine lineFrame_takes ((lineArrives_idle hx hc).trans ?_)
    unfold Receiver.offered
    rw [if_neg hall]
    exact withRx_self s i
  · refine lineFrame_takes ((lineArrives_idle hx hc).trans ?_)
    unfold Receiver.offered
    rw [if_pos hall, if_pos hslot]
    rfl
  · refine lineFrame_takes ((lineArrives_idle hx hc).trans ?_)
    unfold Receiver.offered
    rw [if_pos hall, if_neg hslot]
    rfl
  · obtain ⟨u, hu, take⟩ := lineFrame_takes ((placed hx).trans (placeLine_stale hstale))
    exact ⟨_, u, hu, raise_room _ _ _ _ room, take⟩
  · have ho := (outOfOrder_running (p := p) hx hl hlt).2 horder
    exact lineFrame_takes ((placed (.inr (.inl hx))).trans (placeLine_outOfOrder hp ho))
  · have ho := (outOfOrder_silent (t := t) hx).2 horder
    exact lineFrame_takes ((placed (.inr (.inr hx))).trans (placeLine_outOfOrder hp ho))

end Sys2Proof.Machine
end

section
/-! A good line taken in WAITING or SILENT: the two ends of its handling, and what seeding, resuming and leaving it make
of the lane (R23, R31, R32). -/

namespace Sys2Proof.Machine

/-! ### What an operation leaves for the detection of a line -/

/-- What detecting a line of a lane makes of the lane's profile (R39 to R46). -/
def detectedProfile (i : LaneId) (x : Taken) (s : State) : List Column :=
  (detectColumns (s.laneEntry x.bank i) (laneBoundaries (s.detectTables x.bank) i)
    (laneThresholds (s.detectTables x.bank) i) 0 x.line.pixels (s.lane i).profile).1

theorem detectedProfile_congr {i : LaneId} {x : Taken} {s t : State}
    (ht : t.detectTables x.bank = s.detectTables x.bank) (hp : (t.lane i).profile = (s.lane i).profile) :
    detectedProfile i x t = detectedProfile i x s := by
  unfold detectedProfile State.laneEntry
  rw [ht, hp]

/-- `t` has the setup, the clock, the DETECT tables and the lane's profile of `s`. -/
structure DetectionKept (i : LaneId) (s t : State) : Prop where
  setup : t.setup = s.setup
  msTime : t.msTime = s.msTime
  profile : (t.lane i).profile = (s.lane i).profile
  tables : ∀ b, t.detectTables b = s.detectTables b

section Kept

variable {i : LaneId} {s t u : State}

theorem DetectionKept.trans (a : DetectionKept i s t) (b : DetectionKept i t u) : DetectionKept i s u :=
  ⟨b.setup.trans a.setup, b.msTime.trans a.msTime, b.profile.trans a.profile, fun c => (b.tables c).trans (a.tables c)⟩

theorem Quiet.detectionKept (q : Quiet s t) (h : Inner s t) : DetectionKept i s t :=
  ⟨h.setup, h.msTime, q.profile i, q.tables⟩

theorem DetectionKept.modRx (i : LaneId) (s : State) (f : Receiver → Receiver) : DetectionKept i s (s.modRx i f) :=
  ⟨rfl, rfl, State.modRx_profile s i i f, fun _ => rfl⟩

theorem DetectionKept.laneEntry (h : DetectionKept i s t) (b : BankId) (j : LaneId) :
    t.laneEntry b j = s.laneEntry b j := by
  unfold State.laneEntry
  rw [h.tables]

theorem DetectionKept.detected (h : DetectionKept i s t) (x : Taken) : detectedProfile i x t = detectedProfile i x s :=
  detectedProfile_congr (h.tables _) h.profile

end Kept

theorem copyIf_detectionKept (m : ForwardMode) (i : LaneId) (l : Line) (p : Option Nat) (s : State) :
    DetectionKept i s (copyIf m i l p s) := by
  obtain ⟨hstore, -, hms, hprofile⟩ := copyIf_keeps m i l p s
  exact ⟨congrArg TableStore.setup hstore, hms, hprofile i, fun b => by unfold State.detectTables; rw [hstore]⟩

/-! ### The two ends of a good line's handling (R81, R82) -/

/-- A line of the lane comes into handling. -/
def beginLine (i : LaneId) (p : Nat) (s : State) : State := s.modRx i fun r => { r with inHand := some p }

/-- The line's handling ends, and H is recomputed. -/
def endLine (i : LaneId) (s : State) : State := recomputeH (s.modRx i fun r => { r with inHand := none })

/-- A good line handled by the lane's state. -/
def handledBy (st : LaneState) (i : LaneId) (x : Taken) (s : State) : State :=
  match st with
  | .waiting => lineInWaiting i x s
  | .running => lineInRunning i x s
  | .silent => lineInSilent i x s
  | .idle => s
  | .disabled => s

theorem handleGood_eq (i : LaneId) (x : Taken) (s : State) :
    handleGood i x s = endLine i (handledBy (s.rx i).state i x (beginLine i x.position s)) := by
  have state : ((beginLine i x.position s).rx i).state = (s.rx i).state := by
    unfold beginLine
    rw [State.modRx_rx_same]
  rw [← state]
  rfl

/-- The lane at the end of a frame whose handling came to `v`. -/
theorem lineFrame_ends {i : LaneId} {f : Frame} {s v : State} (h : lineArrives i f s = endLine i v) :
    ∃ u, exec (.lineFrame i f) s = .next u ∧ AfterTake (endLine i v) u ∧
      (∃ sl lb, u.rx i = { v.rx i with inHand := none, slot := sl, lineBinding := lb }) ∧
      (u.lane i).profile = (v.lane i).profile := by
  obtain ⟨u, hu, take⟩ := lineFrame_takes h
  obtain ⟨hrx, hprofile⟩ := endGood i v
  refine ⟨u, hu, take, ⟨(u.rx i).slot, ((endLine i v).rx i).lineBinding, ?_⟩, (take_profile _ _ take i).trans hprofile⟩
  exact (take_rx _ _ take i).trans (congrArg (fun y : Receiver => { y with slot := (u.rx i).slot }) hrx)

/-! ### A line taken -/

/-- The state in which a good line has been offered to the forward slot, is in handling and has become the last taken
line: what WAITING and SILENT begin with. -/
def takenState (i : LaneId) (x : Taken) (s : State) : State :=
  (beginLine i x.position (copyIf .all i x.line (some x.position) s)).modRx i
    (Receiver.take x.line.trigger x.position)

theorem takenState_rx (i : LaneId) (x : Taken) (s : State) : ∃ sl d, (takenState i x s).rx i = { s.rx i with
    slot := sl, forwardDropped := d, inHand := some x.position, silenceTimer := 0, lastTrigger := some x.line.trigger,
    lastPosition := some x.position } := by
  obtain ⟨sl, d, h⟩ := copyIf_rx i x.line (some x.position) s
  refine ⟨sl, d, ?_⟩
  unfold takenState beginLine
  rw [State.modRx_rx_same, State.modRx_rx_same, h]
  rfl

theorem takenState_detectionKept (i : LaneId) (x : Taken) (s : State) : DetectionKept i s (takenState i x s) :=
  (copyIf_detectionKept .all i x.line _ s).trans ((DetectionKept.modRx i _ _).trans (DetectionKept.modRx i _ _))

theorem takenState_map (i : LaneId) (x : Taken) (s : State) : (takenState i x s).map = s.map :=
  (copyIf_keeps .all i x.line (some x.position) s).2.1

/-! ### Suitable lines (R23, R31) -/

theorem suitable_iff (e : LaneEntry) (l : Line) :
    suitable e l = true ↔ l.illumOk = true ∧ satCount e l.pixels ≤ e.satLimit := by
  unfold suitable
  rw [Bool.and_eq_true, decide_eq_true_eq]

theorem mustReseed_iff {i : LaneId} {s : State} (h : (s.rx i).silentSince.getD s.msTime < 2 ^ 32) :
    mustReseed i s = true ↔ (s.rx i).seeded = false ∨
      s.setup.reseedMs ≤ (s.msTime + 2 ^ 32 - (s.rx i).silentSince.getD s.msTime) % 2 ^ 32 := by
  unfold mustReseed
  rw [Bool.or_eq_true, Bool.not_eq_true', decide_eq_true_eq, Nat.mod_eq_of_lt h]

theorem lineInWaiting_suitable {i : LaneId} {x : Taken} {s : State}
    (h : suitable (s.laneEntry x.bank i) x.line = true) :
    lineInWaiting i x s = seedFrom i x (s.modRx i (Receiver.take x.line.trigger x.position)) := if_pos h

theorem lineInWaiting_unsuitable {i : LaneId} {x : Taken} {s : State}
    (h : ¬suitable (s.laneEntry x.bank i) x.line = true) :
    lineInWaiting i x s = s.modRx i (Receiver.take x.line.trigger x.position) := if_neg h

/-- A resume line taken: the gap closes at the line or at H, the lane is RUNNING, and the line is handled as there
(R31). -/
def resumeFrom (i : LaneId) (x : Taken) (s : State) : State :=
  saturateLine i x (setLaneState i .running ((closeGap i (max x.position s.map.h) s).modRx i
    fun r => { r with silenceTimer := 0, satRun := 0 }))

theorem lineInSilent_eq (i : LaneId) (x : Taken) (s : State) :
    let w := s.modRx i (Receiver.take x.line.trigger x.position)
    lineInSilent i x s = if suitable (w.laneEntry x.bank i) x.line = true then
      if mustReseed i w = true then seedFrom i x w else resumeFrom i x w else w := by
  intro w
  unfold lineInSilent
  dsimp only
  cases hs : suitable (w.laneEntry x.bank i) x.line with
  | true => rfl
  | false => rfl

/-! ### The lane after a resume (R31, R32) -/

/-- The last closed gap of a lane whose open gap closes at a position (R32). -/
def Receiver.closedAt (stop : Nat) (x : Receiver) : Option Nat :=
  match x.openGap with
  | some g => if g < stop then some (heldSum stop) else x.lastClosedGap
  | none => x.lastClosedGap

theorem closeGap_rx_same (i : LaneId) (stop : Nat) (s : State) : ∃ b, (closeGap i stop s).rx i =
    { s.rx i with openGap := none, lastClosedGap := (s.rx i).closedAt stop, lastGapStart := b } := by
  have h := closeGap_rx i i stop s
  rw [if_pos rfl] at h
  rw [h]
  unfold Receiver.closedAt
  cases hg : (s.rx i).openGap with
  | none =>
    have same : s.rx i = { s.rx i with openGap := none } := by rw [← hg]
    exact ⟨(s.rx i).lastGapStart, same⟩
  | some g =>
    dsimp only
    by_cases hlt : g < stop
    · exact ⟨_, by rw [if_pos hlt, if_pos hlt]⟩
    · exact ⟨(s.rx i).lastGapStart, by rw [if_neg hlt, if_neg hlt]⟩

theorem closeMapGap_store (i : LaneId) (a b : Nat) (s : State) : (closeMapGap i a b s).store = s.store := by
  unfold closeMapGap
  split
  · split <;> rfl
  · split <;> rfl

theorem closeGap_store (i : LaneId) (stop : Nat) (s : State) : (closeGap i stop s).store = s.store := by
  unfold closeGap
  split
  · rfl
  · dsimp only
    split <;> exact closeMapGap_store _ _ _ _

theorem closeGap_detectionKept (i : LaneId) (stop : Nat) (s : State) : DetectionKept i s (closeGap i stop s) := by
  refine ⟨?_, (closeGap_inner i stop s).msTime, closeGap_profile i i stop s, fun b => ?_⟩
  · rw [State.setup, closeGap_store]
  · unfold State.detectTables
    rw [closeGap_store]

theorem saturateLine_low {i : LaneId} {x : Taken} {s : State}
    (h : satCount (s.laneEntry x.bank i) x.line.pixels ≤ (s.laneEntry x.bank i).satLimit) :
    saturateLine i x s = inspectLine i x (s.modRx i fun r => { r with satRun := 0 }) := if_pos h

/-- A line detected with its saturation run set: the lane keeps the rest of its receiver but for the forward slot and
its line binding. -/
theorem inspectLine_satRun (i : LaneId) (x : Taken) (s : State) (k : Nat) :
    let u := inspectLine i x (s.modRx i fun r => { r with satRun := k })
    (∃ sl d lb, u.rx i = { s.rx i with satRun := k, slot := sl, forwardDropped := d, lineBinding := lb }) ∧
      (u.lane i).profile = detectedProfile i x s := by
  obtain ⟨⟨sl, d, lb, hrx⟩, hprofile⟩ := inspect_spec i x (s.modRx i fun r => { r with satRun := k })
  rw [State.modRx_rx_same] at hrx
  exact ⟨⟨sl, d, lb, hrx⟩, hprofile.trans ((DetectionKept.modRx i s _).detected x)⟩

/-- The lane as a resume line finds it RUNNING, before the line is handled there. -/
def resumedState (i : LaneId) (x : Taken) (s : State) : State :=
  setLaneState i .running ((closeGap i (max x.position s.map.h) s).modRx i
    fun r => { r with silenceTimer := 0, satRun := 0 })

theorem resumedState_rx (i : LaneId) (x : Taken) (s : State) : ∃ b lb, (resumedState i x s).rx i = { s.rx i with
    state := .running, openGap := none, lastClosedGap := (s.rx i).closedAt (max x.position s.map.h),
    lastGapStart := b, silenceTimer := 0, satRun := 0, lineBinding := lb } := by
  obtain ⟨b, hclosed⟩ := closeGap_rx_same i (max x.position s.map.h) s
  have hrx := quiet_rx (setLaneState_quiet i .running ((closeGap i (max x.position s.map.h) s).modRx i
    fun r => { r with silenceTimer := 0, satRun := 0 })) i
  rw [State.modRx_rx_same, State.modRx_rx_same, hclosed] at hrx
  exact ⟨b, _, hrx⟩

theorem resumedState_detectionKept (i : LaneId) (x : Taken) (s : State) : DetectionKept i s (resumedState i x s) :=
  (closeGap_detectionKept i _ s).trans ((DetectionKept.modRx i _ _).trans ((DetectionKept.modRx i _ _).trans
    ((recomputeH_quiet _).detectionKept (recomputeH_inner _))))

theorem resumeFrom_spec {i : LaneId} {x : Taken} {s : State}
    (h : satCount (s.laneEntry x.bank i) x.line.pixels ≤ (s.laneEntry x.bank i).satLimit) :
    (∃ sl d lb b, (resumeFrom i x s).rx i = { s.rx i with
      state := .running, openGap := none, lastClosedGap := (s.rx i).closedAt (max x.position s.map.h),
      lastGapStart := b, silenceTimer := 0, satRun := 0, slot := sl, forwardDropped := d, lineBinding := lb }) ∧
    ((resumeFrom i x s).lane i).profile = detectedProfile i x s := by
  obtain ⟨b, lb, hrx⟩ := resumedState_rx i x s
  have kept := resumedState_detectionKept i x s
  have low : resumeFrom i x s = inspectLine i x ((resumedState i x s).modRx i fun r => { r with satRun := 0 }) :=
    saturateLine_low (s := resumedState i x s) (by rw [kept.laneEntry]; exact h)
  obtain ⟨⟨sl, d, lb', hinspected⟩, hdetected⟩ := inspectLine_satRun i x (resumedState i x s) 0
  rw [low]
  exact ⟨⟨sl, d, lb', b, by rw [hinspected, hrx]⟩, hdetected.trans (kept.detected x)⟩

/-! ### The statement -/

theorem outOfOrder_waiting {x : Receiver} {t p : Nat} (hx : x.state = .waiting) : outOfOrder x t p = false := by
  unfold outOfOrder
  rw [hx]

/-- A good line in WAITING or SILENT, by what it comes to. -/
theorem lineArrives_taken {i : LaneId} {f : Frame} {s : State} {x : Taken}
    (hs : (s.rx i).state = .waiting ∨ (s.rx i).state = .silent)
    (h : lineArrives i f s = handleGood i x (copyIf .all i x.line (some x.position) s)) :
    let w := takenState i x s
    let fits := suitable (s.laneEntry x.bank i) x.line = true
    (¬fits → lineArrives i f s = endLine i w) ∧
    (fits → (s.rx i).state = .waiting ∨ mustReseed i w = true → lineArrives i f s = endLine i (seedFrom i x w)) ∧
    (fits → (s.rx i).state = .silent → ¬mustReseed i w = true → lineArrives i f s = endLine i (resumeFrom i x w)) := by
  intro w fits
  obtain ⟨sl, d, hcopy⟩ := copyIf_rx i x.line (some x.position) s
  have state : ((copyIf .all i x.line (some x.position) s).rx i).state = (s.rx i).state := by rw [hcopy]
  have entry : (beginLine i x.position (copyIf .all i x.line (some x.position) s)).laneEntry x.bank i =
      s.laneEntry x.bank i :=
    ((copyIf_detectionKept .all i x.line _ s).trans (DetectionKept.modRx i _ _)).laneEntry _ _
  have entry' : w.laneEntry x.bank i = s.laneEntry x.bank i := (takenState_detectionKept i x s).laneEntry _ _
  rw [h, handleGood_eq, state]
  have silent : handledBy .silent i x (beginLine i x.position (copyIf .all i x.line (some x.position) s)) =
      if suitable (w.laneEntry x.bank i) x.line = true then
        if mustReseed i w = true then seedFrom i x w else resumeFrom i x w else w := lineInSilent_eq i x _
  refine ⟨fun hfit => ?_, fun hfit hseed => ?_, fun hfit hst hmust => ?_⟩
  · rcases hs with hst | hst
    · rw [hst]
      exact congrArg (endLine i) (lineInWaiting_unsuitable (by rw [entry]; exact hfit))
    · rw [hst, silent, entry', if_neg hfit]
  · rcases hs with hst | hst
    · rw [hst]
      exact congrArg (endLine i) (lineInWaiting_suitable (by rw [entry]; exact hfit))
    · rw [hst, silent, entry', if_pos hfit, if_pos (hseed.resolve_left (by rw [hst]; exact nofun))]
  · rw [hst, silent, entry', if_pos hfit, if_neg hmust]

/-- Settles O43: the line is taken, and seeds, resumes, or is left. -/
theorem seedAndResume : Obligations.SeedAndResume := by
  unfold Obligations.SeedAndResume
  intro i s t n flags payload ftype crc ht hn hlen body f x cmd p b hcrc hfour hp hb hcount hhand hglass e px
    suits stop inOrder since long taken hsince
  let y : Taken := ⟨⟨t, n, flags, payload⟩, p, b, decide (p < s.map.h)⟩
  obtain ⟨sl, d, hw⟩ := takenState_rx i y s
  have kept := takenState_detectionKept i y s
  have hmap := takenState_map i y s
  have entry : (takenState i y s).laneEntry b i = e := kept.laneEntry b i
  have fits : suitable e y.line = true ↔ suits := suitable_iff e y.line
  have reseed : mustReseed i (takenState i y s) = true ↔ long := by
    have := mustReseed_iff (i := i) (s := takenState i y s) (by rw [hw, kept.msTime]; exact hsince)
    rw [hw, kept.msTime, kept.setup] at this
    exact this
  have arrives : x.state = .waiting ∨ (x.state = .silent ∧ inOrder) →
      lineArrives i f s = handleGood i y (copyIf .all i y.line (some p) s) := fun hx => by
    refine lineArrives_good (hx.imp_right fun h => .inr h.1) (parse_good ht hn hlen hcrc hfour) hb hcount hp ?_
    rcases hx with hx | ⟨hx, hlast, hgap⟩
    · exact outOfOrder_waiting hx
    · rw [← Bool.not_eq_true, outOfOrder_silent hx]
      rintro (⟨last, hl, hle⟩ | ⟨g, hg, hlt⟩)
      · have := hlast last hl; omega
      · have := hgap g hg; omega
  have outcome := fun hx => lineArrives_taken (hx.imp_right And.left) (arrives hx)
  refine ⟨fun hx hsuits => ?_, fun hx horder hshort hsuits => ?_, fun hx hsuits => ?_⟩
  · obtain ⟨-, seeds, -⟩ := outcome (hx.imp_right fun h => ⟨h.1, h.2.1⟩)
    obtain ⟨u, hu, -, ⟨sl', lb, hrx⟩, hseeded⟩ :=
      lineFrame_ends (seeds (fits.2 hsuits) (hx.imp_right fun h => reseed.2 h.2.2))
    obtain ⟨hstate, hmark, hgap, htrigger, hposition, htimer, hclosed, hseed⟩ := seedFrom_spec i y (takenState i y s)
    rw [hw] at htrigger hposition htimer hclosed
    rw [hmap, kept.setup] at hclosed
    rw [entry, kept.profile] at hseed
    refine ⟨u, hu, ?_, ?_, ?_, ?_, ?_, hseeded.trans hseed⟩
    · show _ ∧ _ ∧ _
      rw [hrx]
      exact ⟨htrigger, hposition, htimer⟩
    all_goals rw [hrx]
    · exact hstate
    · exact hmark
    · exact hgap
    · exact hclosed
  · obtain ⟨-, -, resumes⟩ := outcome (.inr ⟨hx, horder⟩)
    obtain ⟨u, hu, -, ⟨sl', lb, hrx⟩, hdetected⟩ :=
      lineFrame_ends (resumes (fits.2 hsuits) hx fun h => hshort (reseed.1 h))
    obtain ⟨⟨sl'', d', lb', g, hresumed⟩, hdetect⟩ :=
      resumeFrom_spec (i := i) (x := y) (s := takenState i y s) (by rw [entry]; exact hsuits.2)
    rw [hresumed, hw, hmap] at hrx
    refine ⟨u, hu, ?_, ?_, ?_, ?_, ?_, hdetected.trans (hdetect.trans (kept.detected y))⟩
    · show _ ∧ _ ∧ _
      rw [hrx]
      exact ⟨rfl, rfl, rfl⟩
    · rw [hrx]
    · rw [hrx]
    · rw [hrx]
    · intro g hg
      rw [hrx]
      unfold Receiver.closedAt
      dsimp only
      rw [hg]
  · obtain ⟨leaves, -, -⟩ := outcome hx
    obtain ⟨u, hu, -, ⟨sl', lb, hrx⟩, hkept⟩ := lineFrame_ends (leaves fun h => hsuits (fits.1 h))
    rw [hw] at hrx
    refine ⟨u, hu, ?_, ?_, ?_, ?_, hkept.trans kept.profile⟩
    · show _ ∧ _ ∧ _
      rw [hrx]
      exact ⟨rfl, rfl, rfl⟩
    all_goals rw [hrx]

end Sys2Proof.Machine
end

section
/-! A good line in RUNNING: missing lines, lamp-out, the saturation run, and detection above or below the horizon (R25
to R28). -/

namespace Sys2Proof.Machine

/-! ### What missing lines leave for the line itself -/

theorem enterClosedGap_quiet (i : LaneId) (a b : Nat) (s : State) : Quiet s (enterClosedGap i a b s).1 := by
  unfold enterClosedGap
  split
  · exact Quiet.refl s
  · split
    · exact Quiet.map s _
    · split
      · exact Quiet.map s _
      · exact (Quiet.map s _).trans (raise_quiet _ _ _ _ _)

theorem closedGap_detectionKept (i : LaneId) (a b : Nat) (s : State) : DetectionKept i s (closedGap i a b s) := by
  unfold closedGap
  split
  · refine ((enterClosedGap_quiet i a b s).detectionKept (enterClosedGap_inner i a b s)).trans ?_
    exact (DetectionKept.modRx i _ _).trans ((Quiet.count _ _).detectionKept (Inner.count _ _))
  · exact (Quiet.refl s).detectionKept (Inner.refl s)

theorem trackIdle_detectionKept (i : LaneId) (n : Nat) (s : State) : DetectionKept i s (trackIdle i n s) :=
  (trackIdle_quiet i n s).detectionKept (trackIdle_inner i n s)

theorem finishOldBank_quiet (i : LaneId) (t : Nat) (s : State) : Quiet s (finishOldBank i t s) := by
  unfold finishOldBank
  split
  · split
    · exact releaseLineBinding_quiet i s
    · exact Quiet.refl s
  · exact Quiet.refl s

/-! ### Missing lines (R25) -/

/-- The number of missing lines, as the model forms it, is the difference modulo 65536. -/
theorem missingBefore_eq {t last : Nat} (h : last < 65536) :
    missingBefore t last = (((t : Int) - last - 1) % 65536).toNat := by
  unfold missingBefore
  omega

section Missing

variable {i : LaneId} {t p last : Nat} {s : State}

theorem handleMissing_none (h : (s.rx i).lastTrigger = some last) (hm : missingBefore t last = 0) :
    handleMissing i t p s = s := by
  unfold handleMissing
  rw [h]
  exact if_pos hm

theorem handleMissing_some (h : (s.rx i).lastTrigger = some last) (hm : missingBefore t last ≠ 0) :
    handleMissing i t p s = closedGap i (lastGlass i s) p (trackIdle i (missingBefore t last)
      ((raise .laneSequence (some i) (missingBefore t last) t s).modRx i fun x =>
        { x with missing := satAdd Config.max32 x.missing (missingBefore t last) })) := by
  unfold handleMissing
  rw [h]
  exact if_neg hm

/-- The lane after the missing lines: its missing counter, and its last closed gap. -/
theorem handleMissing_rx (h : (s.rx i).lastTrigger = some last) : ∃ g b lb, (handleMissing i t p s).rx i = { s.rx i with
    missing := if missingBefore t last = 0 then (s.rx i).missing
      else satAdd Config.max32 (s.rx i).missing (missingBefore t last),
    lastClosedGap := g, lastGapStart := b, lineBinding := lb } := by
  by_cases hm : missingBefore t last = 0
  · rw [handleMissing_none h hm, if_pos hm]
    exact ⟨_, _, _, rfl⟩
  · rw [handleMissing_some h hm, if_neg hm]
    obtain ⟨-, ⟨g, b, hgap⟩, -⟩ := closedGap_take i (lastGlass i s) p (trackIdle i (missingBefore t last)
      ((raise .laneSequence (some i) (missingBefore t last) t s).modRx i fun x =>
        { x with missing := satAdd Config.max32 x.missing (missingBefore t last) }))
    rw [quiet_rx (trackIdle_quiet i _ _) i, State.modRx_rx_same, raise_rx] at hgap
    exact ⟨g, b, _, hgap⟩

theorem handleMissing_detectionKept (i : LaneId) (t p : Nat) (s : State) :
    DetectionKept i s (handleMissing i t p s) := by
  unfold handleMissing
  split
  · exact (Quiet.refl s).detectionKept (Inner.refl s)
  · dsimp only
    split
    · exact (Quiet.refl s).detectionKept (Inner.refl s)
    · refine DetectionKept.trans ?_ (closedGap_detectionKept i _ _ _)
      refine DetectionKept.trans ?_ (trackIdle_detectionKept i _ _)
      exact ((raise_quiet _ _ _ _ s).detectionKept (raise_inner _ _ _ _ s)).trans (DetectionKept.modRx i _ _)

/-- With room for its notice, LANE_SEQUENCE is raised before the missing lines are handed and their gap is entered. -/
theorem handleMissing_raised {q : Nat} (h : (s.rx i).lastTrigger = some last) (hq : (s.rx i).lastPosition = some q)
    (hm : missingBefore t last ≠ 0) (room : hasRoom s) :
    ∃ v, Raised .laneSequence (some i) (missingBefore t last) t s v ∧
      handleMissing i t p s = closedGap i (q + s.setup.linePitch) p (trackIdle i (missingBefore t last)
        (v.setLane i { s.lane i with rx := { s.rx i with
          missing := satAdd Config.max32 (s.rx i).missing (missingBefore t last) } })) := by
  refine ⟨_, raise_room _ _ _ _ room, ?_⟩
  rw [handleMissing_some h hm, lastGlass_some hq, modRx_eq_withRx, raise_rx, State.withRx,
    lane_of_lanes (raise_lanes _ _ _ _ _)]

end Missing

/-! ### The saturation run (R28) -/

section Saturation

variable {i : LaneId} {x : Taken} {s : State}

theorem saturateLine_counts
    (h : (s.laneEntry x.bank i).satLimit < satCount (s.laneEntry x.bank i) x.line.pixels) (hr : (s.rx i).satRun < 15) :
    saturateLine i x s = inspectLine i x (s.modRx i fun r => { r with satRun := (s.rx i).satRun + 1 }) := by
  unfold saturateLine
  exact (if_neg (Nat.not_le.2 h)).trans (if_pos hr)

theorem saturateLine_full
    (h : (s.laneEntry x.bank i).satLimit < satCount (s.laneEntry x.bank i) x.line.pixels) (hr : (s.rx i).satRun = 15) :
    saturateLine i x s = enterSilent i x.position (raise .laneSaturated (some i)
      (satCount (s.laneEntry x.bank i) x.line.pixels) (s.laneEntry x.bank i).satLimit
      (s.modRx i fun r => { r with satRun := 16 })) := by
  unfold saturateLine
  exact (if_neg (Nat.not_le.2 h)).trans (if_neg (by omega))

/-- The 16th consecutive saturated line: the lane after its entry to SILENT. -/
theorem saturateLine_full_spec
    (h : (s.laneEntry x.bank i).satLimit < satCount (s.laneEntry x.bank i) x.line.pixels) (hr : (s.rx i).satRun = 15) :
    (∃ lb, (saturateLine i x s).rx i = { s.rx i with
      openGap := some ((s.rx i).openGap.getD x.position), silentSince := some s.msTime, satRun := 0, state := .silent,
      lineBinding := lb }) ∧
    ((saturateLine i x s).lane i).profile = (s.lane i).profile := by
  rw [saturateLine_full h hr]
  obtain ⟨⟨lb, hrx⟩, hprofile⟩ := enterSilent_spec i x.position (raise .laneSaturated (some i)
    (satCount (s.laneEntry x.bank i) x.line.pixels) (s.laneEntry x.bank i).satLimit
    (s.modRx i fun r => { r with satRun := 16 }))
  rw [raise_rx, State.modRx_rx_same, (raise_inner _ _ _ _ _).msTime] at hrx
  rw [(raise_quiet _ _ _ _ _).profile, State.modRx_profile] at hprofile
  exact ⟨⟨lb, hrx⟩, hprofile⟩

end Saturation

/-! ### A line in RUNNING -/

/-- The state in which the old bank is finished, the missing lines are handled and the line is the last taken one. -/
def revealedState (i : LaneId) (x : Taken) (s : State) : State :=
  (handleMissing i x.line.trigger x.position (finishOldBank i x.line.trigger s)).modRx i
    (Receiver.take x.line.trigger x.position)

theorem revealedState_detectionKept (i : LaneId) (x : Taken) (s : State) :
    DetectionKept i s (revealedState i x s) :=
  (((finishOldBank_quiet i _ s).detectionKept (finishOldBank_inner i _ s)).trans
    (handleMissing_detectionKept i _ _ _)).trans (DetectionKept.modRx i _ _)

theorem revealedState_rx {i : LaneId} {x : Taken} {s : State} {last : Nat} (h : (s.rx i).lastTrigger = some last) :
    ∃ g b lb, (revealedState i x s).rx i = { s.rx i with
      silenceTimer := 0, lastTrigger := some x.line.trigger, lastPosition := some x.position,
      missing := if missingBefore x.line.trigger last = 0 then (s.rx i).missing
        else satAdd Config.max32 (s.rx i).missing (missingBefore x.line.trigger last),
      lastClosedGap := g, lastGapStart := b, lineBinding := lb } := by
  have hold := quiet_rx (finishOldBank_quiet i x.line.trigger s) i
  obtain ⟨g, b, lb, hrx⟩ := handleMissing_rx (i := i) (t := x.line.trigger) (p := x.position) (last := last)
    (s := finishOldBank i x.line.trigger s) (by rw [hold]; exact h)
  refine ⟨g, b, lb, ?_⟩
  unfold revealedState
  rw [State.modRx_rx_same, hrx, hold]
  rfl

theorem lineInRunning_lit {i : LaneId} {x : Taken} {s : State} (h : x.line.illumOk = true) :
    lineInRunning i x s = saturateLine i x (revealedState i x s) := if_pos h

theorem lineInRunning_dark {i : LaneId} {x : Taken} {s : State} (h : ¬x.line.illumOk = true) :
    lineInRunning i x s =
      closedGap i x.position (x.position + s.setup.linePitch) (trackIdle i 1 (revealedState i x s)) := by
  have hsetup := (revealedState_detectionKept i x s).setup
  rw [← hsetup]
  exact if_neg h

/-! ### The lane after a line in RUNNING -/

section Running

variable {i : LaneId} {x : Taken} {s : State} {last : Nat}

/-- The line is the last taken one, and the missing lines before it are counted. -/
theorem lineInRunning_took (h : (s.rx i).lastTrigger = some last) :
    ((lineInRunning i x s).rx i).lastTrigger = some x.line.trigger ∧
    ((lineInRunning i x s).rx i).lastPosition = some x.position ∧ ((lineInRunning i x s).rx i).silenceTimer = 0 ∧
    ((lineInRunning i x s).rx i).missing = if missingBefore x.line.trigger last = 0 then (s.rx i).missing
      else satAdd Config.max32 (s.rx i).missing (missingBefore x.line.trigger last) := by
  obtain ⟨g, b, lb, hrx⟩ := revealedState_rx (x := x) h
  have same : sameTake ((revealedState i x s).rx i) ((lineInRunning i x s).rx i) := by
    by_cases hlit : x.line.illumOk = true
    · rw [lineInRunning_lit hlit]
      exact saturate_take i x _
    · rw [lineInRunning_dark hlit]
      exact ((trackIdle_quiet i 1 _).rx i).take.trans (closedGap_take i _ _ _).1
  rw [hrx] at same
  exact same

theorem lineInRunning_low (h : (s.rx i).lastTrigger = some last) (hlit : x.line.illumOk = true)
    (hsat : satCount (s.laneEntry x.bank i) x.line.pixels ≤ (s.laneEntry x.bank i).satLimit) :
    ((lineInRunning i x s).rx i).state = (s.rx i).state ∧ ((lineInRunning i x s).rx i).satRun = 0 ∧
    ((lineInRunning i x s).lane i).profile = detectedProfile i x s := by
  obtain ⟨g, b, lb, hrx⟩ := revealedState_rx (x := x) h
  have kept := revealedState_detectionKept i x s
  rw [lineInRunning_lit hlit, saturateLine_low (by rw [kept.laneEntry]; exact hsat)]
  obtain ⟨⟨sl, d, lb', hdetected⟩, hprofile⟩ := inspectLine_satRun i x (revealedState i x s) 0
  rw [hdetected, hrx]
  exact ⟨rfl, rfl, hprofile.trans (kept.detected x)⟩

theorem lineInRunning_counts (h : (s.rx i).lastTrigger = some last) (hlit : x.line.illumOk = true)
    (hsat : (s.laneEntry x.bank i).satLimit < satCount (s.laneEntry x.bank i) x.line.pixels)
    (hr : (s.rx i).satRun < 15) :
    ((lineInRunning i x s).rx i).state = (s.rx i).state ∧
    ((lineInRunning i x s).rx i).satRun = (s.rx i).satRun + 1 ∧
    ((lineInRunning i x s).lane i).profile = detectedProfile i x s := by
  obtain ⟨g, b, lb, hrx⟩ := revealedState_rx (x := x) h
  have kept := revealedState_detectionKept i x s
  rw [lineInRunning_lit hlit, saturateLine_counts (by rw [kept.laneEntry]; exact hsat) (by rw [hrx]; exact hr)]
  obtain ⟨⟨sl, d, lb', hdetected⟩, hprofile⟩ :=
    inspectLine_satRun i x (revealedState i x s) (((revealedState i x s).rx i).satRun + 1)
  refine ⟨?_, ?_, hprofile.trans (kept.detected x)⟩
  · rw [hdetected, hrx]
  · rw [hdetected, hrx]

theorem lineInRunning_full (h : (s.rx i).lastTrigger = some last) (hlit : x.line.illumOk = true)
    (hsat : (s.laneEntry x.bank i).satLimit < satCount (s.laneEntry x.bank i) x.line.pixels)
    (hr : (s.rx i).satRun = 15) :
    ((lineInRunning i x s).rx i).state = .silent ∧ ((lineInRunning i x s).rx i).satRun = 0 ∧
    ((lineInRunning i x s).rx i).openGap = some ((s.rx i).openGap.getD x.position) ∧
    ((lineInRunning i x s).rx i).silentSince = some s.msTime ∧
    ((lineInRunning i x s).lane i).profile = (s.lane i).profile := by
  obtain ⟨g, b, lb, hrx⟩ := revealedState_rx (x := x) h
  have kept := revealedState_detectionKept i x s
  rw [lineInRunning_lit hlit]
  obtain ⟨⟨lb', hsilent⟩, hprofile⟩ := saturateLine_full_spec (i := i) (x := x) (s := revealedState i x s)
    (by rw [kept.laneEntry]; exact hsat) (by rw [hrx]; exact hr)
  rw [hsilent, hrx, kept.msTime]
  exact ⟨rfl, rfl, rfl, rfl, hprofile.trans kept.profile⟩

/-- A line with its lamp out: taken, and treated as missing (R26). -/
theorem lineInRunning_lampOut (h : (s.rx i).lastTrigger = some last) (hlit : ¬x.line.illumOk = true) :
    ((lineInRunning i x s).rx i).state = (s.rx i).state ∧ ((lineInRunning i x s).rx i).satRun = (s.rx i).satRun ∧
    ((lineInRunning i x s).lane i).profile = (s.lane i).profile := by
  obtain ⟨g, b, lb, hrx⟩ := revealedState_rx (x := x) h
  have kept := revealedState_detectionKept i x s
  rw [lineInRunning_dark hlit]
  obtain ⟨-, ⟨g', b', hgap⟩, hprofile⟩ := closedGap_take i x.position (x.position + s.setup.linePitch)
    (trackIdle i 1 (revealedState i x s))
  rw [hgap, quiet_rx (trackIdle_quiet i 1 _) i, hrx]
  exact ⟨rfl, rfl, hprofile.trans ((trackIdle_quiet i 1 _).profile i |>.trans kept.profile)⟩

end Running

/-- A good line in RUNNING, in order: its handling, from its arrival to the recomputation of H. -/
theorem lineArrives_running {i : LaneId} {f : Frame} {s : State} {x : Taken} (hs : (s.rx i).state = .running)
    (h : lineArrives i f s = handleGood i x (copyIf .all i x.line (some x.position) s)) :
    lineArrives i f s = endLine i (lineInRunning i x
      (beginLine i x.position (copyIf .all i x.line (some x.position) s))) := by
  obtain ⟨sl, d, hcopy⟩ := copyIf_rx i x.line (some x.position) s
  rw [h, handleGood_eq, hcopy, hs]
  rfl

/-! ### Detection, at or above the horizon and below it (R27, R35) -/

/-- A line with runs is offered to the forward slot under mode HITS. -/
theorem inspectLine_eq (i : LaneId) (x : Taken) (s : State) : inspectLine i x s =
    let r := detectLine i x.bank x.line s
    let handed := if x.behind then
        (trackIdle i 1 r.1).count fun c => { c with behindHorizon := bump32 c.behindHorizon }
      else
        (trackRuns i x.bank x.position x.line.trigger r.2 r.1).count fun c =>
          { c with linesInspected := c.linesInspected.set i (bump32 (c.linesInspected.get i)) }
    if r.2 = [] then handed else copyIf .hits i x.line (some x.position) handed := by
  unfold inspectLine
  simp only [List.isEmpty_iff]

/-- Settles O44: the lane and the course of a line in RUNNING, the missing lines, and what detection hands. -/
theorem runningLine : Obligations.RunningLine := by
  unfold Obligations.RunningLine
  refine ⟨?_, fun i t p last q s ht hlast hlt hq => ?_, fun i x s => ?_⟩
  · intro i s t n flags payload ftype crc ht hn hlen body f x cmd p last b hcrc hfour hp hb hcount hhand hrun hlast
      hlt hahead hnear e px lit sat m after line took began revealed taken ended
    have order : outOfOrder x t p = false := by
      rw [← Bool.not_eq_true, outOfOrder_running hrun hlast hlt]
      omega
    have arrives : lineArrives i f s = endLine i (lineInRunning i took began) :=
      lineArrives_running hrun
        (lineArrives_good (.inr (.inl hrun)) (parse_good ht hn hlen hcrc hfour) hb hcount hp order)
    obtain ⟨sl, d, hcopy⟩ := copyIf_rx i line (some p) s
    have hbegan : began.rx i = { x with slot := sl, forwardDropped := d, inHand := some p } :=
      (State.modRx_rx_same _ i _).trans (by rw [hcopy])
    have kept : DetectionKept i s began :=
      (copyIf_detectionKept .all i line (some p) s).trans (DetectionKept.modRx i _ _)
    have entry : began.laneEntry b i = e := kept.laneEntry b i
    have began_last : (began.rx i).lastTrigger = some last := by rw [hbegan]; exact hlast
    obtain ⟨u, hu, take, ⟨sl', lb, hrx⟩, hprofile⟩ := lineFrame_ends arrives
    obtain ⟨htrigger, hposition, htimer, hmissing⟩ := lineInRunning_took (x := took) began_last
    have hm : missingBefore took.line.trigger last = m := missingBefore_eq hlt
    rw [hm, hbegan] at hmissing
    have glass : p + began.setup.linePitch = p + s.setup.linePitch := by rw [kept.setup]
    refine ⟨u, hu, fun hlit => ?_, fun hlit => ?_, ?_⟩
    · rw [lineInRunning_lit (x := took) hlit] at take
      exact take
    · rw [lineInRunning_dark (x := took) hlit, glass] at take
      exact take
    rw [hrx, hprofile]
    refine ⟨htrigger, hposition, htimer, hmissing, fun hlit hsat => ?_, fun hlit hsat hr => ?_, fun hlit hsat hr => ?_,
      fun hlit => ?_⟩
    · obtain ⟨hstate, hsatRun, hdetected⟩ := lineInRunning_low (x := took) began_last hlit (by rw [entry]; exact hsat)
      rw [hbegan] at hstate
      exact ⟨hstate.trans hrun, hsatRun, hdetected.trans (kept.detected took)⟩
    · obtain ⟨hstate, hsatRun, hdetected⟩ :=
        lineInRunning_counts (x := took) began_last hlit (by rw [entry]; exact hsat) (by rw [hbegan]; exact hr)
      rw [hbegan] at hstate hsatRun
      exact ⟨hstate.trans hrun, hsatRun, hdetected.trans (kept.detected took)⟩
    · obtain ⟨hstate, hsatRun, hgap, hsince, hkept⟩ :=
        lineInRunning_full (x := took) began_last hlit (by rw [entry]; exact hsat) (by rw [hbegan]; exact hr)
      rw [hbegan] at hgap
      rw [kept.msTime] at hsince
      exact ⟨hstate, hsatRun, hgap, hsince, hkept.trans kept.profile⟩
    · obtain ⟨hstate, hsatRun, hkept⟩ := lineInRunning_lampOut (x := took) began_last hlit
      rw [hbegan] at hstate hsatRun
      exact ⟨hstate.trans hrun, hsatRun, hkept.trans kept.profile⟩
  · rw [← missingBefore_eq hlast]
    exact ⟨handleMissing_none hlt, fun hm room => handleMissing_raised hlt hq (by omega) room⟩
  · intro r shown idle handed
    refine ⟨fun hb => ?_, fun hb => ?_, ?_, fun k => ⟨rfl, rfl⟩⟩
    · rw [inspectLine_eq, hb]
      rfl
    · rw [inspectLine_eq, hb]
      rfl
    · intro e n run
      exact ⟨saturateLine_low, saturateLine_counts, fun hn hr room =>
        ⟨_, raise_room (s := run 16) _ _ _ _ room, saturateLine_full hn hr⟩⟩

end Sys2Proof.Machine
end

section
/-! Silence and a lane link's reports: the entry to SILENT, and when a lane makes it (R29, R30). -/

namespace Sys2Proof.Machine

theorem exec_silenceTimerExpiry (i : LaneId) (s : State) : exec (.silenceTimerExpiry i) s = done (silenceExpiry i s) :=
  rfl

theorem exec_laneLinkDown (i : LaneId) (s : State) : exec (.laneLinkDown i) s = done (linkDown i s) := rfl

theorem exec_laneLinkUp (i : LaneId) (s : State) :
    exec (.laneLinkUp i) s = done (s.modRx i fun x => { x with link := .up }) := rfl

/-! ### The entry to SILENT (R29) -/

/-- Step 1 of the entry: a RUNNING lane flushes its open blobs. -/
def flushRunning (i : LaneId) (s : State) : State := if (s.rx i).state = .running then flush i s else s

theorem flushRunning_quiet (i : LaneId) (s : State) : Quiet s (flushRunning i s) := by
  unfold flushRunning
  split
  · exact flush_quiet i s
  · exact Quiet.refl s

theorem flushRunning_inner (i : LaneId) (s : State) : Inner s (flushRunning i s) := by
  unfold flushRunning
  split
  · exact flush_inner i s
  · exact Inner.refl s

theorem flushRunning_openGap (i : LaneId) (s : State) : ((flushRunning i s).rx i).openGap = (s.rx i).openGap := by
  rw [quiet_rx (flushRunning_quiet i s) i]

/-- Steps 3 and 4 of the entry, in a state whose clock is the entry's. -/
def silenceFrom (i : LaneId) (time : Nat) (s : State) : State :=
  setLaneState i .silent (releaseLineBinding i (s.modRx i fun x => { x with silentSince := some time, satRun := 0 }))

theorem enterSilent_eq (i : LaneId) (g : Nat) (s : State) : enterSilent i g s =
    silenceFrom i s.msTime (if (s.rx i).openGap = none then openGap i g (flushRunning i s) else flushRunning i s) := by
  have flushed : (if ((s.rx i).state == .running) = true then flush i s else s) = flushRunning i s :=
    if_congr beq_iff_eq rfl rfl
  have time : (openGapIfNone i g (flushRunning i s)).msTime = s.msTime :=
    ((flushRunning_inner i s).trans (openGapIfNone_inner i g _)).msTime
  unfold enterSilent
  dsimp only
  rw [flushed, time, openGapIfNone_eq, flushRunning_openGap]
  rfl

/-- A lane that has a gap keeps it, whatever start the cause gives. -/
theorem enterSilent_open {i : LaneId} {s : State} (h : (s.rx i).openGap ≠ none) (a b : Nat) :
    enterSilent i a s = enterSilent i b s := by
  rw [enterSilent_eq, enterSilent_eq, if_neg h, if_neg h]

/-! ### Falling silent (R30) -/

/-- The start of the open gap of a lane that falls silent: the gap it has, or the end of its last glass. -/
def gapStart (i : LaneId) (s : State) : Nat := (s.rx i).openGap.getD ((s.rx i).lastPosition.getD 0 + s.setup.linePitch)

theorem goSilent_eq {i : LaneId} {s : State} (cause : Nat)
    (h : (s.rx i).openGap = none → (s.rx i).lastPosition ≠ none ∧
      (s.rx i).lastPosition.getD 0 + s.setup.linePitch < 2 ^ 48) :
    goSilent i cause s = raise .laneSilent (some i) cause (gapStart i s % 2 ^ 32) (enterSilent i (gapStart i s) s) := by
  have entered : enterSilent i (heldSum (lastGlass i s)) s = enterSilent i (gapStart i s) s := by
    by_cases hg : (s.rx i).openGap = none
    · obtain ⟨hp, hlt⟩ := h hg
      obtain ⟨p, hp⟩ := Option.ne_none_iff_exists'.1 hp
      have start : gapStart i s = p + s.setup.linePitch := by
        unfold gapStart
        rw [hg, hp]
        rfl
      rw [hp] at hlt
      rw [lastGlass_some hp, start]
      exact congrArg (enterSilent i · s) (heldSum_of_lt hlt)
    · exact enterSilent_open hg _ _
  have gap : ((enterSilent i (gapStart i s) s).rx i).openGap = some (gapStart i s) := by
    obtain ⟨⟨lb, hrx⟩, -⟩ := enterSilent_spec i (gapStart i s) s
    rw [hrx]
    unfold gapStart
    cases (s.rx i).openGap <;> rfl
  unfold goSilent
  dsimp only
  rw [entered, gap]
  rfl

/-- The lane after it has fallen silent, and the take. -/
theorem silent_takes {i : LaneId} {cause : Nat} {s : State} : ∃ t,
    done (raise .laneSilent (some i) cause (gapStart i s % 2 ^ 32) (enterSilent i (gapStart i s) s)) = .next t ∧
    AfterTake (raise .laneSilent (some i) cause (gapStart i s % 2 ^ 32) (enterSilent i (gapStart i s) s)) t ∧
    (t.rx i).state = .silent ∧ (t.rx i).satRun = 0 ∧ (t.rx i).silentSince = some s.msTime ∧
    (t.rx i).openGap = some (gapStart i s) ∧ (t.rx i).link = (s.rx i).link ∧
    (t.rx i).lastTrigger = (s.rx i).lastTrigger ∧ (t.rx i).seeded = (s.rx i).seeded := by
  obtain ⟨t, ht, take⟩ :=
    done_afterTake (raise .laneSilent (some i) cause (gapStart i s % 2 ^ 32) (enterSilent i (gapStart i s) s))
  obtain ⟨⟨lb, hrx⟩, -⟩ := enterSilent_spec i (gapStart i s) s
  have gap : (s.rx i).openGap.getD (gapStart i s) = gapStart i s := by
    unfold gapStart
    cases (s.rx i).openGap <;> rfl
  refine ⟨t, ht, take, ?_⟩
  rw [take_rx _ _ take i, raise_rx, hrx, gap]
  exact ⟨rfl, rfl, rfl, rfl, rfl, rfl, rfl⟩

theorem listening_iff (x : Receiver) : x.listening = true ↔ x.state = .waiting ∨ x.state = .running := by
  unfold Receiver.listening
  rw [Bool.or_eq_true, beq_iff_eq, beq_iff_eq]

theorem silenceDue_iff (i : LaneId) (s : State) : silenceDue i s = true ↔
    ((s.rx i).state = .waiting ∨ (s.rx i).state = .running) ∧ s.setup.silentMs ≤ (s.rx i).silenceTimer := by
  unfold silenceDue
  rw [Bool.and_eq_true, listening_iff, decide_eq_true_eq]

theorem linkDown_eq (i : LaneId) (s : State) : linkDown i s =
    if (s.rx i).listening = true then goSilent i 2 (s.withRx i { s.rx i with link := .down })
    else s.withRx i { s.rx i with link := .down } := by
  unfold linkDown
  dsimp only
  rw [State.modRx_rx_same]
  rfl

/-- Settles O45: the entry's order, the two causes, and the reports that change the link alone. -/
theorem silenceAndLaneLinks : Obligations.SilenceAndLaneLinks := by
  unfold Obligations.SilenceAndLaneLinks
  intro i s x start listens gap silent became
  refine ⟨fun g => enterSilent_eq i g s, fun hlistens _ hfits => ⟨fun hdue => ?_, ?_⟩, fun hnot => ?_,
    fun hnot => ?_, ?_⟩
  · have due : silenceExpiry i s = goSilent i 1 s := if_pos ((silenceDue_iff i s).2 ⟨hlistens, hdue⟩)
    show silent s x.link 1 _
    rw [exec_silenceTimerExpiry, due, goSilent_eq 1 hfits]
    exact silent_takes
  · have hrx : (became { x with link := .down }).rx i = { x with link := .down } := withRx_rx s i _
    have down : linkDown i s = goSilent i 2 (became { x with link := .down }) :=
      (linkDown_eq i s).trans (if_pos ((listening_iff x).2 hlistens))
    have hgap : gapStart i (became { x with link := .down }) = gap := by
      unfold gapStart
      rw [hrx]
      rfl
    have entered := silent_takes (i := i) (cause := 2) (s := became { x with link := .down })
    show silent (became { x with link := .down }) .down 2 _
    rw [exec_laneLinkDown, down, goSilent_eq 2 (by rw [hrx]; exact hfits)]
    rw [hgap, hrx] at *
    exact entered
  · have early : silenceExpiry i s = s := if_neg fun h => by
      obtain ⟨hl, hdue⟩ := (silenceDue_iff i s).1 h
      rcases hnot with hn | hn
      · exact hn hl
      · exact absurd hdue (Nat.not_le.2 hn)
    rw [exec_silenceTimerExpiry, early]
    exact done_afterTake s
  · have down : linkDown i s = became { x with link := .down } :=
      (linkDown_eq i s).trans (if_neg fun h => hnot ((listening_iff x).1 h))
    rw [exec_laneLinkDown, down]
    exact done_afterTake _
  · rw [exec_laneLinkUp]
    exact done_afterTake _

end Sys2Proof.Machine
end

section
/-! The laws of the lanes: the backgrounds' range and the trackers' age order, through every command and step (R37, R44, 4.1). -/

namespace Sys2Proof.Machine

/-- A lane's own laws: its profile's (R37, R44) and its tracker's (4.1). -/
structure Lane.Ok (l : Lane) : Prop where
  profile : profileOk l.profile
  tracker : l.tracker.Ok

/-- Every lane keeps its laws. -/
def LaneLaws (s : State) : Prop := ∀ i, (s.lane i).Ok

theorem laneLaws_iff (s : State) : LaneLaws s ↔ ProfilesOk s ∧ TrackersOk s :=
  ⟨fun h => ⟨fun i => (h i).profile, fun i => (h i).tracker⟩, fun h i => ⟨h.1 i, h.2 i⟩⟩

theorem Kept.laneLaws {s u : State} (k : Kept s u) (h : LaneLaws s) : LaneLaws u := fun i =>
  ⟨k.profile i (h i).profile, k.tracker i (h i).tracker⟩

/-- A lane after a reset is blank (R37, R52). -/
theorem Lane.afterReset_ok (keepHead : Bool) (l : Lane) : (l.afterReset keepHead).Ok where
  profile := ⟨List.length_replicate, fun x hx => by
    rw [List.eq_of_mem_replicate hx]
    exact Nat.zero_le _⟩
  tracker := Tracker.empty_ok

theorem laneLaws_of_reset {s u : State} (keepHead : Bool) (h : u.lanes = s.lanes.map (Lane.afterReset keepHead)) :
    LaneLaws u := by
  intro i
  unfold State.lane
  rw [h, PerLane.get_map]
  exact Lane.afterReset_ok keepHead _

/-- The arbiter's take reaches no profile and no tracker. -/
theorem arbiter_laneLaws {u : State} (h : LaneLaws u) : LaneLaws (arbiter u) := by
  intro i
  rw [((arbiter_afterTake u).blocks.lanes i).1]
  exact ⟨(h i).profile, (h i).tracker⟩

theorem exec_laneLaws {c : Instr} {s t : State} (hl : LinesOk s) (h : LaneLaws s) (ht : exec c s = .next t) :
    LaneLaws t := by
  by_cases hpow : ∃ lv, c = .powerOnReset lv
  · obtain ⟨lv, rfl⟩ := hpow
    rw [next_of_done ht]
    exact arbiter_laneLaws (laneLaws_of_reset (s := s) false rfl)
  by_cases hsoft : ∃ tag args, c = .partReset tag args
  · obtain ⟨tag, args, rfl⟩ := hsoft
    rw [next_of_done ht]
    exact arbiter_laneLaws (laneLaws_of_reset (s := s) true rfl)
  obtain ⟨u, hu, k⟩ := exec_kept c s hl (fun lv e => hpow ⟨lv, e⟩) (fun t a e => hsoft ⟨t, a, e⟩)
  rw [next_of_done (hu.symm.trans ht)]
  exact arbiter_laneLaws (k.laneLaws h)

theorem takeUp_laneLaws (r : Request) {s : State} (h : LaneLaws s) : LaneLaws (takeUp r s) := by
  unfold takeUp
  split
  · exact h
  · exact (answer_kept _ _ _ s).laneLaws h

/-- A millisecond changes a lane's receiver alone. -/
theorem tick_laneLaws {s : State} (h : LaneLaws s) : LaneLaws (tick s) := by
  intro i
  show ((s.lanes.map fun l : Lane => { l with rx := l.rx.tick }).get i).Ok
  rw [PerLane.get_map]
  exact ⟨(h i).profile, (h i).tracker⟩

theorem ownStep_laneLaws {s t : State} (h : LaneLaws s) (ht : ownStep s = .next t) : LaneLaws t := by
  unfold ownStep at ht
  split at ht
  · rw [next_of_done ht]
    exact arbiter_laneLaws (takeUp_laneLaws _ h)
  · rw [next_of_done ht]
    exact arbiter_laneLaws (tick_laneLaws h)

/-- Every step keeps the lanes' laws, and leaves no line in handling. -/
theorem step_laneLaws {s t : State} (hl : LinesOk s) (h : LaneLaws s) (ht : step s = .next t) :
    LinesOk t ∧ LaneLaws t := by
  rcases step_cases ht with own | ⟨c, rest, hc⟩
  · exact ⟨(ownStep_keeps hl own).1, ownStep_laneLaws h own⟩
  · have lines : LinesOk (s.withPending rest) := hl
    have laws : LaneLaws (s.withPending rest) := h
    exact ⟨exec_linesOk lines hc, exec_laneLaws lines laws hc⟩

/-- Settles O57: `LaneLaws` through every command and the part's own step. -/
theorem laneLawsAreKept : Obligations.LaneLawsAreKept := by
  unfold Obligations.LaneLawsAreKept
  intro s t hl hp ht hstep
  obtain ⟨lines, laws⟩ := step_laneLaws hl ((laneLaws_iff s).2 ⟨hp, ht⟩) hstep
  exact ⟨lines, (laneLaws_iff t).1 laws⟩

end Sys2Proof.Machine
end

section
/-! One column of a detected line by the branches of its test (R41 to R46), and the hits that a line has at a column. -/

namespace Sys2Proof.Machine

/-! ### The test of a deviation (R42) -/

theorem hitPolarity_dark {t : Threshold} {d : Int} (h : d ≤ -(64 * (t.td : Int))) : hitPolarity t d = some .dark :=
  if_pos h

theorem hitPolarity_bright {t : Threshold} {d : Int} (hd : -(64 * (t.td : Int)) < d) (h : 64 * (t.tb : Int) ≤ d) :
    hitPolarity t d = some .bright := by
  unfold hitPolarity
  rw [if_neg (by omega), if_pos h]

theorem hitPolarity_none {t : Threshold} {d : Int} (hd : -(64 * (t.td : Int)) < d) (hb : d < 64 * (t.tb : Int)) :
    hitPolarity t d = none := by
  unfold hitPolarity
  rw [if_neg (by omega), if_neg (by omega)]

theorem hitPolarity_isSome {t : Threshold} {d : Int} (h : d ≤ -(64 * (t.td : Int)) ∨ 64 * (t.tb : Int) ≤ d) :
    ∃ pol, hitPolarity t d = some pol := by
  by_cases hd : d ≤ -(64 * (t.td : Int))
  · exact ⟨_, hitPolarity_dark hd⟩
  · exact ⟨_, hitPolarity_bright (by omega) (h.resolve_left hd)⟩

/-! ### The background (R44) -/

/-- The background after a non-hit is not below 0, so the natural number is the whole number of R44. -/
theorem adapt_cast (k p b : Nat) : (adapt k p b : Int) = b + deviation p b / 2 ^ k := by
  have hpow : (1 : Int) ≤ 2 ^ k := one_le_pow₀ (by omega)
  have hstep : -(b : Int) ≤ deviation p b / 2 ^ k := by
    refine (Int.le_ediv_iff_mul_le (by omega)).2 ?_
    have hb : (b : Int) * 1 ≤ b * 2 ^ k := Int.mul_le_mul_of_nonneg_left hpow (by omega)
    unfold deviation
    rw [Int.neg_mul]
    omega
  exact Int.toNat_of_nonneg (by omega)

/-! ### A column inside the window -/

section
variable {t : Threshold} {k c p : Nat} {x : Column}

theorem detectColumn_hit {pol : Polarity} (hx : x.seeded = true) (h : hitPolarity t (deviation p x.b) = some pol) :
    detectColumn t k c p x = (x, some ⟨c, pol, (deviation p x.b).natAbs, saturated p⟩) := by
  unfold detectColumn
  rw [if_pos hx]
  dsimp only
  rw [h]

theorem detectColumn_noHit (hx : x.seeded = true) (h : hitPolarity t (deviation p x.b) = none) :
    detectColumn t k c p x = (⟨adapt k p x.b, true⟩, none) := by
  unfold detectColumn
  rw [if_pos hx]
  dsimp only
  rw [h]

theorem detectColumn_unseeded (hx : x.seeded = false) : detectColumn t k c p x = (⟨64 * p, true⟩, none) := by
  unfold detectColumn
  rw [hx]
  rfl

end

/-- The hits of a line at a column. -/
def hitsAt (c : Nat) (hs : List Hit) : List Hit := hs.filter fun h => h.column == c

theorem mem_hitsAt {c : Nat} {hs : List Hit} {h : Hit} : h ∈ hitsAt c hs ↔ h ∈ hs ∧ h.column = c := by
  unfold hitsAt
  rw [List.mem_filter, beq_iff_eq]

theorem hitsAt_eq_nil {c : Nat} {hs : List Hit} : hitsAt c hs = [] ↔ ∀ h ∈ hs, h.column ≠ c := by
  rw [List.eq_nil_iff_forall_not_mem]
  simp only [mem_hitsAt, not_and, ne_eq]

/-- A column with one hit: there is one, and what holds of it holds of each hit of the column. -/
theorem hitsAt_singleton {c : Nat} {hs : List Hit} {x : Hit} (h : hitsAt c hs = [x]) {q : Hit → Prop} (hq : q x) :
    (∃ h ∈ hs, h.column = c) ∧ (hitsAt c hs).length = 1 ∧ ∀ h ∈ hs, h.column = c → q h := by
  have mem : ∀ y, (y ∈ hs ∧ y.column = c) ↔ y = x := fun y => by rw [← mem_hitsAt, h, List.mem_singleton]
  refine ⟨⟨x, (mem x).2 rfl⟩, by rw [h]; rfl, fun y hy hc => ?_⟩
  rw [(mem y).1 ⟨hy, hc⟩]
  exact hq

/-! ### A column of a line -/

section
variable {e : LaneEntry} {bs : List Nat} {ts : List Threshold} {ps : List Nat} {xs : List Column} {c : Nat}

/-- A column of a detected line inside the window is what `detectColumn` makes of it, with its hit. -/
theorem detectColumns_inside (hx : c < xs.length) (hp : c < ps.length) (hlo : e.winLo ≤ c) (hhi : c ≤ e.winHi) :
    let y := detectColumn (ts.getD (zoneOf bs c) default) e.k c (ps.getD c 0) (xs.getD c default)
    (detectColumns e bs ts 0 ps xs).1.getD c default = y.1 ∧ hitsAt c (detectColumns e bs ts 0 ps xs).2 = y.2.toList := by
  obtain ⟨_, _, inside, _⟩ := detect_at e bs ts ps xs 0 c hx
  rw [Nat.zero_add] at inside
  exact inside ⟨hp, (inWindow_iff e c).2 ⟨hlo, hhi⟩⟩

/-- A column outside the window, or not present in the line (R39). -/
theorem detectColumns_outside (hx : c < xs.length) (h : ¬(c < ps.length ∧ e.winLo ≤ c ∧ c ≤ e.winHi)) :
    (detectColumns e bs ts 0 ps xs).1.getD c default = (xs.getD c default).unmark ∧
      hitsAt c (detectColumns e bs ts 0 ps xs).2 = [] := by
  obtain ⟨_, _, _, outside⟩ := detect_at e bs ts ps xs 0 c hx
  rw [Nat.zero_add] at outside
  exact outside fun hin => h ⟨hin.1, (inWindow_iff e c).1 hin.2⟩

theorem seedColumns_inside (hx : c < xs.length) (hp : c < ps.length) (hlo : e.winLo ≤ c) (hhi : c ≤ e.winHi) :
    (seedColumns e 0 ps xs).getD c default = ⟨64 * ps.getD c 0, true⟩ := by
  rw [seed_at e ps xs 0 c hx, Nat.zero_add]
  exact if_pos ⟨hp, (inWindow_iff e c).2 ⟨hlo, hhi⟩⟩

theorem seedColumns_outside (hx : c < xs.length) (h : ¬(c < ps.length ∧ e.winLo ≤ c ∧ c ≤ e.winHi)) :
    (seedColumns e 0 ps xs).getD c default = (xs.getD c default).unmark := by
  rw [seed_at e ps xs 0 c hx, Nat.zero_add]
  exact if_neg fun hin => h ⟨hin.1, (inWindow_iff e c).1 hin.2⟩

/-- A seeded column inside the window whose deviation is a hit: the line has that hit at it and no other. -/
theorem hitsAt_seeded {pol : Polarity} (hx : c < xs.length) (hp : c < ps.length) (hlo : e.winLo ≤ c) (hhi : c ≤ e.winHi)
    (hs : (xs.getD c default).seeded = true)
    (h : hitPolarity (ts.getD (zoneOf bs c) default) (deviation (ps.getD c 0) (xs.getD c default).b) = some pol) :
    hitsAt c (detectColumns e bs ts 0 ps xs).2 =
      [⟨c, pol, (deviation (ps.getD c 0) (xs.getD c default).b).natAbs, saturated (ps.getD c 0)⟩] := by
  rw [(detectColumns_inside hx hp hlo hhi).2, detectColumn_hit hs h]
  rfl

theorem hitsAt_seeded_none (hx : c < xs.length) (hp : c < ps.length) (hlo : e.winLo ≤ c) (hhi : c ≤ e.winHi)
    (hs : (xs.getD c default).seeded = true)
    (h : hitPolarity (ts.getD (zoneOf bs c) default) (deviation (ps.getD c 0) (xs.getD c default).b) = none) :
    hitsAt c (detectColumns e bs ts 0 ps xs).2 = [] := by
  rw [(detectColumns_inside hx hp hlo hhi).2, detectColumn_noHit hs h]
  rfl

end

/-- 64 times a pixel and a background differ by at most 64 · 1023. -/
theorem deviation_bounds {p b : Nat} (hp : p ≤ 1023) (hb : b ≤ 65472) :
    -65472 ≤ deviation p b ∧ deviation p b ≤ 65472 := by
  unfold deviation
  omega

theorem getD_mem {α : Type} {xs : List α} {n : Nat} (d : α) (h : n < xs.length) : xs.getD n d ∈ xs := by
  rw [List.getD_eq_getElem _ _ h]
  exact List.getElem_mem h

/-- Settles O23: the column's one hit, or none, by the branches of the test. -/
theorem hitTest : Obligations.HitTest := by
  unfold Obligations.HitTest
  refine ⟨?_, fun tb => ⟨hitPolarity_dark (by norm_num), fun htb => hitPolarity_none (by norm_num) ?_⟩⟩
  · intro e bs ts ps xs c hp hx hlo hhi hs hpix hb z d hits htd htb
    obtain ⟨dLo, dHi⟩ : -65472 ≤ d ∧ d ≤ 65472 := deviation_bounds (hpix _ (getD_mem 0 hp)) (hb _ (getD_mem default hx))
    have noHit (h1 : -(64 * (z.td : Int)) < d) (h2 : d < 64 * (z.tb : Int)) : ∀ h ∈ hits, h.column ≠ c :=
      hitsAt_eq_nil.1 (hitsAt_seeded_none hx hp hlo hhi hs (hitPolarity_none h1 h2))
    refine ⟨fun hd => ?_, fun hd => ?_, noHit, by omega, fun h0 => noHit (by omega) (by omega)⟩
    · refine hitsAt_singleton (hitsAt_seeded hx hp hlo hhi hs (hitPolarity_dark hd)) ⟨rfl, ?_⟩
      show ((d.natAbs : Nat) : Int) = -d ∧ 64 * z.td ≤ d.natAbs ∧ d.natAbs ≤ 65472
      omega
    · have notDark : -(64 * (z.td : Int)) < d := by omega
      refine hitsAt_singleton (hitsAt_seeded hx hp hlo hhi hs (hitPolarity_bright notDark hd)) ⟨rfl, ?_⟩
      show ((d.natAbs : Nat) : Int) = d ∧ 64 * z.tb ≤ d.natAbs ∧ d.natAbs ≤ 65472
      omega
  · show (-2559 : Int) < 64 * (tb : Int)
    omega

/-- Settles O24: the walks over the columns read at one column, and the fold over the boundaries. -/
theorem columnsOfALine : Obligations.ColumnsOfALine := by
  unfold Obligations.ColumnsOfALine
  refine ⟨?_, fun bs c z hlen hsorted hz => ?_⟩
  · intro e bs ts ps xs c hx inside x z d r y seed
    refine ⟨detectColumns_length e bs ts 0 ps xs, fun hout => ?_, fun ⟨hp, hlo, hhi⟩ => seedColumns_inside hx hp hlo hhi, ?_,
      ?_, ?_⟩
    · obtain ⟨column, hits⟩ := detectColumns_outside (bs := bs) (ts := ts) hx hout
      exact ⟨column, hitsAt_eq_nil.1 hits, seedColumns_outside hx hout⟩
    all_goals
      rintro ⟨hp, hlo, hhi⟩ hs
      obtain ⟨column, hits⟩ := detectColumns_inside (bs := bs) (ts := ts) hx hp hlo hhi
    · rw [detectColumn_unseeded hs] at column hits
      exact ⟨column, hitsAt_eq_nil.1 hits⟩
    · intro hd
      obtain ⟨pol, hit⟩ := hitPolarity_isSome hd
      rw [detectColumn_hit hs hit] at column
      exact column
    · intro h1 h2
      rw [detectColumn_noHit hs (hitPolarity_none h1 h2)] at column
      have hy : y = ⟨adapt e.k (ps.getD c 0) x.b, true⟩ := column
      rw [hy]
      exact ⟨rfl, adapt_cast _ _ _⟩
  · obtain ⟨own, le, above⟩ := zone_fold bs c 0 0 hsorted (le_refl _)
    rw [hlen, Nat.zero_add] at *
    subst hz
    exact ⟨le, own.imp id fun h => h.2.2, fun w hw hw15 => above w hw (Nat.zero_lt_of_lt hw) hw15⟩

end Sys2Proof.Machine
end

section
/-! The hits of a line gathered into runs, and the runs a detected line hands on (R47 to R49). -/

namespace Sys2Proof.Machine

/-- Two hits of one run, next to each other (R47). -/
def Hit.joins (g : Nat) (a b : Hit) : Prop := a.polarity = b.polarity ∧ b.column ≤ a.column + 1 + g

/-- The run of a group of hits (R48). -/
def Gathers (gr : List Hit) (r : Run) : Prop :=
  gr.head?.map Hit.column = some r.first ∧ gr.getLast?.map Hit.column = some r.last ∧
    (∀ h ∈ gr, h.polarity = r.polarity ∧ h.magnitude ≤ r.peak) ∧ r.pixels = gr.length ∧
    (∃ h ∈ gr, h.magnitude = r.peak) ∧ (r.sat = true ↔ ∃ h ∈ gr, h.sat = true)

/-- The last hit of a group and the first of the next do not join. -/
def Apart (g : Nat) (x y : List Hit) : Prop := ∀ a ∈ x.getLast?, ∀ b ∈ y.head?, ¬Hit.joins g a b

theorem gathers_ofHit (h : Hit) : Gathers [h] (Run.ofHit h) := by
  simp [Gathers, Run.ofHit]

/-- A group's first hit has its run's first column and polarity. -/
theorem Gathers.head {gr : List Hit} {r : Run} (hg : Gathers gr r) :
    ∃ a rest, gr = a :: rest ∧ a.column = r.first ∧ a.polarity = r.polarity := by
  obtain ⟨first, _, all, _⟩ := hg
  cases gr with
  | nil => cases first
  | cons a rest => exact ⟨a, rest, rfl, Option.some.inj first, (all a List.mem_cons_self).1⟩

theorem Gathers.consHit {gr : List Hit} {r : Run} {h : Hit} (hg : Gathers gr r) (hp : h.polarity = r.polarity) :
    Gathers (h :: gr) (Run.consHit h r) := by
  obtain ⟨a, rest, rfl, _, _⟩ := hg.head
  obtain ⟨_, last, all, pixels, ⟨top, htop, hpeak⟩, sat⟩ := hg
  refine ⟨rfl, last, ?_, by simp [Run.consHit, pixels], ?_, ?_⟩
  · rintro x hx
    rcases List.mem_cons.1 hx with rfl | hx
    · exact ⟨hp, le_max_left _ _⟩
    · exact ⟨(all x hx).1, (all x hx).2.trans (le_max_right _ _)⟩
  · show ∃ x ∈ h :: a :: rest, x.magnitude = max h.magnitude r.peak
    rcases le_total h.magnitude r.peak with hle | hle
    · exact ⟨top, List.mem_cons_of_mem _ htop, by rw [max_eq_right hle, hpeak]⟩
    · exact ⟨h, List.mem_cons_self, (max_eq_left hle).symm⟩
  · show (h.sat || r.sat) = true ↔ ∃ x ∈ h :: a :: rest, x.sat = true
    rw [Bool.or_eq_true, sat]
    exact (List.exists_mem_cons_iff (fun x : Hit => x.sat = true) h (a :: rest)).symm

/-- A hit whose right neighbour heads a group joins that group's run exactly where it joins the neighbour (R47). -/
theorem joins_iff_of_gathers {g : Nat} {h a : Hit} {rest : List Hit} {r : Run} (hg : Gathers (a :: rest) r) :
    (r.polarity == h.polarity && decide (r.first ≤ h.column + 1 + g)) = true ↔ Hit.joins g h a := by
  obtain ⟨_, _, heq, hcol, hpol⟩ := hg.head
  cases heq
  unfold Hit.joins
  rw [Bool.and_eq_true, beq_iff_eq, decide_eq_true_eq, hcol, hpol, eq_comm]

/-- The runs cut the hits into groups, each a chain of hits that join, with no join between two groups (R47, R48). -/
theorem formRuns_groups (g : Nat) (hs : List Hit) :
    ∃ groups : List (List Hit), groups.flatten = hs ∧ List.Forall₂ Gathers groups (formRuns g hs) ∧
      (∀ gr ∈ groups, gr.IsChain (Hit.joins g)) ∧ groups.IsChain (Apart g) := by
  induction hs with
  | nil => exact ⟨[], rfl, .nil, by simp, .nil⟩
  | cons h hs ih =>
    obtain ⟨groups, flat, runs, chains, cuts⟩ := ih
    unfold formRuns
    generalize formRuns g hs = rs at runs
    cases runs with
    | nil =>
      subst flat
      exact ⟨[[h]], rfl, .cons (gathers_ofHit h) .nil, by simp, .singleton _⟩
    | @cons gr r grs rs hgr hgrs =>
      obtain ⟨a, rest, rfl, _, _⟩ := hgr.head
      obtain ⟨chain, chainsRest⟩ := List.forall_mem_cons.1 chains
      have test := joins_iff_of_gathers (g := g) (h := h) hgr
      dsimp only
      split
      · next hjoin =>
        have hj : Hit.joins g h a := test.1 hjoin
        refine ⟨(h :: a :: rest) :: grs, by rw [← flat]; rfl, .cons (hgr.consHit ?_) hgrs,
          List.forall_mem_cons.2 ⟨.cons_cons hj chain, chainsRest⟩, ?_⟩
        · rw [Bool.and_eq_true, beq_iff_eq] at hjoin
          exact hjoin.1.symm
        · cases cuts with
          | singleton => exact .singleton _
          | cons_cons hcut tail => exact .cons_cons hcut tail
      · next hjoin =>
        refine ⟨[h] :: (a :: rest) :: grs, by rw [← flat]; rfl, .cons (gathers_ofHit h) (.cons hgr hgrs),
          List.forall_mem_cons.2 ⟨.singleton _, chains⟩, .cons_cons ?_ cuts⟩
        rintro x hx y hy
        cases hx
        cases hy
        exact fun hj => hjoin (test.2 hj)

/-- Runs past the 64th, with room for the notice: RUN_OVERFLOW is raised once and the report counts them (R49). -/
theorem overflowRuns_raised {s : State} (i : LaneId) {dropped : Nat} (trigger : Nat) (hd : 0 < dropped) (hroom : hasRoom s) :
    ∃ v, Raised .runOverflow (some i) dropped trigger s v ∧ overflowRuns i dropped trigger s =
      v.withReport { v.report with current := { v.report.current with
        runsOverflowed := min Config.max32 (v.report.current.runsOverflowed + dropped) } } :=
  ⟨_, raise_room .runOverflow (some i) dropped trigger hroom, if_neg (Nat.pos_iff_ne_zero.1 hd)⟩

theorem overflowRuns_zero (i : LaneId) (trigger : Nat) (s : State) : overflowRuns i 0 trigger s = s := rfl

end Sys2Proof.Machine
end

section
/-! A run taken by a tracker: its candidates and matches, the slot it opens in, and the blob it joins (R54 to R58). -/

namespace Sys2Proof.Machine

/-! ### Slots and age order after a change of the table -/

theorem Tracker.slot_free (t : Tracker) (j k : Nat) : (t.free j).slot k = if k = j then .free else t.slot k := by
  unfold Tracker.free
  rw [Tracker.slot_set]
  by_cases hk : k = j
  · subst hk
    rw [if_pos rfl]
    split
    · rfl
    · next hlt => exact List.getD_eq_default _ _ (Nat.not_lt.1 fun h => hlt ⟨rfl, h⟩)
  · rw [if_neg hk, if_neg fun h => hk h.1]

theorem Tracker.mem_age_free (t : Tracker) (j k : Nat) : k ∈ (t.free j).age ↔ k ∈ t.age ∧ k ≠ j := by
  unfold Tracker.free
  rw [List.mem_filter, bne_iff_ne]

theorem Tracker.age_free_sublist (t : Tracker) (j : Nat) : (t.free j).age.Sublist t.age := List.filter_sublist

theorem Tracker.slot_freeAll (t : Tracker) (js : List Nat) (k : Nat) :
    (t.freeAll js).slot k = if k ∈ js then .free else t.slot k := by
  induction js generalizing t with
  | nil => rfl
  | cons j js ih =>
    refine (ih (t.free j)).trans ?_
    rw [Tracker.slot_free]
    by_cases hjs : k ∈ js
    · rw [if_pos hjs, if_pos (List.mem_cons_of_mem _ hjs)]
    · rw [if_neg hjs]
      simp only [List.mem_cons, hjs, or_false]

theorem Tracker.mem_age_freeAll (t : Tracker) (js : List Nat) (k : Nat) :
    k ∈ (t.freeAll js).age ↔ k ∈ t.age ∧ k ∉ js := by
  induction js generalizing t with
  | nil => exact ⟨fun h => ⟨h, List.not_mem_nil⟩, And.left⟩
  | cons j js ih =>
    refine (ih (t.free j)).trans ?_
    rw [Tracker.mem_age_free, List.mem_cons, not_or, and_assoc]

theorem Tracker.age_freeAll_sublist (t : Tracker) (js : List Nat) : (t.freeAll js).age.Sublist t.age := by
  induction js generalizing t with
  | nil => exact List.Sublist.refl _
  | cons j js ih => exact (ih (t.free j)).trans (t.age_free_sublist j)

theorem Tracker.slot_setSlot {t : Tracker} {j : Nat} (hj : j < t.slots.length) (x : Slot) (k : Nat) :
    (t.setSlot j x).slot k = if k = j then x else t.slot k := by
  refine (t.slot_set j k x t.age).trans ?_
  simp only [hj, and_true]

theorem Tracker.slot_enter {t : Tracker} {j : Nat} (hj : j < t.slots.length) (x : Slot) (k : Nat) :
    (t.enter j x).slot k = if k = j then x else t.slot k := by
  refine (t.slot_set j k x _).trans ?_
  simp only [hj, and_true]

theorem Tracker.Ok.slots_lt {t : Tracker} (h : t.Ok) {j : Nat} (hj : j < 32) : j < t.slots.length := by
  rw [h.slots]
  exact hj

theorem Tracker.Ok.lt32 {t : Tracker} (h : t.Ok) {j : Nat} (hj : j ∈ t.age) : j < 32 := (h.lt hj).trans_eq h.slots

/-! ### Candidates and continuation matches (R54) -/

/-- A span overlaps a run's columns or lies next to them. -/
def Run.near (r : Run) (x : Span) : Prop := r.first ≤ x.hi + 1 ∧ x.lo ≤ r.last + 1

/-- The slot holds a blob that is a candidate of the run. -/
def Tracker.IsCandidate (t : Tracker) (lim : BankId → Nat) (r : Run) (j : Nat) (b : Blob) : Prop :=
  t.slot j = .blob b ∧ b.polarity = r.polarity ∧ b.idle ≤ lim b.tag ∧ r.near b.lastSpan ∧ b.openedNow = false

/-- The slot is a continuation match of the run. -/
def Tracker.IsMatch (t : Tracker) (r : Run) (j : Nat) : Prop :=
  ∃ c, t.slot j = .continuation c ∧ c.polarity = r.polarity ∧ c.idle ≤ c.idleLimit ∧ r.near c.lastSpan

theorem Span.touches_iff (x : Span) (r : Run) : x.touches r = true ↔ r.near x := by
  unfold Span.touches Run.near
  rw [Bool.and_eq_true, decide_eq_true_eq, decide_eq_true_eq]

section
variable {t : Tracker} {lim : BankId → Nat} {tag : BankId} {p : Nat} {r : Run}

theorem Tracker.candidate_iff (j : Nat) : (t.slot j).candidate lim r = true ↔ ∃ b, t.IsCandidate lim r j b := by
  unfold Tracker.IsCandidate Slot.candidate
  cases t.slot j with
  | free => simp
  | continuation c => simp
  | blob b => simp [Span.touches_iff, and_assoc]

theorem Tracker.continuationMatch_iff (j : Nat) : (t.slot j).continuationMatch r = true ↔ t.IsMatch r j := by
  unfold Tracker.IsMatch Slot.continuationMatch
  cases t.slot j with
  | free => simp
  | continuation c => simp [Span.touches_iff, and_assoc]
  | blob b => simp

theorem Tracker.mem_candidates (h : t.Ok) (j : Nat) : j ∈ t.candidates lim r ↔ ∃ b, t.IsCandidate lim r j b := by
  unfold Tracker.candidates
  rw [List.mem_filter, candidate_iff]
  refine ⟨And.right, fun hc => ⟨(h.held j).2 ?_, hc⟩⟩
  obtain ⟨b, hb, _⟩ := hc
  rw [hb]
  rfl

theorem Tracker.mem_continuationMatches (h : t.Ok) (j : Nat) : j ∈ t.continuationMatches r ↔ t.IsMatch r j := by
  unfold Tracker.continuationMatches
  rw [List.mem_filter, continuationMatch_iff]
  refine ⟨And.right, fun hc => ⟨(h.held j).2 ?_, hc⟩⟩
  obtain ⟨c, hc, _⟩ := hc
  rw [hc]
  rfl

theorem Tracker.candidates_eq_nil (h : t.Ok) (noCand : ∀ j b, ¬t.IsCandidate lim r j b) : t.candidates lim r = [] :=
  List.eq_nil_iff_forall_not_mem.2 fun j hj => by
    obtain ⟨b, hb⟩ := (mem_candidates h j).1 hj
    exact noCand j b hb

theorem Tracker.continuationMatches_eq_nil (h : t.Ok) (noMatch : ∀ k, ¬t.IsMatch r k) : t.continuationMatches r = [] :=
  List.eq_nil_iff_forall_not_mem.2 fun j hj => noMatch j ((mem_continuationMatches h j).1 hj)

/-- Some slot matches exactly where the list of matches is not empty. -/
theorem Tracker.any_match_iff (h : t.Ok) : (!(t.continuationMatches r).isEmpty) = true ↔ ∃ k, t.IsMatch r k := by
  rw [Bool.not_eq_true', List.isEmpty_eq_false_iff_exists_mem]
  exact exists_congr fun k => mem_continuationMatches h k

/-- A list split at its first element with a property, filtered. -/
theorem filter_eq_cons_of_split {α : Type} {q : α → Bool} {xs pre post : List α} {a : α} (h : xs = pre ++ a :: post)
    (hpre : ∀ x ∈ pre, ¬q x = true) (ha : q a = true) : xs.filter q = a :: post.filter q := by
  rw [h, List.filter_append, List.filter_eq_nil_iff.2 hpre, List.nil_append, List.filter_cons_of_pos ha]

/-! ### The branches of taking a run -/

theorem Tracker.takeRun_joins {m : Nat} (hm : t.survivor (t.candidates lim r) = some m) :
    t.takeRun lim tag p r = (t.joinRun r m (t.candidates lim r) (t.continuationMatches r), false) := by
  unfold Tracker.takeRun
  dsimp only
  rw [hm]

theorem Tracker.takeRun_enters {j : Nat} (hc : t.candidates lim r = [])
    (hj : t.openingSlot (t.continuationMatches r) = some j) :
    t.takeRun lim tag p r = ((t.freeAll (t.continuationMatches r)).enter j
      (.blob (Blob.opened r p tag (!(t.continuationMatches r).isEmpty))), false) := by
  unfold Tracker.takeRun
  dsimp only
  rw [hc, hj]
  rfl

theorem Tracker.takeRun_noSlot (hc : t.candidates lim r = [])
    (hj : t.openingSlot (t.continuationMatches r) = none) : t.takeRun lim tag p r = (t, true) := by
  unfold Tracker.takeRun
  dsimp only
  rw [hc, hj]
  rfl

/-! ### The slot a run opens in (R55, R57) -/

theorem Tracker.openingSlot_match {pre post : List Nat} {j : Nat} (hage : t.age = pre ++ j :: post) (hj : t.IsMatch r j)
    (hpre : ∀ k ∈ pre, ¬t.IsMatch r k) : t.openingSlot (t.continuationMatches r) = some j := by
  unfold Tracker.continuationMatches
  rw [filter_eq_cons_of_split hage (fun k hk hm => hpre k hk ((continuationMatch_iff k).1 hm)) ((continuationMatch_iff j).2 hj)]
  rfl

theorem Tracker.isFree_iff (j : Nat) : (t.slot j).isFree = true ↔ t.slot j = .free := by
  cases t.slot j <;> simp [Slot.isFree]

theorem Tracker.isContinuation_iff (j : Nat) : (t.slot j).isContinuation = true ↔ ∃ c, t.slot j = .continuation c := by
  cases t.slot j <;> simp [Slot.isContinuation]

theorem Tracker.slot_eq_getElem {j : Nat} (hj : j < t.slots.length) : t.slot j = t.slots[j] := List.getD_eq_getElem _ _ hj

theorem Tracker.openingSlot_free {j : Nat} (hlt : j < t.slots.length) (hj : t.slot j = .free)
    (hlow : ∀ k, k < j → t.slot k ≠ .free) : t.openingSlot [] = some j := by
  have hfind : t.slots.findIdx? Slot.isFree = some j := by
    refine List.findIdx?_eq_some_iff_getElem.2 ⟨hlt, ?_, fun k hk => ?_⟩
    · rw [← slot_eq_getElem hlt]
      exact (isFree_iff j).2 hj
    · rw [← slot_eq_getElem (hk.trans hlt)]
      exact fun h => hlow k hk ((isFree_iff k).1 h)
  unfold Tracker.openingSlot
  rw [hfind]

/-- With no FREE slot, a run without a match opens in the oldest CONTINUATION slot, where there is one. -/
theorem Tracker.openingSlot_full (h : t.Ok) (full : ∀ k, k < 32 → t.slot k ≠ .free) :
    t.openingSlot [] = t.age.find? fun j => (t.slot j).isContinuation := by
  have hfind : t.slots.findIdx? Slot.isFree = none := by
    refine List.findIdx?_eq_none_iff.2 fun x hx => ?_
    obtain ⟨k, hk, rfl⟩ := List.getElem_of_mem hx
    rw [← slot_eq_getElem hk, Bool.eq_false_iff]
    exact fun hfree => full k (hk.trans_eq h.slots) ((isFree_iff k).1 hfree)
  unfold Tracker.openingSlot
  rw [hfind]

/-- The run opens a blob in the slot: R55's values, the other matches FREE, the slot the youngest. -/
def Tracker.OpensAt (t : Tracker) (tag : BankId) (p : Nat) (r : Run) (x : Tracker × Bool) (j : Nat) : Prop :=
  x.2 = false ∧ (∃ f : Bool, (f = true ↔ ∃ k, t.IsMatch r k) ∧ x.1.slot j = .blob (Blob.opened r p tag f)) ∧
    (∀ k, k ≠ j → (t.IsMatch r k → x.1.slot k = .free) ∧ (¬t.IsMatch r k → x.1.slot k = t.slot k)) ∧
    ∃ older, x.1.age = older ++ [j] ∧ older.Sublist t.age

theorem Tracker.takeRun_opens (h : t.Ok) (noCand : ∀ j b, ¬t.IsCandidate lim r j b) {j : Nat} (hlt : j < t.slots.length)
    (hj : t.openingSlot (t.continuationMatches r) = some j) : t.OpensAt tag p r (t.takeRun lim tag p r) j := by
  have hlt' : j < (t.freeAll (t.continuationMatches r)).slots.length := by rwa [freeAll_slots_length]
  rw [takeRun_enters (candidates_eq_nil h noCand) hj]
  refine ⟨rfl, ⟨_, any_match_iff h, by rw [slot_enter hlt', if_pos rfl]⟩, fun k hk => ?_,
    _, rfl, List.filter_sublist.trans (t.age_freeAll_sublist _)⟩
  rw [slot_enter hlt', if_neg hk, slot_freeAll, ← mem_continuationMatches h]
  exact ⟨fun hm => if_pos hm, fun hm => if_neg hm⟩

/-- With every slot OPEN a run without candidates is refused, and nothing changes (R57). -/
theorem Tracker.takeRun_refused (h : t.Ok) (noCand : ∀ j b, ¬t.IsCandidate lim r j b)
    (full : ∀ j, j < 32 → ∃ b, t.slot j = .blob b) : t.takeRun lim tag p r = (t, true) := by
  have noContinuation (j : Nat) (hj : j ∈ t.age) : ¬∃ c, t.slot j = .continuation c := by
    rintro ⟨c, hc⟩
    obtain ⟨b, hb⟩ := full j (h.lt32 hj)
    rw [hb] at hc
    cases hc
  have noMatch : t.continuationMatches r = [] := List.filter_eq_nil_iff.2 fun j hj hm => by
    obtain ⟨c, hc, _⟩ := (continuationMatch_iff j).1 hm
    exact noContinuation j hj ⟨c, hc⟩
  have noSlot : t.openingSlot [] = none := by
    rw [openingSlot_full h fun k hk hfree => by
      obtain ⟨b, hb⟩ := full k hk
      rw [hb] at hfree
      cases hfree]
    exact List.find?_eq_none.2 fun j hj hc => noContinuation j hj ((isContinuation_iff j).1 hc)
  exact takeRun_noSlot (candidates_eq_nil h noCand) (noMatch ▸ noSlot)

end

end Sys2Proof.Machine
end

section
/-! A run joined to a blob of a tracker, and the other candidates folded in (R56, R58). -/

namespace Sys2Proof.Machine

/-! ### The survivor (R58) -/

section
variable {t : Tracker}

theorem Tracker.survivor_mem {js : List Nat} {m : Nat} (h : t.survivor js = some m) : m ∈ js := by
  induction js generalizing m with
  | nil => cases h
  | cons j js ih =>
    unfold Tracker.survivor at h
    split at h
    · cases h
      exact List.mem_cons_self
    · next k hk =>
      split at h
      · cases h
        exact List.mem_cons_self
      · cases h
        exact List.mem_cons_of_mem _ (ih hk)

/-- The survivor is the candidate of lowest lead, the earliest of equals. -/
theorem Tracker.survivor_eq {pre post : List Nat} {m : Nat}
    (hpost : ∀ k ∈ post, (t.slot m).leadOf ≤ (t.slot k).leadOf)
    (hpre : ∀ k ∈ pre, (t.slot m).leadOf < (t.slot k).leadOf) : t.survivor (pre ++ m :: post) = some m := by
  induction pre with
  | nil =>
    rw [List.nil_append]
    unfold Tracker.survivor
    split
    · rfl
    · next k hk => exact if_pos (hpost k (survivor_mem hk))
  | cons j pre ih =>
    rw [List.cons_append]
    unfold Tracker.survivor
    rw [ih fun k hk => hpre k (List.mem_cons_of_mem _ hk)]
    exact if_neg (Nat.not_le.2 (hpre j List.mem_cons_self))

end

/-! ### Blobs folded together (R56, R58) -/

/-- Blobs of no lower lead folded into one, figure by figure. -/
theorem foldl_fold_eq {others : List Blob} {b : Blob} {n : Nat} {x : Span} (hn : b.pixels = min 65535 n)
    (hx : b.pendingSpan = some x) (hlead : ∀ c ∈ others, b.lead ≤ c.lead) :
    others.foldl Blob.fold b = { b with
      colMin := (others.map Blob.colMin).foldl min b.colMin
      colMax := (others.map Blob.colMax).foldl max b.colMax
      pixels := min 65535 (n + (others.map Blob.pixels).sum)
      peak := (others.map Blob.peak).foldl max b.peak
      sat := b.sat || others.any Blob.sat
      continues := b.continues || others.any Blob.continues
      pendingSpan := some ((others.filterMap Blob.pendingSpan).foldl Span.union x) } := by
  induction others generalizing b n x with
  | nil => simp [← hn, ← hx]
  | cons c others ih =>
    have hlead_fold : (b.fold c).lead = b.lead := min_eq_left (hlead c List.mem_cons_self)
    have hpixels : (b.fold c).pixels = min 65535 (n + c.pixels) := by
      show min 65535 (b.pixels + c.pixels) = _
      omega
    obtain ⟨y, hy, hspans⟩ : ∃ y, (b.fold c).pendingSpan = some y ∧
        ((c :: others).filterMap Blob.pendingSpan).foldl Span.union x = (others.filterMap Blob.pendingSpan).foldl Span.union y := by
      have hfold : (b.fold c).pendingSpan = unionPending (some x) c.pendingSpan := congrArg (unionPending · _) hx
      rw [hfold]
      cases hc : c.pendingSpan with
      | none => exact ⟨x, rfl, by rw [List.filterMap_cons_none hc]⟩
      | some z => exact ⟨x.union z, rfl, by rw [List.filterMap_cons_some hc]; rfl⟩
    rw [List.foldl_cons, ih hpixels hy fun d hd => hlead_fold ▸ hlead d (List.mem_cons_of_mem _ hd), hspans, hlead_fold]
    simp [Blob.fold, Nat.add_assoc, Bool.or_assoc]

/-! ### The candidates folded into the survivor's slot -/

section
variable {m : Nat}

theorem Tracker.foldInto_slot {t : Tracker} {j : Nat} {b c : Blob} (hm : m < t.slots.length) (hb : t.slot m = .blob b)
    (hc : t.slot j = .blob c) (k : Nat) :
    (Tracker.foldInto m t j).slot k = if k = j then .free else if k = m then .blob (b.fold c) else t.slot k := by
  unfold Tracker.foldInto
  rw [hb, hc]
  dsimp only
  rw [slot_free, slot_setSlot hm]

theorem Tracker.foldInto_length (t : Tracker) (j : Nat) : (Tracker.foldInto m t j).slots.length = t.slots.length := by
  unfold Tracker.foldInto
  split
  · simp [Tracker.free, Tracker.setSlot]
  · rfl

theorem Tracker.foldInto_age (t : Tracker) {j : Nat} (hj : j ≠ m) :
    (Tracker.foldInto m t j).age.Sublist t.age ∧ (m ∈ t.age → m ∈ (Tracker.foldInto m t j).age) := by
  unfold Tracker.foldInto
  split
  · exact ⟨age_free_sublist (t.setSlot m _) j, fun h => (mem_age_free (t.setSlot m _) j m).2 ⟨h, hj.symm⟩⟩
  · exact ⟨List.Sublist.refl _, id⟩

/-- The blobs of several slots folded into slot m one after another: slot m holds the fold, the others are FREE, and the
rest of the table stays. -/
theorem Tracker.foldl_foldInto {t : Tracker} {js : List Nat} {others : List Blob} {b : Blob} (hm : m < t.slots.length)
    (hb : t.slot m = .blob b) (hnodup : js.Nodup) (hmem : m ∉ js)
    (hblobs : List.Forall₂ (fun j c => t.slot j = .blob c) js others) :
    let u := js.foldl (Tracker.foldInto m) t
    (∀ k, u.slot k = if k ∈ js then .free else if k = m then .blob (others.foldl Blob.fold b) else t.slot k) ∧
      u.age.Sublist t.age ∧ (m ∈ t.age → m ∈ u.age) := by
  induction js generalizing t others b with
  | nil =>
    cases hblobs
    refine ⟨fun k => ?_, List.Sublist.refl _, id⟩
    show t.slot k = if k = m then .blob b else t.slot k
    split
    · next hk => rw [hk, hb]
    · rfl
  | cons j js ih =>
    obtain ⟨c, others, hc, hrest, rfl⟩ := List.forall₂_cons_left_iff.1 hblobs
    obtain ⟨hj, hnodup⟩ := List.nodup_cons.1 hnodup
    have hjm : j ≠ m := fun h => hmem (h ▸ List.mem_cons_self)
    have hmjs : m ∉ js := fun h => hmem (List.mem_cons_of_mem _ h)
    have step := foldInto_slot hm hb hc
    have hb' : (Tracker.foldInto m t j).slot m = .blob (b.fold c) := by rw [step, if_neg hjm.symm, if_pos rfl]
    have hblobs' : List.Forall₂ (fun j' c => (Tracker.foldInto m t j).slot j' = .blob c) js others := by
      refine (List.forall₂_and_left (p := fun k => k ∈ js) _ _).2 ⟨fun _ => id, hrest⟩ |>.imp fun k d ⟨hk, hd⟩ => ?_
      rw [step, if_neg (ne_of_mem_of_not_mem hk hj), if_neg (ne_of_mem_of_not_mem hk hmjs), hd]
    obtain ⟨slots, sub, keep⟩ := ih ((foldInto_length t j).symm ▸ hm) hb' hnodup hmjs hblobs'
    obtain ⟨sub₁, keep₁⟩ := foldInto_age t hjm
    refine ⟨fun k => (slots k).trans ?_, sub.trans sub₁, keep ∘ keep₁⟩
    by_cases hk : k = j
    · simp [hk, step, hjm]
    · simp only [List.mem_cons, hk, false_or, step, if_false, List.foldl_cons]
      split
      · rfl
      · split <;> rfl

/-- A run joined to the blob in slot m: the candidates' blobs are folded into it, their slots and the matches become FREE, and
every other slot and its place in age order stays. -/
theorem Tracker.joinRun_spec {t : Tracker} {r : Run} {b : Blob} {cands conts : List Nat} {others : List Blob}
    (hm : m < t.slots.length) (hb : t.slot m = .blob b) (hage : m ∈ t.age) (hnodup : cands.Nodup) (hconts : m ∉ conts)
    (hblobs : List.Forall₂ (fun j c => t.slot j = .blob c) (cands.filter (· != m)) others) :
    let u := t.joinRun r m cands conts
    u.slot m = .blob (others.foldl Blob.fold (b.join r (!conts.isEmpty))) ∧
      (∀ k, k ≠ m → u.slot k = if k ∈ conts ∨ k ∈ cands then .free else t.slot k) ∧ u.age.Sublist t.age ∧ m ∈ u.age := by
  set b' := b.join r (!conts.isEmpty)
  have hset := slot_setSlot hm (.blob b')
  have hm' : m < (t.setSlot m (.blob b')).slots.length := by simpa [Tracker.setSlot] using hm
  have hnot : m ∉ cands.filter (· != m) := fun h => by simpa using (List.mem_filter.1 h).2
  have hblobs' : List.Forall₂ (fun j c => (t.setSlot m (.blob b')).slot j = .blob c) (cands.filter (· != m)) others := by
    refine (List.forall₂_and_left (p := fun k => k ∈ cands.filter (· != m)) _ _).2 ⟨fun _ => id, hblobs⟩ |>.imp
      fun k d ⟨hk, hd⟩ => ?_
    rw [hset, if_neg (ne_of_mem_of_not_mem hk hnot), hd]
  obtain ⟨slots, sub, keep⟩ := foldl_foldInto hm' ((hset m).trans (if_pos rfl)) (hnodup.filter _) hnot hblobs'
  have joined : t.joinRun r m cands conts =
      ((cands.filter (· != m)).foldl (Tracker.foldInto m) (t.setSlot m (.blob b'))).freeAll conts := by
    unfold Tracker.joinRun
    rw [hb]
  dsimp only
  rw [joined]
  refine ⟨by rw [slot_freeAll, if_neg hconts, slots, if_neg hnot, if_pos rfl], fun k hk => ?_,
    (age_freeAll_sublist _ _).trans sub, (mem_age_freeAll _ _ _).2 ⟨keep hage, hconts⟩⟩
  rw [slot_freeAll, slots, hset]
  simp [hk, ite_or]

end

/-! ### A run with candidates -/

theorem exists_forall₂_of_forall_mem {α β : Type} {R : α → β → Prop} {xs : List α} (h : ∀ x ∈ xs, ∃ y, R x y) :
    ∃ ys, List.Forall₂ R xs ys := by
  induction xs with
  | nil => exact ⟨[], .nil⟩
  | cons x xs ih =>
    obtain ⟨hx, hxs⟩ := List.forall_mem_cons.1 h
    obtain ⟨y, hy⟩ := hx
    obtain ⟨ys, hys⟩ := ih hxs
    exact ⟨y :: ys, .cons hy hys⟩

theorem exists_of_forall₂_of_mem_right {α β : Type} {R : α → β → Prop} {xs : List α} {ys : List β} {y : β}
    (h : List.Forall₂ R xs ys) (hy : y ∈ ys) : ∃ x, R x y := by
  induction h with
  | nil => cases hy
  | cons hxy _ ih =>
    rcases List.mem_cons.1 hy with rfl | hy
    · exact ⟨_, hxy⟩
    · exact ih hy

/-- The pending span of a blob that a run joins (R56). -/
def Run.addedTo (r : Run) (pending : Option Span) : Span :=
  match pending with
  | some x => x.union ⟨r.first, r.last⟩
  | none => ⟨r.first, r.last⟩

/-- The blob in slot m after the run (R56, R58). -/
def Blob.joinedWith (b : Blob) (r : Run) (others : List Blob) (f : Bool) : Blob :=
  { b with
    colMin := (others.map Blob.colMin).foldl min (min b.colMin r.first)
    colMax := (others.map Blob.colMax).foldl max (max b.colMax r.last)
    pixels := min 65535 (b.pixels + r.pixels + (others.map Blob.pixels).sum)
    peak := (others.map Blob.peak).foldl max (max b.peak r.peak)
    sat := b.sat || r.sat || others.any Blob.sat
    continues := f
    pendingSpan := some ((others.filterMap Blob.pendingSpan).foldl Span.union (r.addedTo b.pendingSpan)) }

theorem foldl_fold_join {b : Blob} {r : Run} {others : List Blob} (continued : Bool)
    (hlead : ∀ c ∈ others, b.lead ≤ c.lead) : others.foldl Blob.fold (b.join r continued) =
      b.joinedWith r others (b.continues || continued || others.any Blob.continues) := by
  have hspan : (b.join r continued).pendingSpan = some (r.addedTo b.pendingSpan) := by
    unfold Blob.join Run.span
    cases b.pendingSpan <;> rfl
  exact foldl_fold_eq (b := b.join r continued) rfl hspan hlead

section
variable {t : Tracker} {lim : BankId → Nat} {tag : BankId} {p : Nat} {r : Run}

theorem Tracker.candidates_survivor {pre post : List Nat} {m : Nat} {b : Blob}
    (hage : t.age = pre ++ m :: post) (hb : t.IsCandidate lim r m b)
    (hlow : ∀ j c, t.IsCandidate lim r j c → b.lead ≤ c.lead)
    (hfirst : ∀ j ∈ pre, ∀ c, t.IsCandidate lim r j c → b.lead < c.lead) :
    t.survivor (t.candidates lim r) = some m := by
  have lead_eq {j : Nat} {c : Blob} (hc : t.IsCandidate lim r j c) : (t.slot j).leadOf = c.lead := by rw [hc.1]; rfl
  have split : t.candidates lim r =
      pre.filter (fun j => (t.slot j).candidate lim r) ++ m :: post.filter fun j => (t.slot j).candidate lim r := by
    unfold Tracker.candidates
    rw [hage, List.filter_append, List.filter_cons_of_pos (p := fun j => (t.slot j).candidate lim r) ((candidate_iff m).2 ⟨b, hb⟩)]
  rw [split]
  refine survivor_eq (fun k hk => ?_) fun k hk => ?_
  all_goals
    obtain ⟨hmem, hc⟩ := List.mem_filter.1 hk
    obtain ⟨c, hc⟩ := (candidate_iff k).1 hc
    rw [lead_eq hb, lead_eq hc]
  · exact hlow k c hc
  · exact hfirst k hmem c hc

/-- A run with candidates: the survivor takes it and the other candidates in (R56, R58). -/
theorem Tracker.takeRun_joined (h : t.Ok) {pre post : List Nat} {m : Nat} {b : Blob}
    (hage : t.age = pre ++ m :: post) (hb : t.IsCandidate lim r m b)
    (hlow : ∀ j c, t.IsCandidate lim r j c → b.lead ≤ c.lead)
    (hfirst : ∀ j ∈ pre, ∀ c, t.IsCandidate lim r j c → b.lead < c.lead) :
    ∃ (js : List Nat) (others : List Blob) (f : Bool), js.Nodup ∧ List.Forall₂ (t.IsCandidate lim r) js others ∧
      (∀ j, j ∈ js ↔ j ≠ m ∧ ∃ c, t.IsCandidate lim r j c) ∧
      (f = true ↔ b.continues = true ∨ (∃ c ∈ others, c.continues = true) ∨ ∃ k, t.IsMatch r k) ∧
      (t.takeRun lim tag p r).2 = false ∧ (t.takeRun lim tag p r).1.slot m = .blob (b.joinedWith r others f) ∧
      (∀ j, j ≠ m → (j ∈ js ∨ t.IsMatch r j) → (t.takeRun lim tag p r).1.slot j = .free) ∧
      (∀ j, j ≠ m → j ∉ js → ¬t.IsMatch r j → (t.takeRun lim tag p r).1.slot j = t.slot j) ∧
      (t.takeRun lim tag p r).1.age.Sublist t.age ∧ m ∈ (t.takeRun lim tag p r).1.age := by
  have mem_js (j : Nat) : j ∈ (t.candidates lim r).filter (· != m) ↔ j ≠ m ∧ ∃ c, t.IsCandidate lim r j c := by
    rw [List.mem_filter, bne_iff_ne, mem_candidates h, and_comm]
  obtain ⟨others, hothers⟩ := exists_forall₂_of_forall_mem fun j hj => ((mem_js j).1 hj).2
  have hmage : m ∈ t.age := hage ▸ List.mem_append_right pre List.mem_cons_self
  have hconts : m ∉ t.continuationMatches r := fun hm => by
    obtain ⟨c, hc, _⟩ := (mem_continuationMatches h m).1 hm
    rw [hb.1] at hc
    cases hc
  have hlead : ∀ c ∈ others, b.lead ≤ c.lead := fun c hc => by
    obtain ⟨j, hj⟩ := exists_of_forall₂_of_mem_right hothers hc
    exact hlow j c hj
  obtain ⟨blob, slots, sub, keep⟩ := joinRun_spec (r := r) (h.lt hmage) hb.1 hmage
    (h.once.filter _ : (t.candidates lim r).Nodup) hconts (hothers.imp fun _ _ hc => hc.1)
  rw [foldl_fold_join _ hlead] at blob
  rw [takeRun_joins (candidates_survivor hage hb hlow hfirst)]
  refine ⟨_, others, _, (h.once.filter _).filter _, hothers, mem_js, ?_, rfl, blob, fun j hj hfree => ?_, fun j hj hjs hm => ?_,
    sub, keep⟩
  · rw [Bool.or_eq_true, Bool.or_eq_true, any_match_iff h, List.any_eq_true]
    exact or_assoc.trans (or_congr_right or_comm)
  · refine (slots j hj).trans (if_pos ?_)
    exact hfree.symm.imp (mem_continuationMatches h j).2 fun hjs => (List.mem_filter.1 hjs).1
  · refine (slots j hj).trans (if_neg ?_)
    rintro (hc | hc)
    · exact hm ((mem_continuationMatches h j).1 hc)
    · exact hjs ((mem_js j).2 ⟨hj, (mem_candidates h j).1 hc⟩)

end

end Sys2Proof.Machine
end

section
/-! The runs a detected line hands on, and the runs a lane takes in order (R49, R53, R57). -/

namespace Sys2Proof.Machine

/-! ### The runs taken by a lane (R53, R57) -/

@[simp] theorem settleDetect_report (s : State) : (settleDetect s).report = s.report := by
  unfold settleDetect
  split
  · split <;> rfl
  · rfl

section
variable {i : LaneId} {tag : BankId} {p n : Nat} {r : Run} {s : State}

theorem takeRun_taken (h : ((s.lane i).tracker.takeRun (fun b => (s.laneEntry b i).idleLines) tag p r).2 = false) :
    takeRun i tag p (s, n) r = (settleDetect (s.setTracker i
      ((s.lane i).tracker.takeRun (fun b => (s.laneEntry b i).idleLines) tag p r).1), n) := by
  unfold takeRun
  dsimp only
  rw [h]
  rfl

/-- A refused run counts 1 in the report (R57). -/
theorem takeRun_counted (h : ((s.lane i).tracker.takeRun (fun b => (s.laneEntry b i).idleLines) tag p r).2 = true) :
    takeRun i tag p (s, n) r = ((settleDetect (s.setTracker i
      ((s.lane i).tracker.takeRun (fun b => (s.laneEntry b i).idleLines) tag p r).1)).withReport
        { s.report with current := { s.report.current with
          blobsRefused := min Config.max32 (s.report.current.blobsRefused + 1) } }, n + 1) := by
  unfold takeRun
  dsimp only
  rw [h, if_pos rfl, State.count, settleDetect_report, State.setTracker_report]
  rfl

end

/-! ### The parts of the statement -/

theorem detectLine_handsOn (i : LaneId) (b : BankId) (l : Line) (s : State) :
    let r := detectColumns (s.laneEntry b i) (laneBoundaries (s.detectTables b) i) (laneThresholds (s.detectTables b) i) 0
      l.pixels (s.lane i).profile
    let runs := formRuns (s.laneEntry b i).g r.2
    let u := s.setProfile i r.1
    (detectLine i b l s).2 = runs.take 64 ∧ (runs.length ≤ 64 → (detectLine i b l s).1 = u) ∧
      (64 < runs.length → hasRoom s → ∃ v, Raised .runOverflow (some i) (runs.length - 64) l.trigger u v ∧
        (detectLine i b l s).1 = v.withReport { v.report with current := { v.report.current with
          runsOverflowed := min Config.max32 (v.report.current.runsOverflowed + (runs.length - 64)) } }) := by
  intro r runs u
  have kept : (detectLine i b l s).1 = overflowRuns i (runs.length - 64) l.trigger u := rfl
  refine ⟨rfl, fun hle => ?_, fun hlt hroom => ?_⟩
  · rw [kept, Nat.sub_eq_zero_of_le hle, overflowRuns_zero]
  · rw [kept]
    exact overflowRuns_raised i l.trigger (Nat.sub_pos_of_lt hlt) hroom

/-- A run without candidates: refused with every slot OPEN, else opened in the oldest match, the lowest FREE slot or the oldest
CONTINUATION slot (R55, R57). -/
theorem Tracker.takeRun_without_candidates {t : Tracker} {lim : BankId → Nat} {tag : BankId} {p : Nat} {r : Run} (h : t.Ok)
    (noCand : ∀ j b, ¬t.IsCandidate lim r j b) :
    ((∀ j, j < 32 → ∃ b, t.slot j = .blob b) → t.takeRun lim tag p r = (t, true)) ∧
    (∀ pre j post, t.age = pre ++ j :: post → t.IsMatch r j → (∀ k ∈ pre, ¬t.IsMatch r k) →
      t.OpensAt tag p r (t.takeRun lim tag p r) j) ∧
    ((∀ k, ¬t.IsMatch r k) → ∀ j, j < 32 → t.slot j = .free → (∀ k, k < j → t.slot k ≠ .free) →
      t.OpensAt tag p r (t.takeRun lim tag p r) j) ∧
    ((∀ k, ¬t.IsMatch r k) → (∀ k, k < 32 → t.slot k ≠ .free) → ∀ pre j post c, t.age = pre ++ j :: post →
      t.slot j = .continuation c → (∀ k ∈ pre, ∀ d, t.slot k ≠ .continuation d) →
      t.OpensAt tag p r (t.takeRun lim tag p r) j) := by
  have mem_age {pre post : List Nat} {j : Nat} (hage : t.age = pre ++ j :: post) : j ∈ t.age := by
    rw [hage]
    exact List.mem_append_right pre List.mem_cons_self
  refine ⟨takeRun_refused h noCand, fun pre j post hage hj hpre => ?_, fun noMatch j hlt hfree hlow => ?_,
    fun noMatch full pre j post c hage hc hpre => ?_⟩
  · exact takeRun_opens h noCand (h.lt (mem_age hage)) (openingSlot_match hage hj hpre)
  · refine takeRun_opens h noCand (h.slots_lt hlt) ?_
    rw [continuationMatches_eq_nil h noMatch]
    exact openingSlot_free (h.slots_lt hlt) hfree hlow
  · refine takeRun_opens h noCand (h.lt (mem_age hage)) ?_
    rw [continuationMatches_eq_nil h noMatch, openingSlot_full h full, hage]
    refine List.find?_eq_some_iff_append.2 ⟨(isContinuation_iff j).2 ⟨c, hc⟩, pre, post, rfl, fun k hk => ?_⟩
    rw [Bool.not_eq_true', Bool.eq_false_iff, ne_eq, isContinuation_iff]
    exact fun ⟨d, hd⟩ => hpre k hk d hd

/-- Settles O25: hits to groups, the line's runs, the branches of taking a run, and the runs of a line in order. -/
theorem runsGatherHits : Obligations.RunsGatherHits := by
  unfold Obligations.RunsGatherHits
  refine ⟨⟨fun g hs _ => formRuns_groups g hs, detectLine_handsOn⟩, fun t lim tag p r h => ?_, ?_⟩
  · exact ⟨fun noCand => Tracker.takeRun_without_candidates h noCand,
      fun pre m post b hage hb hlow hfirst => Tracker.takeRun_joined h hage hb hlow hfirst⟩
  · intro i tag p tr n r runs s
    exact ⟨takeRun_taken, takeRun_counted, fun h0 => if_pos h0, fun hpos => if_neg (Nat.pos_iff_ne_zero.1 hpos)⟩

end Sys2Proof.Machine
end

section
/-! What a recomputation of H leaves of the lanes (R82, R89 to R96): planning in INSPECT reaches none. -/

namespace Sys2Proof.Machine

@[simp] theorem waitForSchedule_lanes (s : State) : (waitForSchedule s).lanes = s.lanes := by
  unfold waitForSchedule
  split
  · rfl
  · exact raise_lanes _ _ _ _ s

@[simp] theorem endInWait_lanes (w : WaitState) (s : State) : (endInWait w s).lanes = s.lanes := by
  cases w with
  | schedule => exact waitForSchedule_lanes s
  | none => rfl
  | horizon => rfl
  | queue => rfl

section
variable {k : PlateKind} {o : Option Nat} {g : Grade} {c f : Nat} {late : Bool} {s t : State}

theorem placePlate_lanes (h : placePlate k o g c f late s = some t) : t.lanes = s.lanes := by
  unfold placePlate at h
  split at h
  · next hi =>
    cases h
    obtain ⟨rfl, -, -⟩ := insertEntry_held hi
    rfl
  · cases h
  · cases h

theorem commitPlate_lanes (h : commitPlate k o g c s = some t) : t.lanes = s.lanes := by
  unfold commitPlate at h
  dsimp only at h
  split at h
  · obtain ⟨u, hu, rfl⟩ := Option.map_eq_some_iff.1 h
    exact (raise_lanes _ _ _ _ u).trans (placePlate_lanes hu)
  · exact placePlate_lanes h

end

@[simp] theorem planLoop_lanes (n : Nat) (s : State) : (planLoop n s).lanes = s.lanes := by
  induction n generalizing s with
  | zero => rfl
  | succ n ih =>
    unfold planLoop
    split
    · exact endInWait_lanes _ s
    · rfl
    · split
      · exact waitForSchedule_lanes s
      · next s1 hc =>
        split
        · exact (commitPlate_lanes hc : s1.lanes = s.lanes)
        · exact (ih s1).trans (commitPlate_lanes hc)

@[simp] theorem switchGrade_lanes (s : State) : (switchGrade s).lanes = s.lanes := by
  unfold switchGrade
  split
  · rfl
  · split <;> rfl

@[simp] theorem takeGradeSwitch_lanes (s : State) : (takeGradeSwitch s).lanes = s.lanes := by
  unfold takeGradeSwitch
  split
  · rfl
  · exact switchGrade_lanes s

/-- The stop can end in STOPPING alone (R101). -/
theorem checkStopEnd_inspect {s : State} (h : s.trunk.run = .inspect) : checkStopEnd s = s := by
  unfold checkStopEnd
  rw [h]
  rfl

theorem planningAttempt_lanes {s : State} (h : s.trunk.run = .inspect) : (planningAttempt s).lanes = s.lanes := by
  have switched : (takeGradeSwitch s).trunk.run = .inspect := (takeGradeSwitch_quiet s).inspect h
  unfold planningAttempt
  rw [h, if_neg (by decide)]
  dsimp only
  split
  · rw [checkStopEnd_inspect switched, takeGradeSwitch_lanes]
  · rw [checkStopEnd_inspect ((planLoop_quiet _ _).inspect switched), planLoop_lanes, takeGradeSwitch_lanes]

@[simp] theorem recomputeH_lanes (s : State) : (recomputeH s).lanes = s.lanes := by
  unfold recomputeH
  split
  · next run =>
    dsimp only
    split
    · exact planningAttempt_lanes (beq_iff_eq.1 run)
    · rfl
  · rfl

end Sys2Proof.Machine
end

section
/-! A closing blob placed and classified (R67, R69), and what it comes to (R70, R71). -/

namespace Sys2Proof.Machine

/-! ### The class table (R69) -/

theorem PolaritySelector.admits_iff (x : PolaritySelector) (p : Polarity) :
    x.admits p = true ↔ x = .either ∨ (x = .dark ∧ p = .dark) ∨ (x = .bright ∧ p = .bright) := by
  cases x <;> cases p <;> decide

theorem SatSelector.admits_iff (x : SatSelector) (sat : Bool) :
    x.admits sat = true ↔ x = .any ∨ (x = .satOnly ∧ sat = true) ∨ (x = .noSat ∧ sat = false) := by
  cases x <;> cases sat <;> decide

theorem inRange_iff (lo hi v : Nat) : inRange lo hi v = true ↔ lo ≤ v ∧ (hi = 0 ∨ v ≤ hi) := by
  unfold inRange
  rw [Bool.and_eq_true, Bool.or_eq_true, decide_eq_true_iff, decide_eq_true_iff, beq_iff_eq]

theorem inSpan_iff (lo hi v : Nat) : inSpan lo hi v = true ↔ lo ≤ v ∧ v < hi := by
  unfold inSpan
  rw [Bool.and_eq_true, decide_eq_true_iff, decide_eq_true_iff]

/-- A rule is enabled and takes a blob's polarity, measure and SAT mark. -/
def ClassRule.Fits (b : Blob) (m : Measure) (c : ClassRule) : Prop :=
  c.enable = true ∧ (c.polarity = .either ∨ (c.polarity = .dark ∧ b.polarity = .dark) ∨
    (c.polarity = .bright ∧ b.polarity = .bright)) ∧
  c.lengthMin ≤ m.length ∧ (c.lengthMax = 0 ∨ m.length ≤ c.lengthMax) ∧
  c.widthMin ≤ m.width ∧ (c.widthMax = 0 ∨ m.width ≤ c.widthMax) ∧ c.peakMin ≤ m.peak ∧
  (c.sat = .any ∨ (c.sat = .satOnly ∧ b.sat = true) ∨ (c.sat = .noSat ∧ b.sat = false))

theorem ClassRule.admits_iff (c : ClassRule) (b : Blob) (m : Measure) :
    c.admits b.polarity b.sat m = true ↔ c.Fits b m := by
  unfold ClassRule.admits ClassRule.Fits
  simp only [Bool.and_eq_true, decide_eq_true_iff, PolaritySelector.admits_iff, SatSelector.admits_iff, inRange_iff,
    and_assoc]

section
variable {rules : List ClassRule} {b : Blob} {m : Measure}

theorem classify_none (h : ∀ c ∈ rules, ¬c.Fits b m) : classify rules b.polarity b.sat m = none :=
  Option.map_eq_none_iff.2 (List.find?_eq_none.2 fun c hc fits => h c hc ((c.admits_iff b m).1 fits))

theorem classify_first {pre post : List ClassRule} {c : ClassRule} (hr : rules = pre ++ c :: post)
    (hpre : ∀ x ∈ pre, ¬x.Fits b m) (hc : c.Fits b m) : classify rules b.polarity b.sat m = some c.code := by
  have found : rules.find? (fun x => x.admits b.polarity b.sat m) = some c :=
    List.find?_eq_some_iff_append.2 ⟨(c.admits_iff b m).2 hc, pre, post, hr, fun x hx => by
      rw [Bool.not_eq_true', Bool.eq_false_iff, ne_eq, ClassRule.admits_iff]
      exact hpre x hx⟩
  unfold classify
  rw [found]
  rfl

/-! ### Placement, then classification (R67) -/

/-- A measured blob's centre lies in the lane's ownership span. -/
def LaneEntry.Owns (e : LaneEntry) (m : Measure) : Prop := e.ownLo ≤ m.centre ∧ m.centre < e.ownHi

/-- A measured blob's centre lies in the net width. -/
def Setup.OnNet (p : Setup) (m : Measure) : Prop := p.netLo ≤ m.centre ∧ m.centre < p.netHi

variable {p : Setup} {e : LaneEntry}

theorem judge_overlap (own : ¬e.Owns m) : judge p e rules b m = .overlap := by
  unfold judge
  rw [Bool.eq_false_iff.2 fun h => own ((inSpan_iff _ _ _).1 h)]
  rfl

theorem judge_edge (own : e.Owns m) (net : ¬p.OnNet m) : judge p e rules b m = .edge := by
  unfold judge
  rw [(inSpan_iff _ _ _).2 own, Bool.eq_false_iff.2 fun h => net ((inSpan_iff _ _ _).1 h)]
  rfl

theorem judge_placed (own : e.Owns m) (net : p.OnNet m) :
    judge p e rules b m = ((classify rules b.polarity b.sat m).map Verdict.flaw).getD .noise := by
  unfold judge
  rw [(inSpan_iff _ _ _).2 own, (inSpan_iff _ _ _).2 net]
  cases classify rules b.polarity b.sat m <;> rfl

theorem judge_noise (own : e.Owns m) (net : p.OnNet m) (h : ∀ c ∈ rules, ¬c.Fits b m) : judge p e rules b m = .noise := by
  rw [judge_placed own net, classify_none h]
  rfl

theorem judge_flaw {pre post : List ClassRule} {c : ClassRule} (own : e.Owns m) (net : p.OnNet m)
    (hr : rules = pre ++ c :: post) (hpre : ∀ x ∈ pre, ¬x.Fits b m) (hc : c.Fits b m) :
    judge p e rules b m = .flaw c.code := by
  rw [judge_placed own net, classify_first hr hpre hc]
  rfl

end

/-! ### What a closing blob comes to (R63) -/

section
variable {i : LaneId} {b : Blob} {cont : Bool} {s : State}

/-- A closing blob's measure in the state it closes in. -/
def State.measured (s : State) (i : LaneId) (b : Blob) : Measure := measure s.setup (s.laneEntry b.tag i) b

/-- A closing blob's verdict in the state it closes in. -/
def State.verdict (s : State) (i : LaneId) (b : Blob) : Verdict :=
  judge s.setup (s.laneEntry b.tag i) (s.detectTables b.tag).classes b (s.measured i b)

/-- What a closing blob comes to under a verdict: a count, or a FLAW record for the map and the trunk. -/
def settled (i : LaneId) (b : Blob) (cont : Bool) (s : State) : Verdict → State
  | .overlap => s.count fun r => { r with overlapDrops := bump32 r.overlapDrops }
  | .edge => s.count fun r => { r with edgeDrops := bump32 r.edgeDrops }
  | .noise => s.count fun r => { r with noiseDrops := bump32 r.noiseDrops }
  | .flaw k =>
    let id := (s.flawId + 1) % 2 ^ 32
    let r := flawRecord id i k b (s.measured i b) cont
    copyFlaw r (enterFlaw r (s.withFlawId id))

theorem settleBlob_of_verdict {v : Verdict} (h : s.verdict i b = v) : settleBlob i b cont s = settled i b cont s v := by
  subst h
  rfl

end

/-- A FLAW record's copy joins the trunk's queue, or is counted at a full one (R71). -/
theorem copyFlaw_cases (r : FlawRecord) (s : State) :
    (s.trunk.flaws.length < 128 → copyFlaw r s = s.withTrunk { s.trunk with flaws := s.trunk.flaws ++ [r] }) ∧
    (128 ≤ s.trunk.flaws.length →
      copyFlaw r s = s.withTrunk { s.trunk with flawDrops := min Config.max32 (s.trunk.flawDrops + 1) }) :=
  ⟨fun h => if_pos h, fun h => if_neg (Nat.not_lt.2 h)⟩

end Sys2Proof.Machine
end

section
/-! The end of a line, the close of a blob and a flush, in the tracker of the lane (R59 to R64). -/

namespace Sys2Proof.Machine

/-! ### The end of a line (R59, R60, R62) -/

theorem Tracker.slot_endLine (t : Tracker) (p j : Nat) : (t.endLine p).slot j = (t.slot j).endLine p :=
  List.getD_map t.slots .free (Slot.endLine p)

theorem Tracker.mem_age_endLine (t : Tracker) (p j : Nat) :
    j ∈ (t.endLine p).age ↔ j ∈ t.age ∧ (t.endLine p).slot j ≠ .free := by
  refine List.mem_filter.trans (and_congr_right fun _ => ?_)
  rw [ne_eq, ← Tracker.isFree_iff, Bool.not_eq_true, Bool.not_eq_true']
  rfl

theorem Blob.endLine_joined {b : Blob} {y : Span} (p : Nat) (h : b.pendingSpan = some y) :
    b.endLine p = { b with
      lines := if b.openedNow then b.lines else min 4095 (b.lines + b.idle + 1)
      idle := 0, lastJoined := p, lastSpan := y, pendingSpan := none, openedNow := false } := by
  unfold Blob.endLine
  rw [h]

theorem Blob.endLine_idle {b : Blob} (p : Nat) (h : b.pendingSpan = none) :
    b.endLine p = { b with idle := b.idle + 1 } := by
  unfold Blob.endLine
  rw [h]

theorem Slot.endLine_continuation_ages {c : Continuation} (p : Nat) (h : c.idle < c.idleLimit) :
    Slot.endLine p (.continuation c) = .continuation { c with idle := c.idle + 1 } := if_neg (Nat.not_lt.2 h)

theorem Slot.endLine_continuation_ends {c : Continuation} (p : Nat) (h : c.idleLimit ≤ c.idle) :
    Slot.endLine p (.continuation c) = .free := if_pos (Nat.lt_succ_of_le h)

/-! ### What is due to close (R60, R61) -/

section
variable (entry : BankId → LaneEntry) (b : Blob)

theorem Slot.due_blob : Slot.due entry (.blob b) =
    if (entry b.tag).idleLines < b.idle then some .idle
    else if (entry b.tag).maxBlobLines ≤ b.lines then some .segment else none := rfl

theorem Slot.due_idle_iff : Slot.due entry (.blob b) = some .idle ↔ (entry b.tag).idleLines < b.idle := by
  rw [due_blob]
  split
  · next h => exact iff_of_true rfl h
  · next h => split <;> exact iff_of_false nofun h

theorem Slot.due_segment_iff : Slot.due entry (.blob b) = some .segment ↔
    b.idle ≤ (entry b.tag).idleLines ∧ (entry b.tag).maxBlobLines ≤ b.lines := by
  rw [due_blob]
  split
  · next h => exact iff_of_false nofun fun c => Nat.not_lt.2 c.1 h
  · next h =>
    split
    · next full => exact iff_of_true rfl ⟨Nat.not_lt.1 h, full⟩
    · next room => exact iff_of_false nofun fun c => room c.2

end

theorem closeDue_eq (i : LaneId) (s : State) :
    let t := (s.lane i).tracker
    let entry : BankId → LaneEntry := fun b => s.laneEntry b i
    closeDue i s = (t.age.filter fun j => ((t.slot j).due entry).isSome).foldl
      (fun u j => closeSlot i (decide ((t.slot j).due entry = some .segment)) u j) s := by
  dsimp only
  rw [List.foldl_filter]
  unfold closeDue
  dsimp only
  congr 1
  funext u j
  rcases Slot.due _ _ with _ | _ | _ <;> rfl

/-! ### The close of a blob (R63) -/

/-- The table after the close of the blob in slot j: its slot FREE, or after a segment a CONTINUATION, the youngest (R61). -/
def Tracker.closed (t : Tracker) (segment : Bool) (j : Nat) (b : Blob) (idleLimit : Nat) : Tracker :=
  if segment then t.enter j (.continuation ⟨b.polarity, b.lastSpan, 0, idleLimit⟩) else t.free j

theorem settleBlob_laneEntry (i j : LaneId) (b : Blob) (cont : Bool) (s : State) (k : BankId) :
    (settleBlob i b cont s).laneEntry k j = s.laneEntry k j :=
  congrArg (fun t : DetectTables => t.lanes.get j) ((settleBlob_quiet i b cont s).tables k)

section
variable {i : LaneId} {s : State} {j : Nat}

theorem closeSlot_blob {b : Blob} (segment : Bool) (hb : (s.lane i).tracker.slot j = .blob b) :
    closeSlot i segment s j = recomputeH (settleDetect ((settleBlob i b segment s).setLane i { s.lane i with
      tracker := (s.lane i).tracker.closed segment j b (s.laneEntry b.tag i).idleLines })) := by
  unfold closeSlot
  rw [hb]
  dsimp only
  rw [settleBlob_laneEntry, State.setTracker, lane_of_lanes (settleBlob_lanes i b segment s)]
  rfl

theorem closeSlot_tracker (h : ((s.lane i).tracker.slot j).isOpen = true) :
    ((closeSlot i false s j).lane i).tracker = (s.lane i).tracker.free j := by
  cases hb : (s.lane i).tracker.slot j with
  | free => rw [hb] at h; cases h
  | continuation c => rw [hb] at h; cases h
  | blob b =>
    rw [closeSlot_blob false hb, lane_of_lanes (recomputeH_lanes _), lane_of_lanes (settleDetect_lanes _),
      State.setLane_lane_same]
    rfl

end

/-! ### A flush (R64) -/

/-- OPEN slots closed one after another become FREE, whatever the closes hand on. -/
theorem closeSlots_tracker {i : LaneId} {js : List Nat} (once : js.Nodup) {s : State}
    (h : ∀ j ∈ js, ((s.lane i).tracker.slot j).isOpen = true) :
    ((js.foldl (closeSlot i false) s).lane i).tracker = (s.lane i).tracker.freeAll js := by
  induction js generalizing s with
  | nil => rfl
  | cons j js ih =>
    obtain ⟨hj, once⟩ := List.nodup_cons.1 once
    have closed := closeSlot_tracker (h j List.mem_cons_self)
    refine (ih once fun k hk => ?_).trans (congrArg (Tracker.freeAll · js) closed)
    rw [closed, Tracker.slot_free, if_neg (ne_of_mem_of_not_mem hk hj)]
    exact h k (List.mem_cons_of_mem j hk)

theorem Tracker.eq_empty {t : Tracker} (h : t.Ok) (free : ∀ j, t.slot j = .free) : t = Tracker.empty := by
  have age : t.age = [] := List.eq_nil_iff_forall_not_mem.2 fun j hj => by
    have used := (h.held j).1 hj
    rw [free j] at used
    cases used
  have slots : t.slots = List.replicate Config.blobSlots .free := by
    refine List.eq_replicate_iff.2 ⟨h.slots, fun x hx => ?_⟩
    obtain ⟨j, hj, rfl⟩ := List.mem_iff_getElem.1 hx
    exact (Tracker.slot_eq_getElem hj).symm.trans (free j)
  cases t
  cases age
  cases slots
  rfl

/-- The OPEN slots made FREE, then the CONTINUATION slots: nothing is left. -/
theorem Tracker.freeAll_open_then_continuation {t : Tracker} (h : t.Ok) :
    let u := t.freeAll (t.age.filter fun j => (t.slot j).isOpen)
    u.freeAll (u.age.filter fun j => (u.slot j).isContinuation) = Tracker.empty := by
  intro u
  have hu : u.Ok := freeAll_ok h _
  refine eq_empty (freeAll_ok hu _) fun j => ?_
  rw [slot_freeAll]
  split
  · rfl
  · next held =>
    cases hj : u.slot j with
    | free => rfl
    | continuation c =>
      exact absurd (List.mem_filter.2 ⟨(hu.held j).2 (by rw [hj]; rfl), by rw [hj]; rfl⟩) held
    | blob b =>
      rw [slot_freeAll] at hj
      split at hj
      · cases hj
      · next notOpen =>
        exact absurd (List.mem_filter.2 ⟨(h.held j).2 (by rw [hj]; rfl), by rw [hj]; rfl⟩) notOpen

theorem flush_spec {i : LaneId} {s : State} (h : (s.lane i).tracker.Ok) :
    flush i s = (((s.lane i).tracker.age.filter fun j => ((s.lane i).tracker.slot j).isOpen).foldl
      (closeSlot i false) s).setTracker i Tracker.empty := by
  have closed := closeSlots_tracker (h.once.filter fun j => ((s.lane i).tracker.slot j).isOpen)
    (s := s) (i := i) fun j hj => (List.mem_filter.1 hj).2
  unfold flush
  dsimp only
  rw [closed, Tracker.freeAll_open_then_continuation h]

/-! ### The parts of the statement -/

/-- What a closing blob comes to, by its place and the class table's first fitting rule. -/
theorem settleBlob_placed_and_classified (i : LaneId) (b : Blob) (cont : Bool) (s : State) :
    let e := s.laneEntry b.tag i
    let m := s.measured i b
    let rules := (s.detectTables b.tag).classes
    let id := (s.flawId + 1) % 2 ^ 32
    let flaw : Nat → FlawRecord := fun k => flawRecord id i k b m cont
    (¬e.Owns m → settleBlob i b cont s = s.count fun r => { r with overlapDrops := bump32 r.overlapDrops }) ∧
    (e.Owns m → ¬s.setup.OnNet m →
      settleBlob i b cont s = s.count fun r => { r with edgeDrops := bump32 r.edgeDrops }) ∧
    (e.Owns m → s.setup.OnNet m → (∀ c ∈ rules, ¬c.Fits b m) →
      settleBlob i b cont s = s.count fun r => { r with noiseDrops := bump32 r.noiseDrops }) ∧
    ∀ pre c post, e.Owns m → s.setup.OnNet m → rules = pre ++ c :: post → (∀ x ∈ pre, ¬x.Fits b m) → c.Fits b m →
      settleBlob i b cont s = copyFlaw (flaw c.code) (enterFlaw (flaw c.code) (s.withFlawId id)) := by
  intro e m rules id flaw
  exact ⟨fun own => settleBlob_of_verdict (judge_overlap own),
    fun own net => settleBlob_of_verdict (judge_edge own net),
    fun own net noFit => settleBlob_of_verdict (judge_noise own net noFit),
    fun pre c post own net hr hpre hc => settleBlob_of_verdict (judge_flaw own net hr hpre hc)⟩

/-- Every slot at the end of a line, and the age order of those still in use. -/
theorem Tracker.endLine_spec (t : Tracker) (p : Nat) :
    let x := t.endLine p
    (∀ j, t.slot j = .free → x.slot j = .free) ∧
    (∀ j b y, t.slot j = .blob b → b.pendingSpan = some y → x.slot j = .blob { b with
      lines := if b.openedNow then b.lines else min 4095 (b.lines + b.idle + 1)
      idle := 0, lastJoined := p, lastSpan := y, pendingSpan := none, openedNow := false }) ∧
    (∀ j b, t.slot j = .blob b → b.pendingSpan = none → x.slot j = .blob { b with idle := b.idle + 1 }) ∧
    (∀ j c, t.slot j = .continuation c → (c.idle < c.idleLimit → x.slot j = .continuation { c with idle := c.idle + 1 }) ∧
      (c.idleLimit ≤ c.idle → x.slot j = .free)) ∧
    x.age.Sublist t.age ∧ ∀ j, j ∈ x.age ↔ j ∈ t.age ∧ x.slot j ≠ .free := by
  intro x
  have ends {j : Nat} {y : Slot} (hj : t.slot j = y) : x.slot j = y.endLine p := by
    rw [← hj]
    exact t.slot_endLine p j
  exact ⟨fun j hj => ends hj,
    fun j b y hb hy => (ends hb).trans (congrArg Slot.blob (Blob.endLine_joined p hy)),
    fun j b hb hy => (ends hb).trans (congrArg Slot.blob (Blob.endLine_idle p hy)),
    fun j c hc => ⟨fun h => (ends hc).trans (Slot.endLine_continuation_ages p h),
      fun h => (ends hc).trans (Slot.endLine_continuation_ends p h)⟩,
    List.filter_sublist, t.mem_age_endLine p⟩

/-- Settles O26: the verdict on a closing blob, its copy, the slots at the end of a line, the closes, and a flush. -/
theorem closedBlobIsPlacedAndClassified : Obligations.ClosedBlobIsPlacedAndClassified := by
  unfold Obligations.ClosedBlobIsPlacedAndClassified
  refine ⟨⟨settleBlob_placed_and_classified, copyFlaw_cases⟩, fun t p _ => t.endLine_spec p, fun i p s ok => ?_⟩
  intro tr entry close
  refine ⟨fun b => ⟨Slot.due_idle_iff entry b, Slot.due_segment_iff entry b⟩, rfl, closeDue_eq i s,
    fun j b seg hb => closeSlot_blob seg hb, ?_, _, rfl, flush_spec ok⟩
  rw [flush_spec ok, State.setTracker, State.setLane_lane_same]
  rfl

end Sys2Proof.Machine
end

section
/-! The laws of the trunk's queues, the flaw map and the plate queue, through every step: `Kept` for the commands, the
resets, the arbiter's take and the part's own step (R74, R75, R89, R97, R101, R168, R171). -/

namespace Sys2Proof.Machine

/-- The collections keep their laws: the trunk's queues, the flaw map and the plate queue. -/
structure CollectionLaws (s : State) : Prop where
  queues : QueuesOk s
  map : MapOk s
  planner : PlannerOk s

theorem Kept.queuesOk {s u : State} (k : Kept s u) (h : QueuesOk s) : QueuesOk u where
  requests_le := k.requestsLe.trans (max_le h.requests_le le_rfl)
  urgent_le := k.urgentLe.trans (max_le h.urgent_le le_rfl)
  flaws_le := k.flawsLe.trans (max_le h.flaws_le le_rfl)
  waiting := k.waiting h.waiting

theorem Kept.mapOk {s u : State} (k : Kept s u) (h : MapOk s) : MapOk u where
  sorted := k.mapSorted h.sorted
  room := k.mapLe.trans (max_le h.room le_rfl)

theorem Kept.plannerOk {s u : State} (k : Kept s u) (h : PlannerOk s) : PlannerOk u where
  room := k.queueLe.trans (max_le h.room le_rfl)
  standby := k.standby h.standby

theorem Kept.collectionLaws {s u : State} (k : Kept s u) (h : CollectionLaws s) : CollectionLaws u :=
  ⟨k.queuesOk h.queues, k.mapOk h.map, k.plannerOk h.planner⟩

/-- After a reset the map and the plate queue are empty, no request waits, and the records that the reset queues fit. -/
theorem CollectionLaws.of_reset {u : State} (hm : u.map.records = []) (hq : u.plan.queue = [])
    (hr : u.trunk.requests = []) (hu : u.trunk.urgent.length ≤ Config.urgentSlots) (hf : u.trunk.flaws = []) :
    CollectionLaws u where
  queues := ⟨by simp [hr], hu, by simp [hf], fun _ => hr⟩
  map := ⟨by simp [hm], by simp [hm]⟩
  planner := ⟨by simp [hq], fun _ => hq⟩

/-- The take shortens the outbound queues by at most their oldest record (R172). -/
theorem arbiter_queues_suffix (u : State) :
    (arbiter u).trunk.urgent <:+ u.trunk.urgent ∧ (arbiter u).trunk.flaws <:+ u.trunk.flaws := by
  rcases arbiter_cases u with ⟨-, h⟩ | ⟨-, -, ⟨r, rest, hu, h⟩ | ⟨-, r, rest, hf, h⟩ | ⟨-, -, i, l, -, h⟩⟩
  · rw [h]
    exact ⟨List.suffix_rfl, List.suffix_rfl⟩
  · rw [h, hu]
    exact ⟨List.suffix_cons r rest, List.suffix_rfl⟩
  · rw [h, hf]
    exact ⟨List.suffix_rfl, List.suffix_cons r rest⟩
  · rw [h]
    exact ⟨List.suffix_rfl, List.suffix_rfl⟩

theorem arbiter_collectionLaws {u : State} (h : CollectionLaws u) : CollectionLaws (arbiter u) := by
  have take := arbiter_afterTake u
  obtain ⟨urgent, flaws⟩ := arbiter_queues_suffix u
  refine ⟨⟨?_, urgent.length_le.trans h.queues.urgent_le, flaws.length_le.trans h.queues.flaws_le, ?_⟩, ⟨?_, ?_⟩, ⟨?_, ?_⟩⟩
  · rw [take.requests]
    exact h.queues.requests_le
  · rw [take.requests, take.executing]
    exact h.queues.waiting
  · rw [take.blocks.map]
    exact h.map.sorted
  · rw [take.blocks.map]
    exact h.map.room
  · rw [take.blocks.plan]
    exact h.planner.room
  · rw [take.blocks.run, take.blocks.plan]
    exact h.planner.standby

theorem exec_collectionLaws {c : Instr} {s t : State} (hl : LinesOk s) (h : CollectionLaws s) (ht : exec c s = .next t) :
    CollectionLaws t := by
  by_cases hpow : ∃ lv, c = .powerOnReset lv
  · obtain ⟨lv, rfl⟩ := hpow
    rw [next_of_done ht]
    exact arbiter_collectionLaws (.of_reset rfl rfl rfl (show 1 ≤ 32 by decide) rfl)
  by_cases hsoft : ∃ tag args, c = .partReset tag args
  · obtain ⟨tag, args, rfl⟩ := hsoft
    rw [next_of_done ht]
    exact arbiter_collectionLaws (.of_reset rfl rfl rfl (show 2 ≤ 32 by decide) rfl)
  obtain ⟨u, hu, k⟩ := exec_kept c s hl (fun lv e => hpow ⟨lv, e⟩) (fun t a e => hsoft ⟨t, a, e⟩)
  rw [next_of_done (hu.symm.trans ht)]
  exact arbiter_collectionLaws (k.collectionLaws h)

/-- The laws speak of three components alone. -/
theorem CollectionLaws.same {s u : State} (h : CollectionLaws s) (ht : u.trunk = s.trunk) (hm : u.map = s.map)
    (hp : u.plan = s.plan) : CollectionLaws u := by
  obtain ⟨⟨q1, q2, q3, q4⟩, ⟨m1, m2⟩, ⟨p1, p2⟩⟩ := h
  rw [← ht] at q1 q2 q3 q4 p2
  rw [← hm] at m1 m2
  rw [← hp] at p1 p2
  exact ⟨⟨q1, q2, q3, q4⟩, ⟨m1, m2⟩, ⟨p1, p2⟩⟩

theorem takeUp_collectionLaws (r : Request) {s : State} (h : CollectionLaws s) : CollectionLaws (takeUp r s) := by
  unfold takeUp
  split
  · exact h.same rfl rfl rfl
  · exact (answer_kept _ _ _ s).collectionLaws h

theorem ownStep_collectionLaws {s t : State} (h : CollectionLaws s) (ht : ownStep s = .next t) : CollectionLaws t := by
  unfold ownStep at ht
  split at ht
  · rw [next_of_done ht]
    exact arbiter_collectionLaws (takeUp_collectionLaws _ h)
  · rw [next_of_done ht]
    exact arbiter_collectionLaws (h.same (u := tick s) rfl rfl rfl)

/-- Every step keeps the collections' laws. -/
theorem step_collectionLaws {s t : State} (hl : LinesOk s) (h : CollectionLaws s) (ht : step s = .next t) :
    CollectionLaws t := by
  rcases step_cases ht with own | ⟨c, rest, hc⟩
  · exact ownStep_collectionLaws h own
  · have lines : LinesOk (s.withPending rest) := hl
    exact exec_collectionLaws lines (h.same rfl rfl rfl) hc

/-- Settles O55: `CollectionLaws` through every command and the part's own step. -/
theorem collectionLawsAreKept : Obligations.CollectionLawsAreKept := by
  unfold Obligations.CollectionLawsAreKept
  intro s t hl hq hm hp hstep
  obtain ⟨queues, map, planner⟩ := step_collectionLaws hl ⟨hq, hm, hp⟩ hstep
  exact ⟨queues, map, planner⟩

end Sys2Proof.Machine
end

section
/-! A planning attempt in INSPECT does not reach the flaw map, so it leaves H as the recomputation raised it (R82, R89). -/

namespace Sys2Proof.Machine

@[simp] theorem raise_map (k : CondKind) (lane : Option LaneId) (d1 d2 : Nat) (s : State) :
    (raise k lane d1 d2 s).map = s.map := by
  have frame := raise_frame k lane d1 d2 s
  unfold NoticeFrame at frame
  rw [frame]
  rfl

@[simp] theorem waitForSchedule_map (s : State) : (waitForSchedule s).map = s.map := by
  unfold waitForSchedule
  split
  · rfl
  · exact raise_map _ _ _ _ s

@[simp] theorem endInWait_map (w : WaitState) (s : State) : (endInWait w s).map = s.map := by
  cases w with
  | schedule => exact waitForSchedule_map s
  | none => rfl
  | horizon => rfl
  | queue => rfl

section
variable {k : PlateKind} {o : Option Nat} {g : Grade} {c f : Nat} {late : Bool} {s t : State}

theorem placePlate_map (h : placePlate k o g c f late s = some t) : t.map = s.map := by
  unfold placePlate at h
  split at h
  · next hi =>
    cases h
    obtain ⟨rfl, -, -⟩ := insertEntry_held hi
    rfl
  · cases h
  · cases h

theorem commitPlate_map (h : commitPlate k o g c s = some t) : t.map = s.map := by
  unfold commitPlate at h
  dsimp only at h
  split at h
  · obtain ⟨u, hu, rfl⟩ := Option.map_eq_some_iff.1 h
    exact (raise_map _ _ _ _ u).trans (placePlate_map hu)
  · exact placePlate_map h

end

@[simp] theorem planLoop_map (n : Nat) (s : State) : (planLoop n s).map = s.map := by
  induction n generalizing s with
  | zero => rfl
  | succ n ih =>
    unfold planLoop
    split
    · exact endInWait_map _ s
    · rfl
    · split
      · exact waitForSchedule_map s
      · next s1 hc =>
        have placed := commitPlate_map hc
        split
        · exact placed
        · exact (ih s1).trans placed

@[simp] theorem takeGradeSwitch_map (s : State) : (takeGradeSwitch s).map = s.map := by
  unfold takeGradeSwitch switchGrade
  split
  · rfl
  · split
    · rfl
    · split <;> rfl

/-- A planning attempt in INSPECT ends no stop, which alone empties the map (R73). -/
theorem planningAttempt_map {s : State} (h : s.trunk.run = .inspect) : (planningAttempt s).map = s.map := by
  have switched : (takeGradeSwitch s).trunk.run = .inspect := (takeGradeSwitch_quiet s).inspect h
  unfold planningAttempt
  rw [h, if_neg (by decide)]
  dsimp only
  split
  · rw [checkStopEnd_inspect switched, takeGradeSwitch_map]
  · rw [checkStopEnd_inspect ((planLoop_quiet _ _).inspect switched), planLoop_map, takeGradeSwitch_map]

end Sys2Proof.Machine
end

section
/-! The lane horizons, the lowest of them, and a recomputation of H (R81, R82). -/

namespace Sys2Proof.Machine

/-! ### The least of some numbers -/

/-- One step of the model's search for the least of some numbers. -/
def leastStep (m : Option Nat) (h : Nat) : Option Nat :=
  some (match m with
    | some v => min v h
    | none => h)

theorem foldl_leastStep_some (hs : List Nat) (v : Nat) : hs.foldl leastStep (some v) = some (hs.foldl min v) := by
  induction hs generalizing v with
  | nil => rfl
  | cons h hs ih => exact ih (min v h)

theorem foldl_leastStep (hs : List Nat) : hs.foldl leastStep none = hs.min? := by
  cases hs with
  | nil => rfl
  | cons h hs => exact foldl_leastStep_some hs h

/-! ### The OPEN blobs of a lane -/

/-- The lead of an OPEN slot. -/
def Slot.lead? : Slot → Option Nat
  | .blob b => some b.lead
  | .free => none
  | .continuation _ => none

/-- Some OPEN blob of the lane has this lead. -/
def State.OpenLead (s : State) (i : LaneId) (v : Nat) : Prop :=
  ∃ b, Slot.blob b ∈ (s.lane i).tracker.slots ∧ b.lead = v

theorem Slot.lead?_eq_some_iff {x : Slot} {v : Nat} : x.lead? = some v ↔ ∃ b, x = .blob b ∧ b.lead = v := by
  cases x with
  | blob b => simp [Slot.lead?]
  | free => simp [Slot.lead?]
  | continuation c => simp [Slot.lead?]

theorem mem_leads_iff (s : State) (i : LaneId) (v : Nat) :
    v ∈ (s.lane i).tracker.slots.filterMap Slot.lead? ↔ s.OpenLead i v := by
  unfold State.OpenLead
  simp only [List.mem_filterMap, Slot.lead?_eq_some_iff]
  constructor
  · rintro ⟨x, hx, b, rfl, hb⟩
    exact ⟨b, hx, hb⟩
  · rintro ⟨b, hx, hb⟩
    exact ⟨_, hx, b, rfl, hb⟩

/-- The model's search over the slots is the least of their leads. -/
theorem lowestLead_eq (t : Tracker) : lowestLead t = (t.slots.filterMap Slot.lead?).min? := by
  rw [← foldl_leastStep, List.foldl_filterMap]
  unfold lowestLead
  congr 1
  funext m x
  cases x <;> rfl

theorem lowestLead_eq_some_iff (s : State) (i : LaneId) (v : Nat) :
    lowestLead (s.lane i).tracker = some v ↔ s.OpenLead i v ∧ ∀ w, s.OpenLead i w → v ≤ w := by
  simp only [lowestLead_eq, List.min?_eq_some_iff, mem_leads_iff]

theorem lowestLead_eq_none_iff (s : State) (i : LaneId) :
    lowestLead (s.lane i).tracker = none ↔ ∀ w, ¬s.OpenLead i w := by
  simp only [lowestLead_eq, List.min?_eq_none_iff, List.eq_nil_iff_forall_not_mem, mem_leads_iff]

/-! ### The lane horizon (R81) -/

/-- The lane horizon by R81's table. -/
def State.TableHorizonIs (s : State) (i : LaneId) (v : Nat) : Prop :=
  ((s.rx i).state = .running ∧ s.OpenLead i v ∧ ∀ w, s.OpenLead i w → v ≤ w) ∨
    ((s.rx i).state = .running ∧ (∀ w, ¬s.OpenLead i w) ∧ v = lastGlass i s) ∨
    ((s.rx i).state = .waiting ∧ v = lastGlass i s)

/-- A lane horizon, held back by the line in handling. -/
def Receiver.heldBack (x : Receiver) (h : Nat) : Nat :=
  match x.inHand with
  | some p => min h p
  | none => h

/-- The lane horizon. -/
def State.LaneHorizonIs (s : State) (i : LaneId) (v : Nat) : Prop := ∃ w, s.TableHorizonIs i w ∧ v = (s.rx i).heldBack w

theorem tableHorizon_running {s : State} {i : LaneId} (h : (s.rx i).state = .running) :
    tableHorizon s i = some ((lowestLead (s.lane i).tracker).getD (lastGlass i s)) := by
  unfold State.rx at h
  unfold tableHorizon
  dsimp only
  rw [h]
  rfl

theorem tableHorizon_waiting {s : State} {i : LaneId} (h : (s.rx i).state = .waiting) :
    tableHorizon s i = some (lastGlass i s) := by
  unfold State.rx at h
  unfold tableHorizon
  dsimp only
  rw [h]
  rfl

theorem tableHorizon_eq_some_iff (s : State) (i : LaneId) (v : Nat) :
    tableHorizon s i = some v ↔ s.TableHorizonIs i v := by
  unfold State.TableHorizonIs
  by_cases run : (s.rx i).state = .running
  · rw [tableHorizon_running run, ← lowestLead_eq_some_iff, ← lowestLead_eq_none_iff]
    cases lowestLead (s.lane i).tracker <;> simp [run, eq_comm]
  by_cases wait : (s.rx i).state = .waiting
  · simp [tableHorizon_waiting wait, wait, eq_comm]
  · have notConsidered : (tableHorizon s i).isSome ≠ true := fun h =>
      ((tableHorizon_isSome s i).1 h).elim run wait
    simp_all

theorem laneHorizon_eq (s : State) (i : LaneId) : laneHorizon s i = (tableHorizon s i).map (s.rx i).heldBack := rfl

theorem laneHorizon_eq_some_iff (s : State) (i : LaneId) (v : Nat) :
    laneHorizon s i = some v ↔ s.LaneHorizonIs i v := by
  unfold State.LaneHorizonIs
  rw [laneHorizon_eq, Option.map_eq_some_iff]
  simp only [tableHorizon_eq_some_iff, eq_comm (a := v)]

/-! ### The lowest lane horizon, and the recomputation (R82) -/

/-- `m` is what H is compared with: the lowest lane horizon, or P where no lane is considered. -/
def State.LowestHorizonIs (s : State) (m : Nat) : Prop :=
  ((∃ i, s.LaneHorizonIs i m) ∧ ∀ i v, s.LaneHorizonIs i v → m ≤ v) ∨
    ((∀ i, ¬((s.rx i).state = .running ∨ (s.rx i).state = .waiting)) ∧ m = s.pos.p)

theorem lowestHorizon_eq (s : State) : lowestHorizon s = (laneIds.filterMap (laneHorizon s)).min? :=
  foldl_leastStep _

theorem lowestHorizon_eq_some_iff (s : State) (m : Nat) : lowestHorizon s = some m ↔
    (∃ i, s.LaneHorizonIs i m) ∧ ∀ i v, s.LaneHorizonIs i v → m ≤ v := by
  have every : ∀ i : LaneId, i ∈ laneIds := by decide
  simp only [lowestHorizon_eq, List.min?_eq_some_iff, List.mem_filterMap, laneHorizon_eq_some_iff, every, true_and]
  exact and_congr_right fun _ => ⟨fun h i v hv => h v ⟨i, hv⟩, fun h v ⟨i, hv⟩ => h i v hv⟩

theorem lowestHorizon_eq_none_iff (s : State) : lowestHorizon s = none ↔
    ∀ i, ¬((s.rx i).state = .running ∨ (s.rx i).state = .waiting) := by
  rw [← not_exists, ← anyConsidered_iff, anyConsidered, Bool.not_eq_true, Option.isSome_eq_false_iff,
    Option.isNone_iff_eq_none]

theorem lowestHorizonIs_iff (s : State) (m : Nat) :
    s.LowestHorizonIs m ↔ (lowestHorizon s).getD s.pos.p = m := by
  unfold State.LowestHorizonIs
  rw [← lowestHorizon_eq_some_iff, ← lowestHorizon_eq_none_iff]
  cases lowestHorizon s <;> simp [eq_comm]

theorem recomputeH_inspect {s : State} (run : s.trunk.run = .inspect) : recomputeH s =
    if s.map.h < (lowestHorizon s).getD s.pos.p then
      planningAttempt (s.withMap { s.map with h := max s.map.h (heldSum ((lowestHorizon s).getD s.pos.p)) })
    else s :=
  if_pos (beq_iff_eq.2 run)

/-- A recomputation in INSPECT, by what H is compared with. -/
theorem recomputeH_spec {s : State} {m : Nat} (run : s.trunk.run = .inspect) (hm : s.LowestHorizonIs m) :
    (m ≤ s.map.h → recomputeH s = s) ∧
    (s.map.h < m → m < 2 ^ 48 →
      recomputeH s = planningAttempt (s.withMap { s.map with h := m }) ∧ (recomputeH s).map.h = m) := by
  have eqn := recomputeH_inspect run
  rw [(lowestHorizonIs_iff s m).1 hm] at eqn
  refine ⟨fun h => eqn.trans (if_neg (Nat.not_lt.2 h)), fun h fits => ?_⟩
  rw [if_pos h, heldSum_of_lt fits, max_eq_right h.le] at eqn
  have raised : (s.withMap { s.map with h := m }).trunk.run = .inspect := run
  exact ⟨eqn, by rw [eqn, planningAttempt_map raised, State.withMap_map]⟩

/-- Settles O28: the relation of the statement determines the value that H is compared with. -/
theorem horizonIsRecomputed : Obligations.HorizonIsRecomputed := by
  unfold Obligations.HorizonIsRecomputed
  intro s considered open_ glass table horizon lowest
  exact ⟨recomputeH_outside, ⟨_, (lowestHorizonIs_iff s _).2 rfl⟩, fun _ run hm => recomputeH_spec run hm⟩

end Sys2Proof.Machine
end

section
/-! What the map hands of a range, the evaluation of an empty range, one flaw in the tally, and the zone of a cross
position (R78, R80, R121, R122). -/

namespace Sys2Proof

theorem PerLane.mem_toList_iff {α : Type} (x : PerLane α) (v : α) : v ∈ x.toList ↔ ∃ i, x.get i = v := by
  constructor
  · intro h
    simp only [PerLane.toList, List.mem_cons, List.not_mem_nil, or_false] at h
    rcases h with rfl | rfl | rfl | rfl
    · exact ⟨0, rfl⟩
    · exact ⟨1, rfl⟩
    · exact ⟨2, rfl⟩
    · exact ⟨3, rfl⟩
  · rintro ⟨i, rfl⟩
    fin_cases i <;> simp [PerLane.toList, PerLane.get]

end Sys2Proof

namespace Sys2Proof.Machine

/-! ### What overlaps a range (R80) -/

/-- The record is a FLAW record that overlaps the range. -/
def MapRecord.flawOverlaps (a z : Nat) : MapRecord → Bool
  | .flaw r => decide (r.lead < z ∧ a ≤ r.trail)
  | .gap _ _ _ => false

/-- The FLAW record handed for a record of the map. -/
def MapRecord.flawIn (a z : Nat) : MapRecord → Option FlawRecord
  | .flaw r => if r.overlaps a z then some r else none
  | .gap _ _ _ => none

theorem flawsOver_eq (a z : Nat) (s : State) : flawsOver a z s = s.map.records.filterMap (MapRecord.flawIn a z) :=
  congrArg (List.filterMap · s.map.records) (funext fun y => by cases y <;> rfl)

theorem MapRecord.map_flawIn (a z : Nat) (y : MapRecord) :
    (y.flawIn a z).map MapRecord.flaw = Option.guard (MapRecord.flawOverlaps a z) y := by
  cases y with
  | flaw r => by_cases h : r.lead < z ∧ a ≤ r.trail <;>
      simp [MapRecord.flawIn, FlawRecord.overlaps, MapRecord.flawOverlaps, Option.guard, h]
  | gap i b e => rfl

/-- The FLAW records handed are those of the map that overlap, in its order. -/
theorem flawsOver_map_flaw (a z : Nat) (s : State) :
    (flawsOver a z s).map MapRecord.flaw = s.map.records.filter (MapRecord.flawOverlaps a z) := by
  rw [flawsOver_eq, List.map_filterMap, ← List.filterMap_eq_filter]
  exact congrArg (List.filterMap · s.map.records) (funext (MapRecord.map_flawIn a z))

theorem MapRecord.gapOverlaps_iff (a z : Nat) (y : MapRecord) : y.gapOverlaps a z = true ↔
    ∃ i b e, y = .gap i b e ∧ b < z ∧ (e = none ∨ ∃ stop, e = some stop ∧ a < stop) := by
  cases y with
  | flaw r => simp [MapRecord.gapOverlaps]
  | gap i b e => cases e <;> simp [MapRecord.gapOverlaps]

theorem gapOver_iff (a z : Nat) (s : State) : gapOver a z s = true ↔
    ∃ i b e, MapRecord.gap i b e ∈ s.map.records ∧ b < z ∧ (e = none ∨ ∃ stop, e = some stop ∧ a < stop) := by
  unfold gapOver
  simp only [List.any_eq_true, MapRecord.gapOverlaps_iff]
  constructor
  · rintro ⟨_, mem, i, b, e, rfl, h⟩
    exact ⟨i, b, e, mem, h⟩
  · rintro ⟨i, b, e, mem, h⟩
    exact ⟨_, mem, i, b, e, rfl, h⟩

theorem OverflowMark.noOpenLanes_eq_false_iff (m : OverflowMark) :
    m.noOpenLanes = false ↔ ∃ i, m.openLanes.get i = true := by
  unfold OverflowMark.noOpenLanes
  rw [List.all_eq_false, ← PerLane.mem_toList_iff]
  simp

theorem markOver_iff (a z : Nat) (s : State) : markOver a z s = true ↔
    ∃ m, s.map.mark = some m ∧ m.lo < z ∧ ((∃ i, m.openLanes.get i = true) ∨ a ≤ m.hi) := by
  unfold markOver
  cases s.map.mark with
  | none => simp
  | some m => simp [← OverflowMark.noOpenLanes_eq_false_iff]

/-! ### Evaluations (R122) -/

theorem evaluate_of_lt {t : GradeTables} {a z : Nat} {s : State} (h : a < z) :
    evaluate t a z s = evaluation t s.setup.netLo (flawsOver a z s) (gapOver a z s) (markOver a z s) :=
  if_neg (Nat.not_le.2 h)

/-- The evaluation of no flaws, covered: its grade is the running grade of the empty tally. -/
theorem evaluation_nil (t : GradeTables) (netLo : Nat) :
    evaluation t netLo [] false false = ⟨Tally.zero, 0, false, false, false, .a⟩ := by
  have running := runningGrade_zero t
  unfold runningGrade at running
  unfold evaluation
  cases fatal : Tally.zero.fatal t with
  | true =>
    rw [fatal] at running
    cases running
  | false =>
    rw [fatal] at running
    simp only [tallyOf, List.foldl_nil, fatal, Bool.or_self, List.length_nil, Bool.false_eq_true, if_false] at running ⊢
    rw [running]

theorem evaluate_empty {t : GradeTables} {a z : Nat} {s : State} (h : z ≤ a) :
    evaluate t a z s = ⟨Tally.zero, 0, false, false, false, .a⟩ :=
  (if_pos h).trans (evaluation_nil t s.setup.netLo)

/-! ### The tally and the zones (R121, R122) -/

/-- A flaw counts in the cell of its class and zone alone. -/
theorem tallyFlaw_cell (t : GradeTables) (netLo : Nat) {tally : List Nat} {f : FlawRecord} {k zone : Nat}
    (hl : tally.length = 64) (hf : f.cls < 16) (hz : zone < 4) :
    (tallyFlaw t netLo tally f).getD (k * 4 + zone) 0 =
      if k = f.cls ∧ zone = gradeZone t (f.centre - netLo) then min 255 (tally.getD (k * 4 + zone) 0 + 1)
      else tally.getD (k * 4 + zone) 0 := by
  have four := gradeZone_lt t (f.centre - netLo)
  unfold tallyFlaw addAt satAdd
  by_cases own : k = f.cls ∧ zone = gradeZone t (f.centre - netLo)
  · obtain ⟨rfl, rfl⟩ := own
    rw [if_pos ⟨rfl, rfl⟩, List.getD_eq_getElem?_getD, List.getElem?_set_self (by omega), Option.getD_some]
  · have other : f.cls * 4 + gradeZone t (f.centre - netLo) ≠ k * 4 + zone := by omega
    rw [if_neg own, List.getD_eq_getElem?_getD, List.getElem?_set_ne other, ← List.getD_eq_getElem?_getD]

/-- The cross position is in the ranged zone. -/
def Zone.Within (x : Zone) (r : Nat) : Prop := x.lo ≤ r ∧ r < x.hi

theorem Zone.holds_iff (x : Zone) (r : Nat) : x.holds r = true ↔ x.Within r := by
  simp [Zone.holds, Zone.Within]

theorem gradeZone_eq (t : GradeTables) (r : Nat) : gradeZone t r =
    if (t.zones.getD 0 default).holds r then 0
    else if (t.zones.getD 1 default).holds r then 1
    else if (t.zones.getD 2 default).holds r then 2
    else 3 := rfl

theorem gradeZone_first {t : GradeTables} {r k : Nat} (h3 : k < 3) (hk : (t.zones.getD k default).Within r)
    (earlier : ∀ j, j < k → ¬(t.zones.getD j default).Within r) : gradeZone t r = k := by
  simp only [← Zone.holds_iff] at hk earlier
  rw [gradeZone_eq]
  match k with
  | 0 => rw [if_pos hk]
  | 1 => rw [if_neg (earlier 0 (by omega)), if_pos hk]
  | 2 => rw [if_neg (earlier 0 (by omega)), if_neg (earlier 1 (by omega)), if_pos hk]

theorem gradeZone_unranged {t : GradeTables} {r : Nat} (h : ∀ k, k < 3 → ¬(t.zones.getD k default).Within r) :
    gradeZone t r = 3 := by
  simp only [← Zone.holds_iff] at h
  rw [gradeZone_eq, if_neg (h 0 (by omega)), if_neg (h 1 (by omega)), if_neg (h 2 (by omega))]

/-- Settles O38: what overlaps a range, its evaluation, one flaw in the tally, and the zones. -/
theorem rangesAndZones : Obligations.RangesAndZones := by
  unfold Obligations.RangesAndZones
  refine ⟨fun a z t s => ?_, fun t netLo tally f k zone hl hf _ hz => tallyFlaw_cell t netLo hl hf hz, fun t r => ?_⟩
  · exact ⟨flawsOver_map_flaw a z s, gapOver_iff a z s, markOver_iff a z s, evaluate_of_lt, evaluate_empty⟩
  · exact ⟨fun k => gradeZone_first, gradeZone_unranged⟩

end Sys2Proof.Machine
end

section
/-! A record entered in the map, the last record that passes a test changed, and a FLAW record or an open gap entered or
refused (R74 to R77). -/

namespace Sys2Proof.Machine

/-! ### A record placed in order (R74) -/

/-- `u` is `s` with the record entered after every record whose lead is at or below its own and before every other. -/
def State.Placed (s : State) (g : MapRecord) (u : State) : Prop :=
  ∃ pre post, s.map.records = pre ++ post ∧ (∀ x ∈ pre, x.lead ≤ g.lead) ∧ (∀ x ∈ post, g.lead < x.lead) ∧
    u = s.withMap { s.map with records := pre ++ g :: post }

theorem placed_placeRecord {s : State} (ok : MapOk s) (g : MapRecord) :
    s.Placed g (s.withRecords (placeRecord g s.map.records)) := by
  obtain ⟨pre, post, hrs, hpre, hpost, hplace⟩ := placeRecord_split (r := g) ok.sorted
  refine ⟨pre, post, hrs, hpre, hpost, ?_⟩
  rw [hplace]
  rfl

/-! ### The last record that passes a test (R32) -/

theorem changeLast_go_split {test : MapRecord → Bool} (f : MapRecord → MapRecord) {rs : List MapRecord}
    (h : ∃ y ∈ rs, test y = true) : ∃ pre y post, rs = pre ++ y :: post ∧ test y = true ∧
      (∀ x ∈ pre, test x = false) ∧ changeLast.go test f rs = pre ++ f y :: post := by
  induction rs with
  | nil => obtain ⟨y, mem, -⟩ := h; cases mem
  | cons x xs ih =>
    unfold changeLast.go
    cases hx : test x with
    | true => exact ⟨[], x, xs, rfl, hx, by simp, rfl⟩
    | false =>
      have later : ∃ y ∈ xs, test y = true := by
        obtain ⟨y, mem, hy⟩ := h
        rcases List.mem_cons.1 mem with rfl | mem
        · rw [hx] at hy; cases hy
        · exact ⟨y, mem, hy⟩
      obtain ⟨pre, y, post, hxs, hy, hpre, hgo⟩ := ih later
      refine ⟨x :: pre, y, post, by rw [hxs]; rfl, hy, List.forall_mem_cons.2 ⟨hx, hpre⟩, ?_⟩
      rw [hgo]
      rfl

theorem changeLast_split {test : MapRecord → Bool} (f : MapRecord → MapRecord) {rs : List MapRecord}
    (h : ∃ y ∈ rs, test y = true) : ∃ pre y post, rs = pre ++ y :: post ∧ test y = true ∧
      (∀ x ∈ post, test x = false) ∧ changeLast test f rs = pre ++ f y :: post := by
  have reversed : ∃ y ∈ rs.reverse, test y = true := by simpa using h
  obtain ⟨pre, y, post, hrs, hy, hpre, hgo⟩ := changeLast_go_split f reversed
  refine ⟨post.reverse, y, pre.reverse, ?_, hy, fun x hx => hpre x (List.mem_reverse.1 hx), ?_⟩
  · rw [List.reverse_eq_iff.1 hrs]
    simp
  · unfold changeLast
    rw [hgo]
    simp

/-! ### FLAW records (R75, R77) -/

theorem enterFlaw_floored {r : FlawRecord} {s : State} (h : r.trail < planFloor s) :
    enterFlaw r s = s.count fun x => { x with beforePlan := bump32 x.beforePlan } := if_pos h

theorem enterFlaw_full {r : FlawRecord} {s : State} (h : planFloor s ≤ r.trail) (full : s.map.records.length = 2048)
    (room : hasRoom s) : Raised .flawMapFull (some r.lane) (r.lead % 2 ^ 32) r.id
      (s.withMark (some (mergeExtent r.lead r.trail s.map.mark))) (enterFlaw r s) := by
  have refused : enterFlaw r s = refuseFlaw r s := (if_neg (Nat.not_lt.2 h)).trans (if_pos full.ge)
  rw [refused]
  exact raise_room (s := s.withMark _) _ _ _ _ room

theorem enterFlaw_placed {r : FlawRecord} {s : State} (ok : MapOk s) (h : planFloor s ≤ r.trail)
    (room : s.map.records.length < 2048) : s.Placed (.flaw r) (enterFlaw r s) := by
  have entered : enterFlaw r s = s.withRecords (placeRecord (.flaw r) s.map.records) :=
    (if_neg (Nat.not_lt.2 h)).trans (if_neg (Nat.not_le.2 room))
  rw [entered]
  exact placed_placeRecord ok _

/-! ### Open gaps (R76, R77) -/

theorem openGap_eq (i : LaneId) (a : Nat) (s : State) :
    openGap i a s = (enterOpenGap i a s).withRx i { s.rx i with openGap := some a } := by
  unfold openGap
  rw [modRx_eq_withRx, rx_of_lanes (enterOpenGap_lanes i a s)]

theorem openGap_placed {i : LaneId} {a : Nat} {s : State} (ok : MapOk s) (room : s.map.records.length < 2048) :
    ∃ u, s.Placed (.gap i a none) u ∧ openGap i a s = u.withRx i { s.rx i with openGap := some a } := by
  have entered : enterOpenGap i a s = s.withRecords (placeRecord (.gap i a none) s.map.records) := if_pos room
  exact ⟨_, placed_placeRecord ok _, entered ▸ openGap_eq i a s⟩

theorem openGap_refused {i : LaneId} {a : Nat} {s : State} (full : s.map.records.length = 2048) (room : hasRoom s) :
    ∃ u, Raised .flawMapFull (some i) (a % 2 ^ 32) (2 ^ 32 - 1) (s.withMark (some (mergeOpen i a s.map.mark))) u ∧
      openGap i a s = u.withRx i { s.rx i with openGap := some a } := by
  have refused : enterOpenGap i a s = refuseOpenGap i a s := if_neg full.not_lt
  refine ⟨refuseOpenGap i a s, raise_room (s := s.withMark _) _ _ _ _ room, ?_⟩
  rw [← refused]
  exact openGap_eq i a s

end Sys2Proof.Machine
end

section
/-! The close of a lane's open gap, and a closed gap handed to the map (R32, R76, R77). -/

namespace Sys2Proof.Machine

/-! ### The close of an open gap -/

/-- The map after the close of the lane's gap from `a` at `z`: its record ends at `z` or is withdrawn; where the map refused
it, the lane leaves the mark. -/
def FlawMap.closed (i : LaneId) (a z : Nat) (m : FlawMap) : FlawMap :=
  if m.records.any (MapRecord.isOpenGapOf i) = true then
    { m with records :=
        if a < z then m.records.map fun y => if y.isOpenGapOf i = true then .gap i y.lead (some (heldSum z)) else y
        else m.records.filter fun y => !y.isOpenGapOf i }
  else { m with mark := m.mark.map fun x =>
    ⟨x.lo, if a < z then max x.hi (heldSum (z - 1)) else x.hi, x.openLanes.set i false⟩ }

/-- The open gap of a lane, ended. -/
theorem MapRecord.withStop_of_open {i : LaneId} {y : MapRecord} (h : y.isOpenGapOf i = true) (z : Nat) :
    y.withStop z = .gap i y.lead (some z) := by
  cases y with
  | flaw r => cases h
  | gap l b e =>
    cases e with
    | none =>
      cases beq_iff_eq.1 (h : (l == i) = true)
      rfl
    | some x => cases h

theorem closeMapGap_eq (i : LaneId) (a z : Nat) (s : State) :
    closeMapGap i a z s = s.withMap (s.map.closed i a z) := by
  unfold closeMapGap FlawMap.closed
  split
  · split
    · have ended : ∀ y : MapRecord, (if y.isOpenGapOf i then y.withStop (heldSum z) else y) =
          if y.isOpenGapOf i = true then .gap i y.lead (some (heldSum z)) else y := fun y => by
        split
        · next h => exact MapRecord.withStop_of_open h _
        · rfl
      simp only [ended]
      rfl
    · rfl
  · split
    · next h =>
      rw [h, Option.map_none, ← h]
      rfl
    · next m h =>
      rw [h]
      by_cases hz : a < z
      · simp only [if_pos hz]
        rfl
      · simp only [if_neg hz]
        rfl

theorem closeMapGap_rx (i : LaneId) (a z : Nat) (s : State) (j : LaneId) : (closeMapGap i a z s).rx j = s.rx j := by
  rw [closeMapGap_eq]
  rfl

section
variable {i : LaneId} {a z : Nat} {s : State}

theorem closeGap_none (h : (s.rx i).openGap = none) : closeGap i z s = s := by
  unfold closeGap
  rw [h]

theorem closeGap_ended (h : (s.rx i).openGap = some a) (hz : a < z) : closeGap i z s =
    ((s.withMap (s.map.closed i a z)).withRx i { s.rx i with
      openGap := none
      lastClosedGap := some (heldSum z)
      lastGapStart := if s.map.records.any (MapRecord.isOpenGapOf i) = true then some a else none }).countGap i a z := by
  unfold closeGap
  rw [h]
  dsimp only
  rw [if_pos hz, modRx_eq_withRx, closeMapGap_rx, closeMapGap_eq]

theorem closeGap_withdrawn (h : (s.rx i).openGap = some a) (hz : z ≤ a) : closeGap i z s =
    (s.withMap (s.map.closed i a z)).withRx i { s.rx i with openGap := none } := by
  unfold closeGap
  rw [h]
  dsimp only
  rw [if_neg (Nat.not_lt.2 hz), modRx_eq_withRx, closeMapGap_rx, closeMapGap_eq]

end

/-! ### Closed gaps -/

/-- A closed gap from `a` extends the lane's record from `b`: the last closed gap ended at `a`, and the record that the map
took for it still does. -/
def State.Extends (s : State) (i : LaneId) (a b : Nat) : Prop :=
  (s.rx i).lastClosedGap = some a ∧ (s.rx i).lastGapStart = some b ∧ MapRecord.gap i b (some a) ∈ s.map.records

theorem MapRecord.isClosedGap_iff {i : LaneId} {b e : Nat} {y : MapRecord} :
    y.isClosedGap i b e = true ↔ y = .gap i b (some e) := by
  cases y with
  | flaw r => simp [MapRecord.isClosedGap]
  | gap l c x => cases x <;> simp [MapRecord.isClosedGap, and_assoc]

theorem extendable_eq_some_iff (i : LaneId) (a b : Nat) (s : State) :
    extendable i a s = some b ↔ s.Extends i a b := by
  unfold extendable State.Extends
  split <;> simp_all [Option.filter_eq_some_iff, MapRecord.isClosedGap_iff]

theorem extendable_eq_none {i : LaneId} {a : Nat} {s : State} (h : ∀ b, ¬s.Extends i a b) : extendable i a s = none :=
  Option.eq_none_iff_forall_ne_some.2 fun b hb => h b ((extendable_eq_some_iff i a b s).1 hb)

@[simp] theorem enterClosedGap_lanes (i : LaneId) (a z : Nat) (s : State) : (enterClosedGap i a z s).1.lanes = s.lanes := by
  unfold enterClosedGap
  split
  · rfl
  · split
    · rfl
    · split
      · rfl
      · exact raise_lanes _ _ _ _ _

section
variable {i : LaneId} {a b z : Nat} {s : State}

theorem enterClosedGap_floored (h : z ≤ planFloor s) : enterClosedGap i a z s = (s, none) := if_pos h

theorem enterClosedGap_extended (h : planFloor s < z) (ext : s.Extends i a b) :
    ∃ pre post, s.map.records = pre ++ .gap i b (some a) :: post ∧ MapRecord.gap i b (some a) ∉ post ∧
      enterClosedGap i a z s = (s.withRecords (pre ++ .gap i b (some (heldSum z)) :: post), some b) := by
  have found := (extendable_eq_some_iff i a b s).2 ext
  obtain ⟨-, -, held⟩ := ext
  obtain ⟨pre, y, post, hrs, hy, hpost, hlast⟩ := changeLast_split (test := MapRecord.isClosedGap i b a)
    (MapRecord.withStop (heldSum z)) ⟨_, held, MapRecord.isClosedGap_iff.2 rfl⟩
  obtain rfl := MapRecord.isClosedGap_iff.1 hy
  refine ⟨pre, post, hrs, fun mem => ?_, ?_⟩
  · have := hpost _ mem
    rw [hy] at this
    cases this
  · unfold enterClosedGap
    rw [if_neg (Nat.not_le.2 h), found]
    dsimp only
    rw [hlast]
    rfl

theorem enterClosedGap_placed (h : planFloor s < z) (ext : ∀ b, ¬s.Extends i a b) (room : s.map.records.length < 2048) :
    enterClosedGap i a z s = (s.withRecords (placeRecord (.gap i a (some (heldSum z))) s.map.records), some a) := by
  unfold enterClosedGap
  rw [if_neg (Nat.not_le.2 h), extendable_eq_none ext]
  exact if_pos room

theorem enterClosedGap_refused (h : planFloor s < z) (ext : ∀ b, ¬s.Extends i a b) (full : s.map.records.length = 2048) :
    enterClosedGap i a z s = (refuseClosedGap i a z s, none) := by
  unfold enterClosedGap
  rw [if_neg (Nat.not_le.2 h), extendable_eq_none ext]
  exact if_neg full.not_lt

/-- The lane's receiver after a closed gap: the last closed gap, and the start of its record. -/
def Receiver.afterClosed (z : Nat) (start : Option Nat) (x : Receiver) : Receiver :=
  { x with lastClosedGap := some (heldSum z), lastGapStart := start }

theorem closedGap_empty (h : z ≤ a) : closedGap i a z s = s := if_neg (Nat.not_lt.2 h)

/-- A closed gap, by what the map answers. -/
theorem closedGap_eq {u : State} {start : Option Nat} (h : a < z) (he : enterClosedGap i a z s = (u, start)) :
    closedGap i a z s = (u.withRx i ((s.rx i).afterClosed z start)).countGap i a z := by
  have hrx : u.rx i = s.rx i := rx_of_lanes (by rw [← enterClosedGap_lanes i a z s, he]) i
  unfold closedGap
  rw [if_pos h, he]
  dsimp only
  rw [modRx_eq_withRx, hrx]
  rfl

end

/-! ### The parts of the statement -/

/-- A FLAW record handed to the map in order: before the plan, refused, or entered. -/
theorem enterFlaw_cases (r : FlawRecord) {s : State} (ok : MapOk s) :
    (r.trail < planFloor s → enterFlaw r s = s.count fun x => { x with beforePlan := bump32 x.beforePlan }) ∧
    (planFloor s ≤ r.trail → s.map.records.length = 2048 → hasRoom s →
      Raised .flawMapFull (some r.lane) (r.lead % 2 ^ 32) r.id
        (s.withMark (some (mergeExtent r.lead r.trail s.map.mark))) (enterFlaw r s)) ∧
    (planFloor s ≤ r.trail → s.map.records.length < 2048 → s.Placed (.flaw r) (enterFlaw r s)) :=
  ⟨enterFlaw_floored, enterFlaw_full, enterFlaw_placed ok⟩

/-- A closed gap with glass handed to the map in order: floored, extended, entered, or refused. -/
theorem closedGap_cases (i : LaneId) (a z : Nat) {s : State} (ok : MapOk s) :
    let ended : Option Nat → State → State := fun start u =>
      (u.withRx i ((s.rx i).afterClosed z start)).countGap i a z
    (a < z → z ≤ planFloor s → closedGap i a z s = ended none s) ∧
    (∀ b, a < z → planFloor s < z → s.Extends i a b → ∃ pre post, s.map.records = pre ++ .gap i b (some a) :: post ∧
      MapRecord.gap i b (some a) ∉ post ∧
      closedGap i a z s = ended (some b) (s.withRecords (pre ++ .gap i b (some (heldSum z)) :: post))) ∧
    (a < z → planFloor s < z → (∀ b, ¬s.Extends i a b) → s.map.records.length < 2048 →
      ∃ u, s.Placed (.gap i a (some (heldSum z))) u ∧ closedGap i a z s = ended (some a) u) ∧
    (a < z → planFloor s < z → (∀ b, ¬s.Extends i a b) → s.map.records.length = 2048 → hasRoom s →
      ∃ u, Raised .flawMapFull (some i) (a % 2 ^ 32) (z % 2 ^ 32)
          (s.withMark (some (mergeExtent a (heldSum (z - 1)) s.map.mark))) u ∧
        closedGap i a z s = ended none u) := by
  intro ended
  refine ⟨fun h hf => closedGap_eq h (enterClosedGap_floored hf), fun b h hf ext => ?_, fun h hf ext room => ?_,
    fun h hf ext full room => ?_⟩
  · obtain ⟨pre, post, hrs, hpost, he⟩ := enterClosedGap_extended hf ext
    exact ⟨pre, post, hrs, hpost, closedGap_eq h he⟩
  · exact ⟨_, placed_placeRecord ok _, closedGap_eq h (enterClosedGap_placed hf ext room)⟩
  · exact ⟨_, raise_room (s := s.withMark _) _ _ _ _ room, closedGap_eq h (enterClosedGap_refused hf ext full)⟩

/-- Settles O27: a FLAW record, an open gap, its close, and a closed gap, each by what the map answers. -/
theorem flawEntry : Obligations.FlawEntry := by
  unfold Obligations.FlawEntry
  refine ⟨fun r s ok => ?_, fun i a z s ok => ?_⟩
  · exact enterFlaw_cases r ok
  · exact ⟨openGap_placed ok, openGap_refused, closeGap_none, closeGap_ended, closeGap_withdrawn, closedGap_empty,
      closedGap_cases i a z ok⟩

end Sys2Proof.Machine
end

section
/-! The candidate of an attempt (R91 to R93): accepted, or culled just past its culprit. -/

namespace Sys2Proof.Machine

theorem worseThan_iff (g : Grade) (m : MinGrade) : g.worseThan m = true ↔ m.code < g.rank := decide_eq_true_iff

theorem accepts_iff (g : Grade) (m : MinGrade) : accepts g m = true ↔ g = .uninspected ∨ g.rank ≤ m.code := by
  unfold accepts
  rw [Bool.or_eq_true, beq_iff_eq, Bool.not_eq_true', Bool.eq_false_iff, ne_eq, worseThan_iff, Nat.not_lt]

/-- An evaluation that is not UNINSPECTED has the running grade of its flaws: FATAL comes before coverage, the limits come
after it (R93, R123). -/
theorem evaluation_grade {t : GradeTables} {netLo : Nat} {fs : List FlawRecord} {gap mark : Bool}
    (covered : (evaluation t netLo fs gap mark).grade ≠ .uninspected) :
    (evaluation t netLo fs gap mark).grade = runningGrade t (tallyOf t netLo fs) := by
  unfold evaluation runningGrade at *
  dsimp only at *
  split
  · rfl
  · next clean =>
    rw [if_neg clean] at covered
    split
    · next uncovered => exact absurd (if_pos uncovered) covered
    · rfl

theorem evaluateCandidate_accepted {s : State} {e : Evaluation}
    (he : evaluate s.store.grade.activeTables s.plan.cLast (s.plan.cLast + (currentSpec s).length) s = e)
    (good : accepts e.grade (currentSpec s).minGrade = true) :
    evaluateCandidate s = .commit .order (some s.plan.cursor) e.grade (s.plan.cLast + (currentSpec s).length) := by
  subst he
  exact if_pos good

theorem evaluateCandidate_culled {s : State} {e : Evaluation} {f : FlawRecord}
    (he : evaluate s.store.grade.activeTables s.plan.cLast (s.plan.cLast + (currentSpec s).length) s = e)
    (bad : ¬accepts e.grade (currentSpec s).minGrade = true)
    (hf : culprit s.store.grade.activeTables s.setup.netLo (currentSpec s).minGrade Tally.zero
      (flawsOver s.plan.cLast (s.plan.cLast + (currentSpec s).length) s) = some f) :
    evaluateCandidate s = .commit .avoid none e.grade (max (f.trail + 1 + s.store.grade.activeTables.avoidMargin)
      (s.plan.cLast + s.store.grade.activeTables.minPiece)) := by
  subst he
  unfold evaluateCandidate
  dsimp only
  rw [if_neg bad, hf]

/-- Settles O29: a candidate that is not accepted has the running grade of its flaws, which starts at A. -/
theorem candidateIsAcceptedOrCulled : Obligations.CandidateIsAcceptedOrCulled := by
  unfold Obligations.CandidateIsAcceptedOrCulled
  intro s t spec stop e flaws tooBad accepted
  have accepted_iff : accepts e.grade spec.minGrade = true ↔ accepted := accepts_iff _ _
  refine ⟨fun h => evaluateCandidate_accepted rfl (accepted_iff.2 h), fun h glass => ?_⟩
  obtain ⟨covered, worse⟩ := not_or.1 h
  have he : e = evaluation t s.setup.netLo flaws _ _ := evaluate_of_lt glass
  have running : e.grade = runningGrade t (tallyOf t s.setup.netLo flaws) := by
    rw [he] at covered ⊢
    exact evaluation_grade covered
  have starts_good : (runningGrade t Tally.zero).worseThan spec.minGrade = false := by
    rw [runningGrade_zero]
    rfl
  have ends_bad : (runningGrade t (tallyOf t s.setup.netLo flaws)).worseThan spec.minGrade = true := by
    rw [← running, worseThan_iff]
    exact Nat.not_le.1 worse
  obtain ⟨pre, f, post, split, found, bad, good⟩ := culprit_spec t s.setup.netLo _ _ flaws starts_good ends_bad
  exact ⟨pre, f, post, split, (worseThan_iff _ _).1 bad,
    fun q hq => mt (worseThan_iff _ _).2 (Bool.eq_false_iff.1 (good q hq)),
    evaluateCandidate_culled rfl (mt accepted_iff.1 h) found⟩

end Sys2Proof.Machine
end

section
/-! A commit (R94 to R97): the state with the plate placed, on time or late, and the queue it keeps joined. -/

namespace Sys2Proof.Machine

/-! ### A raise leaves the planner alone -/

@[simp] theorem handUrgent_plan (r : Urgent) (s : State) : (handUrgent r s).1.plan = s.plan := by
  unfold handUrgent
  split <;> rfl

@[simp] theorem handleLine_plan (k : CondKind) (lane : Option LaneId) (d1 d2 : Nat) (e : Bool) (s : State) :
    (handleLine k lane d1 d2 e s).1.plan = s.plan := by
  unfold handleLine
  split
  · exact handUrgent_plan _ _
  · rfl

@[simp] theorem handleGantry_plan (k : CondKind) (lane : Option LaneId) (d1 d2 : Nat) (s : State) :
    (handleGantry k lane d1 d2 s).1.plan = s.plan := by
  unfold handleGantry
  split
  · exact handUrgent_plan _ _
  · exact handleLine_plan _ _ _ _ _ _

@[simp] theorem raiseOnce_plan (k : CondKind) (lane : Option LaneId) (d1 d2 : Nat) (s : State) :
    (raiseOnce k lane d1 d2 s).1.plan = s.plan := by
  unfold raiseOnce
  dsimp only
  split
  · rfl
  · exact handleGantry_plan _ _ _ _ _
  · exact handleLine_plan _ _ _ _ _ _

@[simp] theorem raise_plan (k : CondKind) (lane : Option LaneId) (d1 d2 : Nat) (s : State) :
    (raise k lane d1 d2 s).plan = s.plan := by
  unfold raise
  dsimp only
  split
  · exact (raiseOnce_plan _ _ _ _ _).trans (raiseOnce_plan _ _ _ _ _)
  · exact raiseOnce_plan _ _ _ _ _

/-! ### The plate placed -/

/-- The state with a plate committed and its CUT entry at a fire position (R94, steps 3 to 8). -/
def State.withPlate (s : State) (p : Plate) (fire : Nat) : State :=
  (s.withPos { s.pos with schedule := placeEntry ⟨fire, .cut, s.plan.nextPlate⟩ s.pos.schedule }).withPlan { s.plan with
    queue := s.plan.queue ++ [p]
    cLast := p.plannedEnd
    nextPlate := plateAfter s.plan.nextPlate
    trailing := ⟨.planned, p.plannedEnd⟩
    cursor := if p.kind = .order then nextEnabled s.store.grade.activeTables s.plan.cursor else s.plan.cursor
    wait := .none }

/-- The kind of a plate that is committed late (R95). -/
def lateKind (kind : PlateKind) : PlateKind := if kind = .tail then .tail else .late

/-- The plate record of R96, its end within 48 bits and a GRADE bank ACTIVE. -/
theorem newPlate_eq {s : State} {b : BankId} {c : Nat} (active : s.store.grade.active = some b) (fits : c < 2 ^ 48)
    (kind : PlateKind) (spec : Option Nat) (predicted : Grade) (late : Bool) : newPlate kind spec predicted c late s =
      ⟨s.plan.nextPlate, kind, spec, b, s.plan.cLast, c, s.plan.trailing.status, .planned, none, none, none,
        s.plan.trailing.actual, c, predicted, none, none, 0, false, false, late, false⟩ := by
  unfold newPlate
  rw [active, heldSum_of_lt fits]
  rfl

section
variable {kind : PlateKind} {spec : Option Nat} {predicted : Grade} {c f : Nat} {late : Bool} {s u : State}

/-- The schedule takes a CUT entry while it holds at most 62 entries (R14). -/
theorem placePlate_held (above : s.pos.p < f) (room : s.pos.schedule.length ≤ 62) :
    placePlate kind spec predicted c f late s = some (s.withPlate (newPlate kind spec predicted c late s) f) := by
  have held := insertEntry_room (e := ⟨f, .cut, s.plan.nextPlate⟩) above (decide_eq_true room)
  unfold placePlate
  rw [held]
  simp only [beq_iff_eq]
  rfl

theorem placePlate_full (full : 62 < s.pos.schedule.length) : placePlate kind spec predicted c f late s = none := by
  have noRoom : roomFor .cut s.pos.schedule.length = false := decide_eq_false (Nat.not_le.2 full)
  unfold placePlate
  rcases insertEntry_cases ⟨f, .cut, s.plan.nextPlate⟩ s with ⟨-, h⟩ | ⟨-, room, -⟩ | ⟨-, -, h⟩
  · rw [h]
  · exact absurd (noRoom.symm.trans room) nofun
  · rw [h]

theorem placePlate_some (h : placePlate kind spec predicted c f late s = some u) :
    u = s.withPlate (newPlate kind spec predicted c late s) f := by
  unfold placePlate at h
  split at h
  · next hi =>
    obtain ⟨rfl, -, -⟩ := insertEntry_held hi
    cases h
    simp only [beq_iff_eq]
    rfl
  · cases h
  · cases h

/-! ### On time or late -/

theorem commitPlate_onTime (h : s.pos.p < cutFire s.setup c) :
    commitPlate kind spec predicted c s = placePlate kind spec predicted c (cutFire s.setup c) false s :=
  if_neg (Nat.not_le.2 h)

theorem commitPlate_late (h : cutFire s.setup c ≤ s.pos.p) : commitPlate kind spec predicted c s =
    (placePlate (lateKind kind) none predicted (latestCut s.setup s.pos.p) (s.pos.p + 1) true s).map
      (raise .planLate none s.plan.nextPlate (low32 c)) := by
  unfold lateKind
  simp only [← beq_iff_eq (b := PlateKind.tail)]
  exact if_pos h

theorem commitPlate_full (full : 62 < s.pos.schedule.length) : commitPlate kind spec predicted c s = none := by
  rcases Nat.lt_or_ge s.pos.p (cutFire s.setup c) with h | h
  · rw [commitPlate_onTime h, placePlate_full full]
  · rw [commitPlate_late h, placePlate_full full]
    rfl

/-- A commit on time, with room. -/
theorem commitPlate_held (h : s.pos.p < cutFire s.setup c) (room : s.pos.schedule.length ≤ 62) :
    commitPlate kind spec predicted c s =
      some (s.withPlate (newPlate kind spec predicted c false s) (cutFire s.setup c)) := by
  rw [commitPlate_onTime h, placePlate_held h room]

/-- A late commit, with room: its CUT entry is due with the next increment, so the schedule takes it. -/
theorem commitPlate_late_held (h : cutFire s.setup c ≤ s.pos.p) (room : s.pos.schedule.length ≤ 62) :
    commitPlate kind spec predicted c s = some (raise .planLate none s.plan.nextPlate (low32 c)
      (s.withPlate (newPlate (lateKind kind) none predicted (latestCut s.setup s.pos.p) true s) (s.pos.p + 1))) := by
  rw [commitPlate_late h, placePlate_held (Nat.lt_succ_self _) room]
  rfl

theorem commitPlate_room (room : s.pos.schedule.length ≤ 62) : ∃ u, commitPlate kind spec predicted c s = some u := by
  rcases Nat.lt_or_ge s.pos.p (cutFire s.setup c) with h | h
  · exact ⟨_, commitPlate_held h room⟩
  · exact ⟨_, commitPlate_late_held h room⟩

/-- Every commit places one plate that starts at C_last; a late one raises a condition after it. -/
theorem commitPlate_some (h : commitPlate kind spec predicted c s = some u) :
    ∃ p f, p.plannedStart = s.plan.cLast ∧ u.plan = (s.withPlate p f).plan ∧ NoticeFrame (s.withPlate p f) u := by
  rcases Nat.lt_or_ge s.pos.p (cutFire s.setup c) with hf | hf
  · rw [commitPlate_onTime hf] at h
    rw [placePlate_some h]
    exact ⟨_, _, rfl, rfl, NoticeFrame.refl _⟩
  · rw [commitPlate_late hf] at h
    obtain ⟨v, hv, rfl⟩ := Option.map_eq_some_iff.1 h
    rw [placePlate_some hv]
    exact ⟨_, _, rfl, raise_plan _ _ _ _ _, raise_frame _ _ _ _ _⟩

end

/-! ### The joined queue (R97) -/

/-- Each plate starts at the end of the plate before it, and C_last is the end of the newest. -/
def Planner.Joined (x : Planner) : Prop :=
  (x.queue.IsChain fun p q => q.plannedStart = p.plannedEnd) ∧ ∀ p ∈ x.queue.getLast?, x.cLast = p.plannedEnd

/-- `Planner.Joined`, plate by plate. -/
theorem Planner.joined_iff (x : Planner) : x.Joined ↔
    (∀ pre p q post, x.queue = pre ++ p :: q :: post → q.plannedStart = p.plannedEnd) ∧
      ∀ pre p, x.queue = pre ++ [p] → x.cLast = p.plannedEnd := by
  refine and_congr ?_ ?_
  · rw [List.isChain_iff_forall_rel_of_append_cons_cons]
    exact ⟨fun h pre p q post e => h e, fun h p q pre post e => h pre p q post e⟩
  · simp only [Option.mem_def, List.getLast?_eq_some_iff, forall_exists_index]
    exact forall_comm

theorem Planner.Joined.append {x y : Planner} {p : Plate} (h : x.Joined) (starts : p.plannedStart = x.cLast)
    (queue : y.queue = x.queue ++ [p]) (cLast : y.cLast = p.plannedEnd) : y.Joined := by
  obtain ⟨chain, newest⟩ := h
  unfold Planner.Joined
  rw [queue, cLast]
  constructor
  · refine chain.append (List.isChain_singleton p) fun a ha b hb => ?_
    cases hb
    exact starts.trans (newest a ha)
  · intro q hq
    rw [List.getLast?_concat] at hq
    cases hq
    rfl

theorem Planner.Joined.removeOldest {x y : Planner} {p : Plate} (h : x.Joined) (queue : x.queue = p :: y.queue)
    (cLast : y.cLast = x.cLast) : y.Joined := by
  obtain ⟨chain, newest⟩ := h
  rw [queue] at chain newest
  refine ⟨chain.tail, fun q hq => cLast.trans (newest q ?_)⟩
  rw [List.getLast?_cons, hq]
  rfl

theorem commitPlate_queue {kind : PlateKind} {spec : Option Nat} {predicted : Grade} {c : Nat} {s u : State}
    (h : commitPlate kind spec predicted c s = some u) :
    (∃ p, u.plan.queue = s.plan.queue ++ [p] ∧ p.plannedStart = s.plan.cLast ∧ p.plannedEnd = u.plan.cLast) ∧
      (s.plan.Joined → u.plan.Joined) := by
  obtain ⟨p, f, starts, plan, -⟩ := commitPlate_some h
  have queue : u.plan.queue = s.plan.queue ++ [p] := congrArg Planner.queue plan
  have cLast : u.plan.cLast = p.plannedEnd := congrArg Planner.cLast plan
  exact ⟨⟨p, queue, starts, cLast.symm⟩, fun joined => joined.append starts queue cLast⟩

/-- Settles O30: a commit refused, on time and late; then the queue it leaves, and the queue without its oldest plate. -/
theorem planCommit : Obligations.PlanCommit := by
  unfold Obligations.PlanCommit
  constructor
  · intro kind spec predicted c b s active fits late_fits lead f n plate committed
    have plate_eq : ∀ k sp stop late, stop < 2 ^ 48 → newPlate k sp predicted stop late s = plate k sp stop late :=
      fun k sp _ late stop_fits => newPlate_eq active stop_fits k sp predicted late
    have committed_eq : ∀ k sp stop late fire,
        committed k sp stop late fire = s.withPlate (plate k sp stop late) fire := fun _ _ _ _ _ => rfl
    refine ⟨commitPlate_full, fun room onTime => ?_, fun room late hasRoom => ⟨_, commitPlate_late_held late room, ?_⟩⟩
    · rw [commitPlate_held onTime room, plate_eq _ _ _ _ (by omega), committed_eq]
      rfl
    · have latest_fits : latestCut s.setup s.pos.p < 2 ^ 48 := Nat.lt_of_le_of_lt (Nat.sub_le _ _) late_fits
      rw [plate_eq _ _ _ _ latest_fits, committed_eq]
      exact raise_room _ _ _ _ hasRoom
  · intro joined
    have joined_eq : joined = fun u => u.plan.Joined := funext fun u => propext u.plan.joined_iff.symm
    rw [joined_eq]
    exact ⟨fun kind spec predicted c s u => commitPlate_queue, fun p rest s queue h => h.removeOldest queue rfl⟩

end Sys2Proof.Machine
end

section
/-! A changed boundary at both ends of its cut (R98, R99). -/

namespace Sys2Proof.Machine

theorem orKeep_eq_or {α : Type} (new old : Option α) : orKeep new old = new.or old := by
  cases new <;> rfl

theorem Plate.changeTrail_eq (x : BoundaryChange) (p : Plate) : p.changeTrail x = { p with
    trailStatus := x.status
    trailSeq := x.seq.or p.trailSeq
    trailCaptured := x.captured.or p.trailCaptured
    trailDeviation := x.deviation.or p.trailDeviation
    actualEnd := x.actual.getD p.actualEnd } := by
  simp only [Plate.changeTrail, orKeep_eq_or]

theorem StartCut.change_eq (x : BoundaryChange) (y : StartCut) : y.change x = { y with
    status := x.status
    seq := x.seq.or y.seq
    captured := x.captured.or y.captured
    deviation := x.deviation.or y.deviation } := by
  simp only [StartCut.change, orKeep_eq_or]

theorem changeInQueue_other {n : Nat} {p : Plate} (h : p.number ≠ n) (x : BoundaryChange) (rest : List Plate) :
    changeInQueue n x (p :: rest) = (p :: (changeInQueue n x rest).1, (changeInQueue n x rest).2) :=
  if_neg (by simpa using h)

/-- The walk passes the plates of other numbers. -/
theorem changeInQueue_append {n : Nat} {pre : List Plate} (other : ∀ q ∈ pre, q.number ≠ n) (x : BoundaryChange)
    (rest : List Plate) :
    changeInQueue n x (pre ++ rest) = (pre ++ (changeInQueue n x rest).1, (changeInQueue n x rest).2) := by
  induction pre with
  | nil => rfl
  | cons q pre ih =>
    obtain ⟨hq, hpre⟩ := List.forall_mem_cons.1 other
    rw [List.cons_append, changeInQueue_other hq, ih hpre]
    rfl

theorem changeInQueue_newest (x : BoundaryChange) (p : Plate) :
    changeInQueue p.number x [p] = ([p.changeTrail x], true) := by
  rw [changeInQueue, if_pos (beq_self_eq_true _)]

theorem changeInQueue_followed (x : BoundaryChange) (p q : Plate) (more : List Plate) :
    changeInQueue p.number x (p :: q :: more) = (p.changeTrail x :: q.changeLead x :: more, false) := by
  rw [changeInQueue, if_pos (beq_self_eq_true _)]

theorem changeBoundary_plate {n : Nat} (h : n ≠ 0) (x : BoundaryChange) (s : State) :
    changeBoundary n x s = s.withPlan { s.plan with
      queue := (changeInQueue n x s.plan.queue).1
      trailing := if (changeInQueue n x s.plan.queue).2 then s.plan.trailing.change x else s.plan.trailing } := by
  unfold changeBoundary
  rw [if_neg (by simpa using h)]

section
variable {x : BoundaryChange} {s : State} {pre : List Plate} {p : Plate}

theorem changeBoundary_newest (hq : s.plan.queue = pre ++ [p]) (hn : p.number ≠ 0)
    (other : ∀ q ∈ pre, q.number ≠ p.number) : changeBoundary p.number x s =
      s.withPlan { s.plan with queue := pre ++ [p.changeTrail x], trailing := s.plan.trailing.change x } := by
  rw [changeBoundary_plate hn, hq, changeInQueue_append other, changeInQueue_newest]
  rfl

theorem changeBoundary_followed {q : Plate} {more : List Plate} (hq : s.plan.queue = pre ++ p :: q :: more)
    (hn : p.number ≠ 0) (other : ∀ q ∈ pre, q.number ≠ p.number) : changeBoundary p.number x s =
      s.withPlan { s.plan with queue := pre ++ p.changeTrail x :: q.changeLead x :: more } := by
  rw [changeBoundary_plate hn, hq, changeInQueue_append other, changeInQueue_followed]
  rfl

theorem changeBoundary_startCut_empty (hq : s.plan.queue = []) : changeBoundary 0 x s = s.withPlan { s.plan with
    startCut := s.plan.startCut.map (StartCut.change x), trailing := s.plan.trailing.change x } := by
  unfold changeBoundary
  rw [if_pos (beq_self_eq_true _)]
  dsimp only
  rw [hq]

theorem changeBoundary_startCut_followed {q : Plate} {more : List Plate} (hq : s.plan.queue = q :: more) :
    changeBoundary 0 x s = s.withPlan { s.plan with
      startCut := s.plan.startCut.map (StartCut.change x), queue := q.changeLead x :: more } := by
  unfold changeBoundary
  rw [if_pos (beq_self_eq_true _)]
  dsimp only
  rw [hq]

end

/-- Settles O33: the plate's own boundary and its other end; then the start cut and its other end. -/
theorem boundaryChangesAgree : Obligations.BoundaryChangesAgree := by
  unfold Obligations.BoundaryChangesAgree
  intro x s lead edge
  constructor
  · intro pre p post hq hn other trail
    have trail_eq : p.changeTrail x = trail := p.changeTrail_eq x
    rw [← trail_eq]
    constructor
    · rintro rfl
      exact changeBoundary_newest hq hn other
    · rintro q more rfl
      exact changeBoundary_followed hq hn other
  · intro cut
    have cut_eq : s.plan.startCut.map (StartCut.change x) = cut :=
      congrArg s.plan.startCut.map (funext (StartCut.change_eq x))
    rw [← cut_eq]
    exact ⟨changeBoundary_startCut_empty, fun q more => changeBoundary_startCut_followed⟩

end Sys2Proof.Machine
end

section
/-! What an attempt finds next (R89, R100), by its reach: H in INSPECT, E in STOPPING. -/

namespace Sys2Proof.Machine

/-- The position up to which an attempt may plan: H in INSPECT, E in STOPPING. -/
def State.Reaches (s : State) (reach : Nat) : Prop :=
  (s.trunk.run = .inspect ∧ reach = s.map.h) ∨ (s.trunk.run = .stopping ∧ s.trunk.stopEnd = some reach)

/-- The end of the candidate: C_last and the length of the spec under the cursor. -/
def State.candidateEnd (s : State) : Nat := s.plan.cLast + (currentSpec s).length

/-- The evaluation of the tail that a stop leaves (R100). -/
def State.tailGrade (s : State) (stop : Nat) : Grade :=
  (evaluate s.store.grade.activeTables s.plan.cLast stop s).grade

theorem withRoom_queueFull {s : State} (h : 128 ≤ s.plan.queue.length) (next : PlanStep) : withRoom s next = .wait .queue :=
  if_pos h

theorem withRoom_scheduleFull {s : State} (h : s.plan.queue.length < 128) (full : 62 < s.pos.schedule.length)
    (next : PlanStep) : withRoom s next = .wait .schedule :=
  (if_neg (Nat.not_le.2 h)).trans (if_pos full)

theorem withRoom_open {s : State} (h : s.plan.queue.length < 128) (room : s.pos.schedule.length ≤ 62) (next : PlanStep) :
    withRoom s next = next :=
  (if_neg (Nat.not_le.2 h)).trans (if_neg (Nat.not_lt.2 room))

section
variable {s : State} {reach : Nat}

theorem State.Reaches.not_standby (h : s.Reaches reach) : s.trunk.run ≠ .standby := by
  rcases h with ⟨run, -⟩ | ⟨run, -⟩
  · rw [run]; exact nofun
  · rw [run]; exact nofun

theorem planStep_inspect (run : s.trunk.run = .inspect) : planStep s = inspectStep s := by
  unfold planStep
  rw [run]

theorem planStep_stopping (run : s.trunk.run = .stopping) (stop : s.trunk.stopEnd = some reach) :
    planStep s = stoppingStep reach s := by
  unfold planStep
  rw [run, stop]

/-- A candidate within the reach is tried, in either run state. -/
theorem planStep_candidate (h : s.Reaches reach) (fits : s.candidateEnd ≤ reach) :
    planStep s = withRoom s (evaluateCandidate s) := by
  rcases h with ⟨run, rfl⟩ | ⟨run, stop⟩
  · exact (planStep_inspect run).trans (if_pos fits)
  · exact (planStep_stopping run stop).trans (if_pos fits)

theorem planStep_horizon (run : s.trunk.run = .inspect) (beyond : s.map.h < s.candidateEnd) :
    planStep s = .wait .horizon :=
  (planStep_inspect run).trans (if_neg (Nat.not_le.2 beyond))

theorem planStep_tail (run : s.trunk.run = .stopping) (stop : s.trunk.stopEnd = some reach)
    (beyond : reach < s.candidateEnd) (glass : s.plan.cLast < reach) :
    planStep s = withRoom s (.commit .tail none (s.tailGrade reach) reach) :=
  (planStep_stopping run stop).trans ((if_neg (Nat.not_le.2 beyond)).trans (if_pos glass))

theorem planStep_nothingMore (run : s.trunk.run = .stopping) (stop : s.trunk.stopEnd = some reach)
    (beyond : reach < s.candidateEnd) (done : reach ≤ s.plan.cLast) : planStep s = .nothingMore :=
  (planStep_stopping run stop).trans ((if_neg (Nat.not_le.2 beyond)).trans (if_neg (Nat.not_lt.2 done)))

end

/-- A candidate is committed as ORDER or as CULLET AVOID, never as a tail. -/
theorem evaluateCandidate_commits (s : State) :
    ∃ kind spec predicted c, evaluateCandidate s = .commit kind spec predicted c ∧ kind ≠ .tail := by
  unfold evaluateCandidate
  dsimp only
  split
  · exact ⟨_, _, _, _, rfl, nofun⟩
  · exact ⟨_, _, _, _, rfl, nofun⟩

/-! ### The rounds of an attempt -/

section
variable {s u : State} {n : Nat} {kind : PlateKind} {spec : Option Nat} {predicted : Grade} {c : Nat}

theorem planLoop_wait {w : WaitState} (h : planStep s = .wait w) : planLoop (n + 1) s = endInWait w s := by
  rw [planLoop, h]

theorem planLoop_nothingMore (h : planStep s = .nothingMore) :
    planLoop (n + 1) s = s.withPlan { s.plan with complete := true, wait := .none } := by
  rw [planLoop, h]

theorem planLoop_candidate (h : planStep s = .commit kind spec predicted c)
    (hc : commitPlate kind spec predicted c s = some u) (not_tail : kind ≠ .tail) :
    planLoop (n + 1) s = planLoop n u := by
  rw [planLoop, h]
  dsimp only
  rw [hc]
  exact if_neg (by simpa using not_tail)

theorem planLoop_tail (h : planStep s = .commit .tail spec predicted c)
    (hc : commitPlate .tail spec predicted c s = some u) :
    planLoop (n + 1) s = u.withPlan { u.plan with complete := true } := by
  rw [planLoop, h]
  dsimp only
  rw [hc]
  rfl

theorem planLoop_refused (h : planStep s = .commit kind spec predicted c)
    (hc : commitPlate kind spec predicted c s = none) : planLoop (n + 1) s = waitForSchedule s := by
  rw [planLoop, h]
  dsimp only
  rw [hc]

/-- Rounds enough: each commit fills one of the 128 places of the queue, and a full queue ends the attempt (R89), so that one
round more changes nothing. -/
theorem planLoop_enough {n : Nat} {s : State} (h : 128 ≤ s.plan.queue.length + n) :
    planLoop (n + 2) s = planLoop (n + 1) s := by
  induction n generalizing s with
  | zero =>
    cases hs : planStep s with
    | wait w => rw [planLoop_wait hs, planLoop_wait hs]
    | nothingMore => rw [planLoop_nothingMore hs, planLoop_nothingMore hs]
    | commit kind spec predicted c => exact absurd (planStep_commit hs).1 (Nat.not_lt.2 h)
  | succ n ih =>
    cases hs : planStep s with
    | wait w => rw [planLoop_wait hs, planLoop_wait hs]
    | nothingMore => rw [planLoop_nothingMore hs, planLoop_nothingMore hs]
    | commit kind spec predicted c =>
      cases hc : commitPlate kind spec predicted c s with
      | none => rw [planLoop_refused hs hc, planLoop_refused hs hc]
      | some u =>
        by_cases tail : kind = .tail
        · subst tail
          rw [planLoop_tail hs hc, planLoop_tail hs hc]
        · rw [planLoop_candidate hs hc tail, planLoop_candidate hs hc tail]
          obtain ⟨⟨p, queue, -, -⟩, -⟩ := commitPlate_queue hc
          exact ih (by rw [queue, List.length_append, List.length_singleton]; omega)

/-- What a commit leaves of the run, the Table Store and plan complete. -/
theorem commitPlate_keeps (hc : commitPlate kind spec predicted c s = some u) :
    u.trunk.run = s.trunk.run ∧ u.store = s.store ∧ u.plan.complete = s.plan.complete := by
  obtain ⟨p, f, -, plan, frame⟩ := commitPlate_some hc
  refine ⟨?_, ?_, by rw [plan]; rfl⟩
  · rw [frame]; rfl
  · rw [frame]; rfl

end

end Sys2Proof.Machine
end

section
/-! A planning attempt (R89, R90), the GRADE switch before it (R87, R138) and the end of a stop after it (R101). -/

namespace Sys2Proof.Machine

/-! ### The end of a stop -/

/-- The stop ended where the plate queue is empty (R101). -/
def stopIfEmpty (s : State) : State := if s.plan.queue = [] then enterStandby s else s

theorem checkStopEnd_incomplete {s : State} (h : s.plan.complete = false) : checkStopEnd s = s :=
  if_neg (by simp [h])

theorem checkStopEnd_complete {s : State} (run : s.trunk.run = .stopping) (h : s.plan.complete = true) :
    checkStopEnd s = stopIfEmpty s := by
  unfold checkStopEnd stopIfEmpty
  rw [run, h]
  simp only [beq_self_eq_true, Bool.and_self, Bool.true_and, List.isEmpty_iff]

/-! ### The GRADE switch -/

theorem takeGradeSwitch_none {s : State} (h : ∀ b, (s.store.grade.get b).state ≠ .committing) : takeGradeSwitch s = s := by
  have none_found : s.store.grade.find .committing = none := by
    cases hf : s.store.grade.find .committing with
    | none => rfl
    | some b => exact absurd (find_state hf) (h b)
  unfold takeGradeSwitch
  rw [none_found]

section
variable {s : State} {b : BankId} (committing : (s.store.grade.get b).state = .committing)
  (active : (s.store.grade.get (otherBank b)).state = .active)
include committing active

/-- The banks and the cursor after a switch from one bank to the other. -/
theorem takeGradeSwitch_eq : ∃ bound : Bool,
    let g := s.store.grade.switch b (some (otherBank b)) bound
    takeGradeSwitch s = (s.withGrade g).withPlan { s.plan with cursor := firstEnabled g.activeTables } := by
  have found : s.store.grade.find .committing = some b := find_eq_some committing (by rw [active]; exact nofun)
  have old : s.store.grade.active = some (otherBank b) :=
    find_eq_some active (by rw [otherBank_otherBank, committing]; exact nofun)
  refine ⟨decide (0 < gradeBindings s (otherBank b)), ?_⟩
  unfold takeGradeSwitch switchGrade
  rw [found]
  dsimp only
  rw [old]
  rfl

/-- After the switch the bank is the ACTIVE one, the cursor is its lowest enabled spec, and no bank is COMMITTING. -/
theorem takeGradeSwitch_switched :
    (takeGradeSwitch s).store.grade.get b = { s.store.grade.get b with state := .active } ∧
    (takeGradeSwitch s).plan = { s.plan with cursor := firstEnabled (s.store.grade.get b).tables } ∧
    (takeGradeSwitch s).trunk = s.trunk ∧ ∀ x, ((takeGradeSwitch s).store.grade.get x).state ≠ .committing := by
  obtain ⟨bound, switched⟩ := takeGradeSwitch_eq committing active
  have banks := switch_get s.store.grade (otherBank b) bound
  rw [otherBank_otherBank] at banks
  obtain ⟨new, old⟩ := banks
  have retired : ((s.store.grade.switch b (some (otherBank b)) bound).get (otherBank b)).state ≠ .active ∧
      ((s.store.grade.switch b (some (otherBank b)) bound).get (otherBank b)).state ≠ .committing := by
    rw [old]
    cases bound <;> exact ⟨nofun, nofun⟩
  have tables : (s.store.grade.switch b (some (otherBank b)) bound).activeTables = (s.store.grade.get b).tables := by
    unfold Group.activeTables
    rw [show (s.store.grade.switch b (some (otherBank b)) bound).active = some b from
      find_eq_some (congrArg Bank.state new) retired.1, Option.getD_some, new]
  rw [switched, tables]
  refine ⟨new, rfl, rfl, fun x => ?_⟩
  show ((s.store.grade.switch b (some (otherBank b)) bound).get x).state ≠ .committing
  by_cases hx : x = b
  · rw [hx, new]
    exact nofun
  · rw [bank_eq_of_ne hx (otherBank_ne b)]
    exact retired.2

end

/-! ### The attempt -/

theorem planningAttempt_standby {s : State} (h : s.trunk.run = .standby) : planningAttempt s = s := by
  unfold planningAttempt
  rw [h]
  rfl

/-- An attempt is the switch, the rounds unless plan complete is set, and the end of the stop. -/
theorem planningAttempt_run {s : State} (h : s.trunk.run ≠ .standby) : planningAttempt s =
    checkStopEnd (if (takeGradeSwitch s).plan.complete then takeGradeSwitch s else planLoop 129 (takeGradeSwitch s)) :=
  if_neg (by simpa using h)

/-- A switch that was due is made first, and leaves none to make. -/
theorem planningAttempt_switched {s : State} {b : BankId} (run : s.trunk.run ≠ .standby)
    (committing : (s.store.grade.get b).state = .committing)
    (active : (s.store.grade.get (otherBank b)).state = .active) :
    planningAttempt s = planningAttempt (takeGradeSwitch s) := by
  obtain ⟨-, -, trunk, settled⟩ := takeGradeSwitch_switched committing active
  rw [planningAttempt_run run, planningAttempt_run (s := takeGradeSwitch s) (by rw [trunk]; exact run),
    takeGradeSwitch_none settled]

section
variable {s : State} (settled : ∀ b, (s.store.grade.get b).state ≠ .committing)
include settled

theorem planningAttempt_complete (run : s.trunk.run ≠ .standby) (h : s.plan.complete = true) :
    planningAttempt s = checkStopEnd s := by
  rw [planningAttempt_run run, takeGradeSwitch_none settled, h, if_pos rfl]

theorem planningAttempt_incomplete (run : s.trunk.run ≠ .standby) (h : s.plan.complete = false) :
    planningAttempt s = checkStopEnd (planLoop 129 s) := by
  rw [planningAttempt_run run, takeGradeSwitch_none settled, h, if_neg nofun]

variable (incomplete : s.plan.complete = false)
include incomplete

/-- A test that fails ends the attempt in its wait, and no stop. -/
theorem planningAttempt_wait {w : WaitState} (run : s.trunk.run ≠ .standby) (h : planStep s = .wait w) :
    planningAttempt s = endInWait w s := by
  have stays : (endInWait w s).plan.complete = false := by
    unfold endInWait waitForSchedule
    split
    · split
      · exact incomplete
      · exact (congrArg Planner.complete (raise_plan _ _ _ _ s)).trans incomplete
    · exact incomplete
    · exact incomplete
    · exact incomplete
  rw [planningAttempt_incomplete settled run incomplete, planLoop_wait h, checkStopEnd_incomplete stays]

theorem planningAttempt_nothingMore (run : s.trunk.run = .stopping) (h : planStep s = .nothingMore) :
    planningAttempt s = stopIfEmpty (s.withPlan { s.plan with complete := true, wait := .none }) := by
  rw [planningAttempt_incomplete settled (by rw [run]; exact nofun) incomplete, planLoop_nothingMore h,
    checkStopEnd_complete (by exact run) rfl]

/-- A candidate committed leaves the attempt to be made again. -/
theorem planningAttempt_candidate {kind : PlateKind} {spec : Option Nat} {predicted : Grade} {c : Nat} {u : State}
    (run : s.trunk.run ≠ .standby) (h : planStep s = .commit kind spec predicted c) (not_tail : kind ≠ .tail)
    (hc : commitPlate kind spec predicted c s = some u) : planningAttempt s = planningAttempt u := by
  obtain ⟨run', store', complete'⟩ := commitPlate_keeps hc
  obtain ⟨⟨p, queue, -, -⟩, -⟩ := commitPlate_queue hc
  have rounds : planLoop 129 u = planLoop 128 u :=
    planLoop_enough (n := 127) (by rw [queue, List.length_append, List.length_singleton]; omega)
  rw [planningAttempt_incomplete settled run incomplete, planLoop_candidate h hc not_tail,
    planningAttempt_incomplete (by rw [store']; exact settled) (by rw [run']; exact run) (complete'.trans incomplete),
    rounds]

/-- A tail committed sets plan complete; its plate is in the queue, so the stop does not end yet. -/
theorem planningAttempt_tail {spec : Option Nat} {predicted : Grade} {c : Nat} {u : State}
    (run : s.trunk.run = .stopping) (h : planStep s = .commit .tail spec predicted c)
    (hc : commitPlate .tail spec predicted c s = some u) :
    planningAttempt s = u.withPlan { u.plan with complete := true } := by
  obtain ⟨run', -, -⟩ := commitPlate_keeps hc
  obtain ⟨⟨p, queue, -, -⟩, -⟩ := commitPlate_queue hc
  rw [planningAttempt_incomplete settled (by rw [run]; exact nofun) incomplete, planLoop_tail h hc,
    checkStopEnd_complete (by exact run'.trans run) rfl]
  refine if_neg ?_
  rw [State.withPlan_plan, queue]
  exact List.append_ne_nil_of_right_ne_nil _ (List.cons_ne_nil _ _)

end

theorem waitForSchedule_again {s : State} (h : s.plan.wait = .schedule) : waitForSchedule s = s :=
  if_pos (by rw [h]; rfl)

/-- A wait for schedule room that begins raises SCHEDULE_FULL (R90). -/
theorem waitForSchedule_begins {s : State} (h : s.plan.wait ≠ .schedule) (room : hasRoom s) :
    ∃ v, Raised .scheduleFull none s.plan.nextPlate (s.plan.cLast % 2 ^ 32) s v ∧
      waitForSchedule s = v.withPlan { s.plan with wait := .schedule } := by
  refine ⟨_, raise_room _ _ _ _ room, ?_⟩
  unfold waitForSchedule setWait
  rw [if_neg (by simpa using h), raise_plan]
  rfl

/-- Settles O31: each step that an attempt can find, with what it makes of the state. -/
theorem planningAttempt_outcomes : Obligations.PlanningAttempt := by
  unfold Obligations.PlanningAttempt
  intro s plan grade need waits stopped
  refine ⟨planningAttempt_standby, fun b run committing active => ?_, fun settled => ?_⟩
  · obtain ⟨bank, planner, -, -⟩ := takeGradeSwitch_switched committing active
    exact ⟨planningAttempt_switched run committing active, bank, planner⟩
  refine ⟨fun run complete => ?_, fun run complete => ?_, ?_⟩
  · exact (planningAttempt_complete settled (by rw [run]; exact nofun) complete).trans (checkStopEnd_inspect run)
  · exact (planningAttempt_complete settled (by rw [run]; exact nofun) complete).trans (checkStopEnd_complete run complete)
  intro reach incomplete reaches tail asks
  have run : s.trunk.run ≠ .standby := State.Reaches.not_standby reaches
  have stop_of : s.trunk.run = .stopping → s.trunk.stopEnd = some reach := fun stopping =>
    reaches.elim (fun h => absurd (h.1.symm.trans stopping) nofun) And.right
  have tail_step (h : tail) : planStep s = withRoom s (.commit .tail none (s.tailGrade reach) reach) :=
    planStep_tail h.1 (stop_of h.1) h.2.1 h.2.2
  have asks_step (h : asks) : ∃ next, planStep s = withRoom s next :=
    h.elim (fun fits => ⟨_, planStep_candidate reaches fits⟩) fun ht => ⟨_, tail_step ht⟩
  have schedule_wait (h : asks) (queue : plan.queue.length < 128) (full : 62 < s.pos.schedule.length) :
      planningAttempt s = waitForSchedule s := by
    obtain ⟨next, step⟩ := asks_step h
    exact planningAttempt_wait settled incomplete run (step.trans (withRoom_scheduleFull queue full next))
  refine ⟨fun inspect beyond => ?_, fun stopping beyond done => ?_, fun h full => ?_, fun h queue full waiting => ?_,
    fun h queue full waiting room => ?_, fun fits queue room => ?_, fun h queue room => ?_⟩
  · have reach_eq : reach = s.map.h := reaches.elim And.right fun h => absurd (inspect.symm.trans h.1) nofun
    exact planningAttempt_wait settled incomplete run (planStep_horizon inspect (reach_eq ▸ beyond))
  · exact planningAttempt_nothingMore settled incomplete stopping
      (planStep_nothingMore stopping (stop_of stopping) beyond done)
  · obtain ⟨next, step⟩ := asks_step h
    exact planningAttempt_wait settled incomplete run (step.trans (withRoom_queueFull full next))
  · exact (schedule_wait h queue full).trans (waitForSchedule_again waiting)
  · obtain ⟨v, raised, after⟩ := waitForSchedule_begins waiting room
    exact ⟨v, raised, (schedule_wait h queue full).trans after⟩
  · obtain ⟨kind, spec, predicted, c, found, not_tail⟩ := evaluateCandidate_commits s
    obtain ⟨u, hu⟩ := commitPlate_room (kind := kind) (spec := spec) (predicted := predicted) (c := c) room
    have step : planStep s = .commit kind spec predicted c :=
      (planStep_candidate reaches fits).trans ((withRoom_open queue room _).trans found)
    exact ⟨kind, spec, predicted, c, u, found, hu, planningAttempt_candidate settled incomplete run step not_tail hu⟩
  · obtain ⟨u, hu⟩ := commitPlate_room (kind := .tail) (spec := none) (predicted := s.tailGrade reach) (c := reach) room
    exact ⟨u, hu, planningAttempt_tail settled incomplete h.1 ((tail_step h).trans (withRoom_open queue room _)) hu⟩

end Sys2Proof.Machine
end

section
/-! The Cutter Interface's operations, each as the components it changes: a boundary missed, skipped or requested, a cut
counted, an entry inserted (R98, R104 to R109). -/

namespace Sys2Proof.Machine

/-! ### What a changed boundary and a removal leave alone -/

@[simp] theorem changeBoundary_pos (n : Nat) (x : BoundaryChange) (s : State) : (changeBoundary n x s).pos = s.pos := by
  rw [changeBoundary_form]; rfl

@[simp] theorem changeBoundary_cutter (n : Nat) (x : BoundaryChange) (s : State) :
    (changeBoundary n x s).cutter = s.cutter := by rw [changeBoundary_form]; rfl

@[simp] theorem changeBoundary_report (n : Nat) (x : BoundaryChange) (s : State) :
    (changeBoundary n x s).report = s.report := by rw [changeBoundary_form]; rfl

@[simp] theorem changeBoundary_store (n : Nat) (x : BoundaryChange) (s : State) :
    (changeBoundary n x s).store = s.store := by rw [changeBoundary_form]; rfl

@[simp] theorem changeBoundary_pulses (n : Nat) (x : BoundaryChange) (s : State) :
    (changeBoundary n x s).pulses = s.pulses := by rw [changeBoundary_form]; rfl

/-- The pulses may change before a boundary does or after it. -/
theorem changeBoundary_withPulses (n : Nat) (x : BoundaryChange) (p : Pulses) (s : State) :
    changeBoundary n x (s.withPulses p) = (changeBoundary n x s).withPulses p := by
  rw [changeBoundary_form n x (s.withPulses p), changeBoundary_plan (s := s) (u := s.withPulses p) n x rfl,
    changeBoundary_form n x s]
  rfl

/-- A removal spelled with the entries' fields (R15). -/
theorem removeEntry_eq (k : EntryKind) (n : Nat) (s : State) : removeEntry k n s = s.withPos { s.pos with
    schedule := s.pos.schedule.filter fun e => !decide (e.kind = k ∧ e.plate = n)
    firing := s.pos.firing.filter fun e => !decide (e.kind = k ∧ e.plate = n) } := by
  have named : Entry.named k n = fun e => decide (e.kind = k ∧ e.plate = n) := by
    funext e
    simp [Entry.named, Bool.decide_and, beq_eq_decide]
  unfold removeEntry
  rw [named]

theorem hasRoom_of_trunk {s u : State} (h : u.trunk = s.trunk) : hasRoom u ↔ hasRoom s := by
  unfold hasRoom
  rw [h]

/-! ### Boundaries resolved (R104, R107, R109) -/

/-- A MISSED boundary with room for its notice: changed, counted, and CUT_MISSED raised. -/
theorem missBoundary_raised {s : State} (n reason : Nat) (room : hasRoom s) :
    Raised .cutMissed none n reason ((changeBoundary n (.statusOnly .missed) s).withReport { s.report with current :=
      { s.report.current with cutsMissed := min Config.max32 (s.report.current.cutsMissed + 1) } })
      (missBoundary n reason s) := by
  have counted : missBoundary n reason s = raise .cutMissed none n reason
      ((changeBoundary n (.statusOnly .missed) s).withReport { s.report with current :=
        { s.report.current with cutsMissed := min Config.max32 (s.report.current.cutsMissed + 1) } }) :=
    congrArg (raise .cutMissed none n reason) (missAbandoned_eq n s)
  rw [counted]
  exact raise_room _ _ _ _ ((hasRoom_of_trunk (changeBoundary_trunk n _ s)).2 room)

theorem skipBoundary_eq (n : Nat) (s : State) : skipBoundary n s =
    (changeBoundary n (.statusOnly .skipped) s).withReport { s.report with current :=
      { s.report.current with cutsSkipped := min Config.max32 (s.report.current.cutsSkipped + 1) } } := by
  unfold skipBoundary
  rw [changeBoundary_form]
  rfl

/-! ### A cut issued (R105) -/

/-- One more on the cuts requested. -/
def countRequested (s : State) : State := s.withReport { s.report with current :=
  { s.report.current with cutsRequested := min Config.max32 (s.report.current.cutsRequested + 1) } }

/-- An entry placed in the schedule, whatever room there is. -/
def State.withEntry (e : Entry) (s : State) : State :=
  s.withPos { s.pos with schedule := placeEntry e s.pos.schedule }

theorem insertEntry_due {e : Entry} {s : State} (h : e.fire ≤ s.pos.p) : insertEntry e s = .atOnce := if_pos h

theorem insertEntry_refused {e : Entry} {s : State} (h : s.pos.p < e.fire)
    (full : roomFor e.kind s.pos.schedule.length = false) : insertEntry e s = .refused := by
  unfold insertEntry
  rw [if_neg (by omega), if_neg (by simp [full])]

theorem requestCut_eq (n c : Nat) (s : State) : requestCut n c s =
    ((changeBoundary n ⟨.requested, some (!s.cutter.seqLevel), none, none, none⟩ s).withPulses
      { s.pulses with cutReq := s.pulses.cutReq + 1 }).withCutter
      { s.cutter with seqLevel := !s.cutter.seqLevel, outstanding := some ⟨n, c, !s.cutter.seqLevel⟩ } := by
  unfold requestCut
  dsimp only
  rw [changeBoundary_withPulses]
  simp

@[simp] theorem requestCut_pos (n c : Nat) (s : State) : (requestCut n c s).pos = s.pos := by
  simp [requestCut_eq]

@[simp] theorem requestCut_store (n c : Nat) (s : State) : (requestCut n c s).store = s.store := by
  simp [requestCut_eq]

@[simp] theorem requestCut_trunk (n c : Nat) (s : State) : (requestCut n c s).trunk = s.trunk := by
  simp [requestCut_eq]

/-- The deadline entry of a cut (R105). -/
def confirmEntry (setup : Setup) (n c : Nat) : Entry := ⟨c + setup.dCut + setup.confirmWindow, .confirmDeadline, n⟩

/-- What an insertion comes to, with what an entry handed at once and a refused one lead to. -/
def Insertion.outcome (x : Insertion) (due refused : State) : State :=
  match x with
  | .held u => u
  | .atOnce => due
  | .refused => refused

section
variable {n c : Nat} {s : State}

/-- An issue: the request, then its deadline's insertion; a missed cut with none pending behind it ends the issue. -/
theorem issueCut_eq (depth n c : Nat) (s : State) : ∃ missed,
    ((missOutstanding n (requestCut n c s)).cutter.pendingCut = none → missed = missOutstanding n (requestCut n c s)) ∧
    issueCut (depth + 1) n c s = countRequested ((insertEntry (confirmEntry s.setup n c) (requestCut n c s)).outcome missed
      (raiseRefused (confirmEntry s.setup n c) missed)) := by
  unfold issueCut
  simp only [State.setup, requestCut_store, confirmEntry]
  refine ⟨_, fun h => ?_, rfl⟩
  simp only [h]

theorem issueCut_held (depth : Nat) (above : s.pos.p < (confirmEntry s.setup n c).fire) (room : s.pos.schedule.length ≤ 63) :
    issueCut (depth + 1) n c s = countRequested ((requestCut n c s).withEntry (confirmEntry s.setup n c)) := by
  obtain ⟨missed, -, issued⟩ := issueCut_eq depth n c s
  rw [issued, insertEntry_room (by simpa using above) (by simpa [confirmEntry, roomFor] using room)]
  rfl

/-- A cut whose deadline is at or below P is missed within its issue (R13, R109). -/
theorem issueCut_due (depth : Nat) (due : (confirmEntry s.setup n c).fire ≤ s.pos.p)
    (none_pending : (missOutstanding n (requestCut n c s)).cutter.pendingCut = none) :
    issueCut (depth + 1) n c s = countRequested (missOutstanding n (requestCut n c s)) := by
  obtain ⟨missed, missed_eq, issued⟩ := issueCut_eq depth n c s
  rw [issued, insertEntry_due (by simpa using due), missed_eq none_pending]
  rfl

/-- A cut whose deadline finds no room is missed within its issue, and SCHEDULE_FULL follows (R14, R109). -/
theorem issueCut_refused (depth : Nat) (above : s.pos.p < (confirmEntry s.setup n c).fire)
    (full : 63 < s.pos.schedule.length)
    (none_pending : (missOutstanding n (requestCut n c s)).cutter.pendingCut = none) :
    issueCut (depth + 1) n c s =
      countRequested (raiseRefused (confirmEntry s.setup n c) (missOutstanding n (requestCut n c s))) := by
  obtain ⟨missed, missed_eq, issued⟩ := issueCut_eq depth n c s
  rw [issued, insertEntry_refused (by simpa using above) (by simpa [confirmEntry, roomFor] using full),
    missed_eq none_pending]
  rfl

theorem issuePending_none (h : s.cutter.pendingCut = none) : issuePending s = s := by
  unfold issuePending
  rw [h]

theorem issuePending_busy (h : s.cutter.busy = true) : issuePending s = s := by
  unfold issuePending
  split
  · rfl
  · exact if_pos h

theorem issuePending_idle {p : PendingCut} (h : s.cutter.pendingCut = some p) (idle : ¬s.cutter.busy = true) :
    issuePending s = issueCut 2 p.plate p.c (removeEntry .issueLimit p.plate (clearPendingCut s)) := by
  unfold issuePending
  rw [h]
  exact if_neg idle

/-! ### The pending cut (R106, R107) -/

theorem fireIssueLimit_none (h : s.cutter.pendingCut = none) : fireIssueLimit n s = s := by
  unfold fireIssueLimit
  rw [h]

theorem fireIssueLimit_own {p : PendingCut} (h : s.cutter.pendingCut = some p) :
    fireIssueLimit p.plate s = gradeTest (clearPendingCut (missBoundary p.plate 2 s)) := by
  unfold fireIssueLimit
  rw [h]
  exact if_pos (beq_self_eq_true _)

theorem fireIssueLimit_other {p : PendingCut} (h : s.cutter.pendingCut = some p) (other : p.plate ≠ n) :
    fireIssueLimit n s = s := by
  unfold fireIssueLimit
  rw [h]
  exact if_neg (by simpa using other)

/-- The cut at a position made the pending one, its boundary PENDING (R106). -/
def putPending (n c : Nat) (s : State) : State :=
  (changeBoundary n (.statusOnly .pending) s).withCutter { s.cutter with pendingCut := some ⟨n, c⟩ }

@[simp] theorem putPending_pos (n c : Nat) (s : State) : (putPending n c s).pos = s.pos := by simp [putPending]

@[simp] theorem putPending_trunk (n c : Nat) (s : State) : (putPending n c s).trunk = s.trunk := by simp [putPending]

theorem putPending_pendingCut (n c : Nat) (s : State) : (putPending n c s).cutter.pendingCut = some ⟨n, c⟩ := rfl

/-- The issue limit entry of a pending cut (R106). -/
def limitEntry (setup : Setup) (n c : Nat) : Entry := ⟨c + setup.dCut, .issueLimit, n⟩

/-- A cut made pending, then its issue limit's insertion. -/
theorem makePending_eq (n c : Nat) (s : State) : makePending n c s =
    (insertEntry (limitEntry s.setup n c) (putPending n c s)).outcome (fireIssueLimit n (putPending n c s))
      (raiseRefused (limitEntry s.setup n c) (fireIssueLimit n (putPending n c s))) := by
  unfold makePending putPending limitEntry
  simp only [State.setup, changeBoundary_store, changeBoundary_cutter, State.withCutter_store]
  rfl

theorem makePending_held (above : s.pos.p < (limitEntry s.setup n c).fire) (room : s.pos.schedule.length ≤ 63) :
    makePending n c s = (putPending n c s).withEntry (limitEntry s.setup n c) := by
  rw [makePending_eq, insertEntry_room (by simpa using above) (by simpa [limitEntry, roomFor] using room)]
  rfl

/-- A pending cut whose issue limit is at or below P is missed at once (R13, R106). -/
theorem makePending_due (due : (limitEntry s.setup n c).fire ≤ s.pos.p) :
    makePending n c s = gradeTest (clearPendingCut (missBoundary n 2 (putPending n c s))) := by
  rw [makePending_eq, insertEntry_due (by simpa using due)]
  exact fireIssueLimit_own (putPending_pendingCut n c s)

/-- A pending cut whose issue limit finds no room is missed at once, and SCHEDULE_FULL follows (R14, R106). -/
theorem makePending_refused (above : s.pos.p < (limitEntry s.setup n c).fire) (full : 63 < s.pos.schedule.length) :
    makePending n c s =
      raiseRefused (limitEntry s.setup n c) (gradeTest (clearPendingCut (missBoundary n 2 (putPending n c s)))) := by
  rw [makePending_eq, insertEntry_refused (by simpa using above) (by simpa [limitEntry, roomFor] using full)]
  exact congrArg (raiseRefused _) (fireIssueLimit_own (putPending_pendingCut n c s))

theorem displacePending_none (h : s.cutter.pendingCut = none) : displacePending s = s := by
  unfold displacePending
  rw [h]

theorem displacePending_some {p : PendingCut} (h : s.cutter.pendingCut = some p) :
    displacePending s = gradeTest (missBoundary p.plate 3 (clearPendingCut (removeEntry .issueLimit p.plate s))) := by
  unfold displacePending
  rw [h]

/-! ### Fired entries (R104, R109) -/

theorem fireCut_held (at_c : cutPosition n s = some c) (held : s.cutter.holdInForce = true) :
    fireCut n s = gradeTest (skipBoundary n s) := by
  unfold fireCut
  rw [at_c]
  exact if_pos held

theorem fireCut_idle (at_c : cutPosition n s = some c) (free : ¬s.cutter.holdInForce = true)
    (idle : ¬s.cutter.busy = true) : fireCut n s = issueCut 2 n c s := by
  unfold fireCut
  rw [at_c]
  exact (if_neg free).trans (if_neg idle)

theorem fireCut_busy (at_c : cutPosition n s = some c) (free : ¬s.cutter.holdInForce = true)
    (busy : s.cutter.busy = true) : fireCut n s = makePending n c (displacePending s) := by
  unfold fireCut
  rw [at_c]
  exact (if_neg free).trans (if_pos busy)

theorem fireDeadline_none (h : s.cutter.outstanding = none) : fireDeadline n s = s := by
  unfold fireDeadline
  rw [h]

theorem fireDeadline_other {o : Outstanding} (h : s.cutter.outstanding = some o) (other : o.plate ≠ n) :
    fireDeadline n s = s := by
  unfold fireDeadline
  rw [h]
  exact if_neg (by simpa using other)

theorem fireDeadline_own {o : Outstanding} (h : s.cutter.outstanding = some o) :
    fireDeadline o.plate s = issuePending (missOutstanding o.plate s) := by
  unfold fireDeadline
  rw [h]
  exact if_pos (beq_self_eq_true _)

end

end Sys2Proof.Machine
end

section
/-! Fired entries of the Cutter Interface, case by case (R104 to R109). -/

namespace Sys2Proof.Machine

/-- Settles O32: a CUT entry under a hold, on an idle cutter and on a busy one; then the issue limit and the deadline. -/
theorem cutEntryByCase : Obligations.CutEntryByCase := by
  unfold Obligations.CutEntryByCase
  intro n s cut held busy limit deadline inserted requested countedReq waits missedBy notPending notOutstanding
  have requested_eq : requestCut = requested := funext fun m => funext fun c => funext (requestCut_eq m c)
  clear_value requested
  subst requested_eq
  have missed : ∀ m reason u, hasRoom u → missedBy m reason u (missBoundary m reason u) :=
    fun m reason u => missBoundary_raised m reason
  have requested_room : ∀ c, hasRoom s → hasRoom (requestCut n c s) :=
    fun c => (hasRoom_of_trunk (requestCut_trunk n c s)).2
  have waits_room : ∀ c, hasRoom s → hasRoom (waits n c s) := fun c => (hasRoom_of_trunk (putPending_trunk n c s)).2
  refine ⟨fun c at_c => ?_, fun old pending => ⟨fireIssueLimit_other pending, ?_⟩, fireIssueLimit_none, fireDeadline_none,
    fun o out => ⟨fireDeadline_other out, ?_⟩⟩
  · have issues (free : ¬held) (idle : ¬busy) : fireCut n s = issueCut 2 n c s :=
      fireCut_idle at_c (mt (holdInForce_iff _).1 free) (mt (busy_iff _).1 idle)
    have makes_pending (free : ¬held) (h : busy) : fireCut n s = makePending n c (displacePending s) :=
      fireCut_busy at_c (mt (holdInForce_iff _).1 free) ((busy_iff _).2 h)
    have first_pending (free : ¬held) (h : busy) (alone : cut.pendingCut = none) : fireCut n s = makePending n c s := by
      rw [makes_pending free h, displacePending_none alone]
    refine ⟨fun h => ?_, fun free idle above room => ?_, fun free idle above full room => ?_,
      fun free idle due room => ?_, fun free h alone due room => ?_, fun free h alone above room => ?_,
      fun free h alone above full room => ?_, fun old free h pending room => ?_⟩
    · rw [fireCut_held at_c ((holdInForce_iff _).2 h), skipBoundary_eq]
      rfl
    · exact (issues free idle).trans (issueCut_held 1 above room)
    · exact ⟨_, missed n 1 _ (requested_room c room), fun alone =>
        (issues free idle).trans (issueCut_refused 1 above full alone)⟩
    · exact ⟨_, missed n 1 _ (requested_room c room), fun alone => (issues free idle).trans (issueCut_due 1 due alone)⟩
    · exact ⟨_, missed n 2 _ (waits_room c room), (first_pending free h alone).trans (makePending_due due)⟩
    · exact (first_pending free h alone).trans (makePending_held above room)
    · exact ⟨_, missed n 2 _ (waits_room c room), (first_pending free h alone).trans (makePending_refused above full)⟩
    · refine ⟨_, missed old.plate 3 _ room, ?_⟩
      intro w above room
      have displaced : displacePending s = w := displacePending_some pending
      have setup_eq : w.setup = s.setup := displaced ▸ (displacePending_inner s).setup
      rw [makes_pending free h, displaced, makePending_held (by rwa [setup_eq]) room, setup_eq]
      rfl
  · rintro rfl room
    exact ⟨_, missed old.plate 2 s room, fireIssueLimit_own pending⟩
  · rintro rfl room
    refine ⟨_, missed o.plate 1 s room, ?_⟩
    intro w
    have fires : fireDeadline o.plate s = issuePending w := fireDeadline_own out
    constructor
    · rintro (alone | still)
      · exact fires.trans (issuePending_none alone)
      · exact fires.trans (issuePending_busy ((busy_iff _).2 still))
    · intro next pending idle low y above room
      have setup_eq : y.setup = s.setup := (missOutstanding_inner o.plate s).setup
      have idle : ¬w.cutter.busy = true := mt (busy_iff _).1 (by simp [idle, low])
      rw [fires, issuePending_idle pending idle]
      refine (issueCut_held 1 (s := y) ?_ room).trans ?_
      · rwa [setup_eq]
      · rw [setup_eq]; rfl

end Sys2Proof.Machine
end

section
/-! A hold and the cutter's fault: what the onset makes of the pending cut, and what stays of the outstanding one (R110,
R111). -/

namespace Sys2Proof.Machine

theorem answer_quiet (r : Request) (st : Status) (body : List Byte) (u : State) : Quiet u (answer r st body u) := by
  obtain ⟨e, q, ended, -, -⟩ := complete_cases r (handRecord (.response r.tag r.kind st body) u)
  have answered : answer r st body u = _ := ended
  rw [answered]
  exact (handRecord_quiet _ u).trans (Quiet.same rfl rfl rfl rfl)

/-! ### The departure of an entry (R15, R89, R130) -/

/-- The departure's course where `s` held the entry of a kind and a plate number. -/
def departed (k : EntryKind) (n : Nat) (s u : State) : State :=
  if (s.pos.schedule.any fun e => decide (e.kind = k ∧ e.plate = n)) = true then afterDeparture u else u

theorem departed_eq (k : EntryKind) (n : Nat) (s u : State) :
    (if holdsEntry k n s = true then afterDeparture u else u) = departed k n s u := by
  rw [holdsEntry_eq]
  rfl

theorem departed_quiet (k : EntryKind) (n : Nat) (s u : State) : Quiet u (departed k n s u) := by
  unfold departed
  split
  · exact afterDeparture_quiet u
  · exact Quiet.refl u

/-! ### The onset of a hold (R110) -/

/-- The pending cut given up at the onset of a hold: its entry removed, its boundary SKIPPED and counted. -/
def skipPending (old : PendingCut) (u : State) : State :=
  ((changeBoundary old.plate (.statusOnly .skipped) (removeEntry .issueLimit old.plate u)).withReport { u.report with
    current := { u.report.current with cutsSkipped := min Config.max32 (u.report.current.cutsSkipped + 1) } }).withCutter
    { u.cutter with pendingCut := none }

theorem clearPendingCut_skipBoundary (old : PendingCut) (u : State) :
    clearPendingCut (skipBoundary old.plate (removeEntry .issueLimit old.plate u)) = skipPending old u := by
  rw [skipBoundary_eq]
  unfold clearPendingCut
  rw [State.withReport_cutter, changeBoundary_cutter]
  rfl

theorem holdOnset_none {u : State} (h : u.cutter.pendingCut = none) : holdOnset u = u := by
  unfold holdOnset
  rw [h]

theorem holdOnset_pending {u : State} {old : PendingCut} (h : u.cutter.pendingCut = some old) :
    holdOnset u = departed .issueLimit old.plate u (gradeTest (skipPending old u)) := by
  rw [← clearPendingCut_skipBoundary, ← departed_eq]
  unfold holdOnset
  rw [h]

/-- What the onset of a hold leaves of the cutter: no cut is pending, and the outstanding one stays unless the run stops. -/
structure HoldBegun (u x : State) : Prop where
  pendingCut : x.cutter.pendingCut = none
  outstanding : x.trunk.run = .standby ∨ x.cutter.outstanding = u.cutter.outstanding
  seqLevel : x.cutter.seqLevel = u.cutter.seqLevel
  requestedHold : x.cutter.requestedHold = u.cutter.requestedHold
  faultHigh : x.cutter.faultHigh = u.cutter.faultHigh
  pulses : x.pulses = u.pulses

theorem HoldBegun.quiet {u x y : State} (h : HoldBegun u x) (q : Quiet x y) : HoldBegun u y where
  pendingCut := q.pendingCut.elim (fun kept => kept.trans h.pendingCut) And.left
  outstanding := h.outstanding.elim (fun stopped => .inl (q.standby stopped)) fun kept =>
    q.outstanding.symm.imp And.right fun same => same.trans kept
  seqLevel := q.seqLevel.trans h.seqLevel
  requestedHold := q.requestedHold.trans h.requestedHold
  faultHigh := q.faultHigh.trans h.faultHigh
  pulses := q.pulses.trans h.pulses

theorem holdOnset_begun (u : State) : HoldBegun u (holdOnset u) := by
  cases h : u.cutter.pendingCut with
  | none =>
    rw [holdOnset_none h]
    exact ⟨h, .inr rfl, rfl, rfl, rfl, rfl⟩
  | some old =>
    have skipped : HoldBegun u (skipPending old u) := ⟨rfl, .inr rfl, rfl, rfl, rfl, by simp [skipPending, removeEntry]⟩
    rw [holdOnset_pending h]
    exact skipped.quiet ((gradeTest_quiet _).trans (departed_quiet _ _ _ _))

/-! ### The fault (R111) -/

/-- A raise of a kind that is routed to LINE is handled there. -/
theorem Raised.heldAtLine {k : CondKind} {lane : Option LaneId} {d1 d2 : Nat} {s t : State} (h : Raised k lane d1 d2 s t)
    (line : s.setup.delegGantry.testBit (k.code - 1) = false) : heldAtLine k lane d1 d2 false s t := by
  have handled := h.handled
  rw [if_pos line] at handled
  exact handled.2

theorem Raised.cutter {k : CondKind} {lane : Option LaneId} {d1 d2 : Nat} {s t : State} (h : Raised k lane d1 d2 s t) :
    t.cutter = s.cutter := by rw [h.rest]; rfl

theorem Raised.pulses {k : CondKind} {lane : Option LaneId} {d1 d2 : Nat} {s t : State} (h : Raised k lane d1 d2 s t) :
    t.pulses = s.pulses := by rw [h.rest]; rfl

/-- The rising edge of CUTTER_FAULT with room: the raise, then the onset where no hold was in force before it. -/
theorem faultRise_eq {s : State} (room : hasRoom s) : ∃ v,
    Raised .cutterFault none (if s.cutter.outstanding = none then 0 else 1)
      ((s.cutter.outstanding.map Outstanding.plate).getD 0) (s.withCutter { s.cutter with faultHigh := true }) v ∧
    (s.cutter.holdInForce = true → faultRise s = v) ∧ (¬s.cutter.holdInForce = true → faultRise s = holdOnset v) := by
  have detail : (if s.cutter.outstanding.isSome = true then 1 else 0) = if s.cutter.outstanding = none then 0 else 1 := by
    cases s.cutter.outstanding <;> rfl
  rw [← detail]
  exact ⟨_, raise_room (s := s.withCutter _) _ _ _ _ room, fun h => if_pos h, fun h => if_neg h⟩

/-- Settles O36: the raise at LINE, then the onset where no hold was in force. -/
theorem cutterFaultRise : Obligations.CutterFaultRise := by
  unfold Obligations.CutterFaultRise
  intro s masks room cut u d1 d2 onset
  obtain ⟨v, raised, still, begins⟩ := faultRise_eq room
  obtain ⟨t, ht, take⟩ := done_afterTake (faultRise s)
  have cutter_v : v.cutter = { cut with faultHigh := true } := raised.cutter
  have pending_v : v.cutter.pendingCut = cut.pendingCut := by rw [cutter_v]
  have level_v : v.cutter.seqLevel = cut.seqLevel := by rw [cutter_v]
  have fault_v : v.cutter.faultHigh = true := by rw [cutter_v]
  have begun : HoldBegun v (holdOnset v) := holdOnset_begun v
  have free (h : cut.requestedHold = false) (h' : cut.faultHigh = false) : faultRise s = holdOnset v :=
    begins (by rw [holdInForce_iff]; simp [cut, h, h'])
  refine ⟨v, t, ht, raised, raised.heldAtLine masks.gantryFault, fun h => ?_, fun old h h' pending => ?_, ?_⟩
  · have unchanged : faultRise s = v := by
      by_cases hold : s.cutter.holdInForce = true
      · exact still hold
      · have alone : cut.pendingCut = none := (or_assoc.2 h).resolve_left (mt (holdInForce_iff _).2 hold)
        exact (begins hold).trans (holdOnset_none (pending_v.trans alone))
    exact unchanged ▸ take
  · have onset_eq : faultRise s = onset old v := (free h h').trans (holdOnset_pending (pending_v.trans pending))
    exact onset_eq ▸ take
  · have levels : (faultRise s).cutter.faultHigh = true ∧ (faultRise s).cutter.seqLevel = cut.seqLevel ∧
        (faultRise s).pulses = s.pulses := by
      by_cases hold : s.cutter.holdInForce = true
      · rw [still hold]
        exact ⟨fault_v, level_v, raised.pulses⟩
      · rw [begins hold]
        exact ⟨begun.faultHigh.trans fault_v, begun.seqLevel.trans level_v, begun.pulses.trans raised.pulses⟩
    obtain ⟨fault, level, pulses⟩ := levels
    rw [take.blocks.cutter, take.blocks.pulses, take.blocks.run]
    refine ⟨fault, level, pulses, fun h h' => ?_⟩
    have outstanding_v : v.cutter.outstanding = cut.outstanding := by rw [cutter_v]
    rw [free h h']
    exact ⟨begun.pendingCut, outstanding_v ▸ begun.outstanding⟩

end Sys2Proof.Machine
end

section
/-! CUT_ACK's fall, a hold requested and released, and the fault's fall (R105, R106, R110, R111). -/

namespace Sys2Proof.Machine

@[simp] theorem requestCut_report (n c : Nat) (s : State) : (requestCut n c s).report = s.report := by
  simp [requestCut_eq]

theorem countRequested_eq {s : State} {r : ReportUnit} (h : s.report = r) : countRequested s = s.withReport { r with
    current := { r.current with cutsRequested := min Config.max32 (r.current.cutsRequested + 1) } } := by
  subst h
  rfl

/-- With CUT_ACK low, a cutter with no cut outstanding is idle. -/
theorem busy_low {c : Cutter} (low : c.ackHigh = false) : c.busy = true ↔ c.outstanding ≠ none := by
  rw [busy_iff]
  simp [low]

section
variable {s : State}

/-- The fall issues nothing with no cut pending, or with one outstanding (R106). -/
theorem ackFall_issues_nothing (h : s.cutter.pendingCut = none ∨ s.cutter.outstanding ≠ none) :
    ackFall s = s.withCutter { s.cutter with ackHigh := false } := by
  unfold ackFall
  dsimp only
  split
  · rfl
  · next p pending =>
    have out : s.cutter.outstanding ≠ none := h.resolve_left fun alone => nomatch alone.symm.trans pending
    exact if_pos ((busy_low (c := { s.cutter with ackHigh := false }) rfl).2 out)

/-- The fall issues the pending cut where none is outstanding (R106). -/
theorem ackFall_issues {p : PendingCut} (pending : s.cutter.pendingCut = some p) (idle : s.cutter.outstanding = none) :
    ackFall s = departed .issueLimit p.plate s (issueCut 2 p.plate p.c (removeEntry .issueLimit p.plate
      (s.withCutter { s.cutter with ackHigh := false, pendingCut := none }))) := by
  have idle : ¬(s.withCutter { s.cutter with ackHigh := false }).cutter.busy = true :=
    mt (busy_low rfl).1 (not_not_intro idle)
  unfold ackFall
  dsimp only
  split
  · next alone => exact nomatch pending.symm.trans alone
  · next q found =>
    obtain rfl : p = q := Option.some.inj (pending.symm.trans found)
    rw [if_neg idle, issuePending_idle found idle]
    exact departed_eq _ _ _ _

theorem requestHold_held (h : s.cutter.holdInForce = true) :
    requestHold s = s.withCutter { s.cutter with requestedHold := true } := if_pos h

theorem requestHold_begins (h : ¬s.cutter.holdInForce = true) :
    requestHold s = holdOnset (s.withCutter { s.cutter with requestedHold := true }) := if_neg h

end

/-- Settles O35: the fall of CUT_ACK, then the requests for a hold and its release, and the fault's fall. -/
theorem cutterLevels : Obligations.CutterLevels := by
  unfold Obligations.CutterLevels
  intro s tag args cut onset c
  have free (h : cut.requestedHold = false) (h' : cut.faultHigh = false) : ¬s.cutter.holdInForce = true := by
    rw [holdInForce_iff]
    simp [cut, h, h']
  refine ⟨fun h => ?_, fun p pending idle above room => ?_, fun h room => ?_, fun h h' => ?_, fun old h h' pending => ?_,
    fun room => ?_, done_afterTake _⟩
  · obtain ⟨t, ht, take⟩ := done_afterTake (ackFall s)
    exact ⟨t, ht, ackFall_issues_nothing h ▸ take⟩
  · intro low removed requested deadline issued held
    obtain ⟨t, ht, take⟩ := done_afterTake (ackFall s)
    have c_eq : c = p.c := by
      show (s.cutter.pendingCut.map PendingCut.c).getD 0 = p.c
      rw [pending]
      rfl
    have removed_eq : removeEntry .issueLimit p.plate low = removed := removeEntry_eq _ _ _
    have requested_eq : requestCut p.plate p.c removed = requested := requestCut_eq _ _ _
    have report_eq : requested.report = s.report := by rw [← requested_eq, requestCut_report]; rfl
    have removed_length : removed.pos.schedule.length ≤ s.pos.schedule.length := List.length_filter_le _ _
    have issue_eq : issueCut 2 p.plate p.c removed = issued := by
      rw [issueCut_held 1 (c_eq ▸ above) (removed_length.trans room), requested_eq]
      exact countRequested_eq report_eq
    have falls : ackFall s = departed .issueLimit p.plate s issued := by
      rw [ackFall_issues pending idle, removed_eq, issue_eq]
    have kept : Quiet issued (ackFall s) := falls ▸ departed_quiet _ _ _ _
    refine ⟨t, ht, fun h => ?_, fun h => ?_, ?_⟩
    · have departs : ackFall s = afterDeparture issued := falls.trans (if_pos h)
      exact departs ▸ take
    · have stays : ackFall s = issued := falls.trans (if_neg h)
      exact stays ▸ take
    · rw [take.blocks.cutter, take.blocks.run, take.blocks.pulses]
      exact ⟨kept.ackHigh, kept.pendingCut.elim id And.left, kept.seqLevel, kept.outstanding.symm.imp And.right id,
        kept.pulses, kept.lastCapture⟩
  · have only_level : requestHold s = s.withCutter { s.cutter with requestedHold := true } := by
      by_cases hold : s.cutter.holdInForce = true
      · exact requestHold_held hold
      · have alone : cut.pendingCut = none := (or_assoc.2 h).resolve_left (mt (holdInForce_iff _).2 hold)
        exact (requestHold_begins hold).trans (holdOnset_none alone)
    obtain ⟨t, ht, answered⟩ := respond_answered (u := requestHold s) (only_level ▸ room)
    exact ⟨t, ht, only_level ▸ answered⟩
  · obtain ⟨t, ht, take⟩ := done_afterTake (answer ⟨tag, 10, args⟩ .ok [] (requestHold s))
    have begun := (holdOnset_begun (s.withCutter { s.cutter with requestedHold := true })).quiet
      (answer_quiet ⟨tag, 10, args⟩ .ok [] _)
    rw [← requestHold_begins (free h h')] at begun
    refine ⟨t, ht, ?_⟩
    rw [take.blocks.cutter, take.blocks.run, take.blocks.pulses]
    exact ⟨begun.requestedHold, begun.pendingCut, begun.outstanding, begun.seqLevel, begun.pulses⟩
  · intro u
    have onset_eq : requestHold s = u := (requestHold_begins (free h h')).trans (holdOnset_pending pending)
    have runs : exec (.cutterHold tag args) s = respond tag 10 args .ok [] u := congrArg (respond tag 10 args .ok []) onset_eq
    refine ⟨_, runs, fun room => ?_⟩
    obtain ⟨t, ht, answered⟩ := respond_answered room
    exact next_of_done ht ▸ answered
  · exact respond_answered (u := releaseHold s) room

end Sys2Proof.Machine
end

section
/-! A rising CUT_ACK (R17, R108): the edge that confirms the outstanding cut, and the stale edge. -/

namespace Sys2Proof.Machine

/-- A cut's boundary changed by its capture at P: the status, the captured position, its deviation and the actual position
(R108). -/
def captureAt (o : Outstanding) (st : BoundaryStatus) (s : State) : State :=
  changeBoundary o.plate ⟨st, none, some s.pos.p, some (deviationOf s.pos.p o.c s.setup.dCut), some (s.pos.p - s.setup.dCut)⟩ s

@[simp] theorem captureAt_cutter (o : Outstanding) (st : BoundaryStatus) (s : State) :
    (captureAt o st s).cutter = s.cutter := changeBoundary_cutter _ _ _

@[simp] theorem captureAt_report (o : Outstanding) (st : BoundaryStatus) (s : State) :
    (captureAt o st s).report = s.report := changeBoundary_report _ _ _

@[simp] theorem captureAt_trunk (o : Outstanding) (st : BoundaryStatus) (s : State) :
    (captureAt o st s).trunk = s.trunk := changeBoundary_trunk _ _ _

/-- The outstanding cut of a cutter resolved by its capture: its deadline entry removed, the cut gone, the capture kept
(R108). -/
def resolveCut (o : Outstanding) (pc : Nat) (bit : Bool) (out : CaptureOutcome) (x : Cutter) (s : State) : State :=
  (removeEntry .confirmDeadline o.plate s).withCutter { x with outstanding := none, lastCapture := some ⟨pc, bit, out⟩ }

theorem setCapture_clearOutstanding {s : State} {x : Cutter} (h : s.cutter = x) (o : Outstanding) (pc : Nat) (bit : Bool)
    (out : CaptureOutcome) : setCapture pc bit out (clearOutstanding (removeEntry .confirmDeadline o.plate s)) =
      resolveCut o pc bit out x s := by
  subst h
  rfl

section
variable {s : State} {o : Outstanding} {bit : Bool}

theorem ackRise_confirms (out : s.cutter.outstanding = some o) (seq : o.seq = bit) :
    ackRise bit s = confirmCut o s.pos.p bit (s.withCutter { s.cutter with ackHigh := true }) := by
  unfold ackRise
  dsimp only
  rw [State.withCutter_cutter, out]
  exact if_pos (by simp [seq])

theorem ackRise_stale (other : ∀ o, s.cutter.outstanding = some o → o.seq ≠ bit) :
    ackRise bit s = staleEdge s.pos.p bit (s.withCutter { s.cutter with ackHigh := true }) := by
  unfold ackRise
  dsimp only
  split
  · rfl
  · next o out => exact if_neg (by simpa using other o out)

/-- A cut confirmed within the tolerance (R108). -/
theorem confirmCut_within (reached : s.setup.dCut ≤ s.pos.p) (bound : s.pos.p < 2 ^ 48)
    (within : (deviationOf s.pos.p o.c s.setup.dCut).natAbs ≤ s.setup.cutTolerance) :
    confirmCut o s.pos.p bit s = departed .confirmDeadline o.plate s (gradeTest
      ((resolveCut o s.pos.p bit .confirmed s.cutter (captureAt o .confirmed s)).withReport { s.report with current :=
        { s.report.current with cutsConfirmed := min Config.max32 (s.report.current.cutsConfirmed + 1) } })) := by
  have actual := heldDiff_of_le reached (lt_of_le_of_lt (Nat.sub_le _ _) bound)
  rw [← departed_eq, ← setCapture_clearOutstanding (captureAt_cutter o .confirmed s), ← captureAt_report o .confirmed s]
  unfold confirmCut
  simp only [within, decide_true, if_true, actual]
  rfl

/-- A cut confirmed beyond the tolerance is DEVIATED, and CUT_DEVIATION is raised (R108). -/
theorem confirmCut_beyond (room : hasRoom s) (reached : s.setup.dCut ≤ s.pos.p) (bound : s.pos.p < 2 ^ 48)
    (beyond : s.setup.cutTolerance < (deviationOf s.pos.p o.c s.setup.dCut).natAbs) : ∃ v,
    Raised .cutDeviation none (low32 (o.c + s.setup.dCut)) (low32 s.pos.p) (captureAt o .deviated s) v ∧
    confirmCut o s.pos.p bit s = departed .confirmDeadline o.plate s (gradeTest
      ((resolveCut o s.pos.p bit .deviated s.cutter v).withReport { v.report with current :=
        { v.report.current with cutsDeviated := min Config.max32 (v.report.current.cutsDeviated + 1) } })) := by
  have actual := heldDiff_of_le reached (lt_of_le_of_lt (Nat.sub_le _ _) bound)
  have outside : ¬(deviationOf s.pos.p o.c s.setup.dCut).natAbs ≤ s.setup.cutTolerance := Nat.not_le.2 beyond
  have raised := raise_room .cutDeviation none (low32 (o.c + s.setup.dCut)) (low32 s.pos.p)
    ((hasRoom_of_trunk (captureAt_trunk o .deviated s)).2 room)
  refine ⟨_, raised, ?_⟩
  rw [← departed_eq, ← setCapture_clearOutstanding (raised.cutter.trans (captureAt_cutter o .deviated s))]
  unfold confirmCut
  simp only [outside, decide_false, Bool.false_eq_true, if_false, actual]
  rfl

end

/-- Settles O34: the cut confirmed within the tolerance, deviated beyond it, and the stale edge. -/
theorem cutAckRise : Obligations.CutAckRise := by
  unfold Obligations.CutAckRise
  intro bit s high
  refine ⟨fun o out seq reached bound => ?_, fun other room => ?_⟩
  · intro dev after change settled
    obtain ⟨t, ht, take⟩ := done_afterTake (ackRise bit s)
    have confirms : ackRise bit s = confirmCut o high.pos.p bit high := ackRise_confirms out seq
    have kept : ∀ u, Quiet u (after u) := fun u => (gradeTest_quiet u).trans (departed_quiet .confirmDeadline o.plate s _)
    have outcome : ∀ x result, ackRise bit s = after x →
        x.cutter = { s.cutter with ackHigh := true, outstanding := none, lastCapture := some ⟨s.pos.p, bit, result⟩ } →
        t.cutter.outstanding = none ∧ t.cutter.ackHigh = true ∧ t.cutter.lastCapture = some ⟨s.pos.p, bit, result⟩ ∧
          AfterTake (after x) t := by
      intro x result rises cutter_x
      rw [rises] at take
      have q := kept x
      have gone : x.cutter.outstanding = none := by rw [cutter_x]
      rw [take.blocks.cutter]
      exact ⟨q.outstanding.elim (fun same => same.trans gone) And.left, q.ackHigh.trans (by rw [cutter_x]),
        q.lastCapture.trans (by rw [cutter_x]), take⟩
    constructor
    · intro within
      exact ⟨t, ht, outcome _ .confirmed (confirms.trans (confirmCut_within reached bound within)) rfl⟩
    · intro beyond room
      obtain ⟨v, raised, deviates⟩ := confirmCut_beyond (s := high) (o := o) (bit := bit) room reached bound beyond
      obtain ⟨gone, ack, capture, taken⟩ := outcome _ .deviated (confirms.trans deviates) rfl
      exact ⟨v, t, ht, gone, ack, capture, raised, taken⟩
  · obtain ⟨t, ht, take⟩ := done_afterTake (ackRise bit s)
    have raised := raise_room (s := high) .confirmStale none (s.pos.p % 2 ^ 32) (if bit then 1 else 0) room
    rw [ackRise_stale other] at take
    exact ⟨_, t, ht, raised, take⟩

end Sys2Proof.Machine
end

section
/-! The discrete outputs: how the requests' pairs are read and what they write, and the driven levels (R114 to R116, R153). -/

namespace Sys2Proof.Machine

/-! ### The pairs of a request (R116) -/

/-- Pairs coded with the outputs' codes and the marks 1 and 0 read back. -/
theorem readPairs_coded {code : Output → Byte} (codes : ∀ o, Output.ofCode? (code o).toNat = some o)
    (ps : List (Output × Bool)) (rest : List Byte) :
    readPairs ps.length (ps.flatMap (fun p => [code p.1, if p.2 then 1 else 0]) ++ rest) = some ps := by
  induction ps with
  | nil => rfl
  | cons p ps ih =>
    obtain ⟨o, mark⟩ := p
    have marks : markOf? (if mark then (1 : Byte) else 0).toNat = some mark := by cases mark <;> rfl
    simp only [List.flatMap_cons, List.cons_append, List.nil_append, List.length_cons, readPairs, codes, marks, ih]

theorem readOutputs_coded {code : Output → Byte} (codes : ∀ o, Output.ofCode? (code o).toNat = some o)
    {ps : List (Output × Bool)} (some_pair : 1 ≤ ps.length) (most : ps.length ≤ 6) (rest : List Byte) :
    readOutputs (BitVec.ofNat 8 ps.length :: (ps.flatMap (fun p => [code p.1, if p.2 then 1 else 0]) ++ rest)) =
      some ps := by
  have count : (BitVec.ofNat 8 ps.length).toNat = ps.length := by
    rw [BitVec.toNat_ofNat]
    omega
  unfold readOutputs
  dsimp only
  rw [count, if_pos ⟨some_pair, most⟩, readPairs_coded codes]

/-! ### What the pairs write (R116) -/

/-- The mark of an output's last pair. -/
def lastMark (ps : List (Output × Bool)) (o : Output) : Option Bool := (ps.reverse.find? fun p => p.1 == o).map Prod.snd

theorem lastMark_append (ps : List (Output × Bool)) (p : Output × Bool) (o : Output) :
    lastMark (ps ++ [p]) o = if p.1 = o then some p.2 else lastMark ps o := by
  unfold lastMark
  rw [List.reverse_append, List.reverse_singleton, List.singleton_append, List.find?_cons]
  by_cases h : p.1 = o
  · rw [if_pos h, beq_iff_eq.2 h]
    rfl
  · rw [if_neg h, beq_eq_false_iff_ne.2 h]

theorem Outputs.get_set (x : Outputs) (o o' : Output) (c : OutputControl) :
    (x.set o c).get o' = if o = o' then c else x.get o' := by
  cases o <;> cases o' <;> rfl

theorem setLatches_get (x : Outputs) (ps : List (Output × Bool)) (o : Output) :
    (setLatches x ps).get o = ⟨(lastMark ps o).getD (x.get o).latch, (x.get o).owner⟩ := by
  induction ps using List.reverseRecOn with
  | nil => rfl
  | append_singleton ps p ih =>
    have step : setLatches x (ps ++ [p]) =
        (setLatches x ps).set p.1 { (setLatches x ps).get p.1 with latch := p.2 } := List.foldl_concat _ _ _ _
    rw [step, Outputs.get_set, lastMark_append]
    by_cases h : p.1 = o
    · subst h
      rw [if_pos rfl, if_pos rfl, ih]
      rfl
    · rw [if_neg h, if_neg h, ih]

/-- The owner that a mark names: MANUAL for 1, FUNCTION for 0; with no mark the owner stays. -/
def markedOwner (mark : Option Bool) (owner : Owner) : Owner :=
  match mark with
  | some true => .manual
  | some false => .function
  | none => owner

theorem setOwners_get (x : Outputs) (ps : List (Output × Bool)) (o : Output) :
    (setOwners x ps).get o = ⟨(x.get o).latch, markedOwner (lastMark ps o) (x.get o).owner⟩ := by
  induction ps using List.reverseRecOn with
  | nil => rfl
  | append_singleton ps p ih =>
    have step : setOwners x (ps ++ [p]) = (setOwners x ps).set p.1
        { (setOwners x ps).get p.1 with owner := if p.2 then .manual else .function } := List.foldl_concat _ _ _ _
    rw [step, Outputs.get_set, lastMark_append]
    by_cases h : p.1 = o
    · subst h
      rw [if_pos rfl, if_pos rfl, ih]
      cases p.2 <;> rfl
    · rw [if_neg h, if_neg h, ih]

/-! ### The driven levels (R114, R115, R153) -/

theorem effectiveOwner_running {s : State} {o : Output} (run : s.trunk.run ≠ .standby) (h : o ≠ .alarm) :
    effectiveOwner o s = .function := by
  unfold effectiveOwner
  rw [if_pos (by simp [run, h])]

theorem effectiveOwner_bit {s : State} {o : Output} (h : s.trunk.run = .standby ∨ o = .alarm) :
    effectiveOwner o s = (s.outputs.get o).owner := by
  unfold effectiveOwner
  rw [if_neg]
  rcases h with h | h <;> simp [h]

theorem drivenLevel_function {s : State} {o : Output} (h : effectiveOwner o s = .function) :
    drivenLevel o s = functionLevel o s := by
  unfold drivenLevel
  rw [h]

theorem drivenLevel_manual {s : State} {o : Output} (h : effectiveOwner o s = .manual) :
    drivenLevel o s = (s.outputs.get o).latch := by
  unfold drivenLevel
  rw [h]

theorem drivenLevel_running {s : State} (run : s.trunk.run ≠ .standby) {o : Output} (h : o ≠ .alarm) :
    drivenLevel o s = functionLevel o s := drivenLevel_function (effectiveOwner_running run h)

theorem functionLevel_alarm_iff (s : State) : functionLevel .alarm s = true ↔ ∃ r, s.cond.line = some r :=
  Option.isSome_iff_exists

@[simp] theorem handUrgent_cond (r : Urgent) (s : State) : (handUrgent r s).1.cond = s.cond := by
  unfold handUrgent
  split <;> rfl

/-- A raise handled at LINE leaves the LINE record occupied (R151). -/
theorem handleLine_occupied (k : CondKind) (lane : Option LaneId) (d1 d2 : Nat) (e : Bool) (s : State) :
    ∃ r, (handleLine k lane d1 d2 e s).1.cond.line = some r := by
  unfold handleLine
  split
  · exact ⟨_, congrArg ConditionUnit.line (handUrgent_cond _ _)⟩
  · exact ⟨_, rfl⟩

/-! ### The parts of the statement -/

theorem outputSet_eq {args : List Byte} {ps : List (Output × Bool)} (read : readOutputs args = some ps) (tag : Byte)
    (s : State) : exec (.outputSet tag args) s = respond tag 16 args .ok [] (s.withOutputs (setLatches s.outputs ps)) := by
  show execOutputSet tag args s = _
  unfold execOutputSet
  rw [read]

theorem outputOwner_eq {args : List Byte} {ps : List (Output × Bool)} (read : readOutputs args = some ps) (tag : Byte)
    (s : State) : exec (.outputOwner tag args) s = respond tag 17 args .ok [] (s.withOutputs (setOwners s.outputs ps)) := by
  show execOutputOwner tag args s = _
  unfold execOutputOwner
  rw [read]

/-- Settles O22: what the two requests write, the driven levels by run state and owner, and the alarm. -/
theorem outputRequests : Obligations.OutputRequests := by
  unfold Obligations.OutputRequests
  refine ⟨fun s tag ps rest room some_pair most => ?_, fun s => ⟨fun run => ?_, fun standby o => ?_⟩, fun s => ?_,
    fun k lane d1 d2 e s => (functionLevel_alarm_iff _).2 (handleLine_occupied k lane d1 d2 e s)⟩
  · intro code args last
    have codes : ∀ o, Output.ofCode? (code o).toNat = some o := by
      intro o
      cases o <;> rfl
    have read : readOutputs args = some ps := readOutputs_coded codes some_pair most rest
    rw [outputSet_eq read, outputOwner_eq read]
    constructor
    · obtain ⟨t, ht, answered⟩ := respond_answered (u := s.withOutputs (setLatches s.outputs ps)) room
      exact ⟨_, t, ht, answered, setLatches_get s.outputs ps⟩
    · obtain ⟨t, ht, answered⟩ := respond_answered (u := s.withOutputs (setOwners s.outputs ps)) room
      exact ⟨_, t, ht, answered, setOwners_get s.outputs ps⟩
  · have driven : ∀ o, o ≠ .alarm → drivenLevel o s = functionLevel o s := fun o => drivenLevel_running run
    refine ⟨driven .cutSeq nofun, driven .cutReq nofun, ?_⟩
    rw [driven .div1 nofun, driven .div0 nofun, driven .reject nofun]
    unfold functionLevel
    cases s.divert.gate <;> rfl
  · have owner_eq := effectiveOwner_bit (o := o) (.inl standby)
    exact ⟨fun h => drivenLevel_manual (owner_eq.trans h), fun h => drivenLevel_function (owner_eq.trans h)⟩
  · have owner_eq := effectiveOwner_bit (s := s) (o := .alarm) (.inr rfl)
    exact ⟨functionLevel_alarm_iff s, fun h => drivenLevel_function (owner_eq.trans h),
      fun h => drivenLevel_manual (owner_eq.trans h)⟩

end Sys2Proof.Machine
end

section
/-! An evaluation's grade, and the final grade made of it (R122, R123, R125). -/

namespace Sys2Proof.Machine

/-! ### The grade of an evaluation (R123) -/

section
variable {t : GradeTables} {netLo : Nat} {fs : List FlawRecord} (coded : ∀ f ∈ fs, f.cls < 16)
include coded

/-- The tally of a class is not empty where a flaw has the class. -/
theorem tallyOf_classTotal_pos (k : Nat) : 0 < (tallyOf t netLo fs).classTotal k ↔ ∃ f ∈ fs, f.cls = k := by
  have cell : ∀ z, z < 4 → (0 < (tallyOf t netLo fs).cell k z ↔
      ∃ f ∈ fs, f.cls = k ∧ gradeZone t (f.centre - netLo) = z) := by
    intro z hz
    unfold Tally.cell
    rw [tallyOf_cell t netLo fs coded hz, lt_min_iff, List.countP_pos_iff]
    simp
  have total : 0 < (tallyOf t netLo fs).classTotal k ↔ ∃ z, z < 4 ∧ 0 < (tallyOf t netLo fs).cell k z := by
    unfold Tally.classTotal
    constructor
    · intro h
      by_contra none_pos
      simp only [not_exists, not_and] at none_pos
      have := none_pos 0
      have := none_pos 1
      have := none_pos 2
      have := none_pos 3
      omega
    · rintro ⟨z, hz, pos⟩
      interval_cases z <;> omega
  rw [total]
  constructor
  · rintro ⟨z, hz, pos⟩
    obtain ⟨f, mem, hk, -⟩ := (cell z hz).1 pos
    exact ⟨f, mem, hk⟩
  · rintro ⟨f, mem, hk⟩
    have zone := gradeZone_lt t (f.centre - netLo)
    exact ⟨_, zone, (cell _ zone).2 ⟨f, mem, hk, rfl⟩⟩

/-- A tally is FATAL where a flaw has a class of the fatal mask. -/
theorem tallyOf_fatal_iff : (tallyOf t netLo fs).fatal t = true ↔ ∃ f ∈ fs, t.fatal.getD f.cls false = true := by
  unfold Tally.fatal
  simp only [List.any_eq_true, List.mem_range, Bool.and_eq_true, decide_eq_true_eq, tallyOf_classTotal_pos coded]
  constructor
  · rintro ⟨_, -, masked, f, mem, rfl⟩
    exact ⟨f, mem, masked⟩
  · rintro ⟨f, mem, masked⟩
    exact ⟨f.cls, coded f mem, masked, f, mem, rfl⟩

/-- The limits of a grade hold the tally where they hold the flaws of every class and zone. -/
theorem tallyOf_within_iff (g : Nat) : (tallyOf t netLo fs).within t g = true ↔ ∀ k z, k < 16 → z < 4 →
    min 255 (fs.countP fun f => f.cls == k && gradeZone t (f.centre - netLo) == z) ≤
      t.limits.getD (g * 64 + k * 4 + z) 0 := by
  unfold Tally.within
  simp only [List.all_eq_true, List.mem_range, decide_eq_true_eq]
  constructor
  · intro h k z hk hz
    have held := h (k * 4 + z) (by omega)
    rwa [tallyOf_cell t netLo fs coded hz, ← Nat.add_assoc] at held
  · intro h c hc
    have zone : c % 4 < 4 := Nat.mod_lt _ (by omega)
    have split : c / 4 * 4 + c % 4 = c := Nat.div_add_mod' c 4
    have held := h (c / 4) (c % 4) (by omega) zone
    rwa [← tallyOf_cell t netLo fs coded zone, Nat.add_assoc, split] at held

end

/-- The best grade whose limits hold, else REJECT. -/
theorem limitGrade_cases (t : GradeTables) (tally : Tally) :
    (tally.within t 0 = true → limitGrade t tally = .a) ∧
    (¬tally.within t 0 = true → tally.within t 1 = true → limitGrade t tally = .b) ∧
    (¬tally.within t 0 = true → ¬tally.within t 1 = true → tally.within t 2 = true → limitGrade t tally = .c) ∧
    (¬tally.within t 0 = true → ¬tally.within t 1 = true → ¬tally.within t 2 = true → limitGrade t tally = .reject) := by
  unfold limitGrade
  refine ⟨fun a => if_pos a, fun a b => ?_, fun a b c => ?_, fun a b c => ?_⟩
  · rw [if_neg a, if_pos b]
  · rw [if_neg a, if_neg b, if_pos c]
  · rw [if_neg a, if_neg b, if_neg c]

/-! ### The final grade (R125) -/

theorem eitherIs_false {p : Plate} {st : BoundaryStatus} (h : ¬(p.leadStatus = st ∨ p.trailStatus = st)) :
    p.eitherIs st = false := Bool.eq_false_iff.2 (mt (eitherIs_iff p st).1 h)

section
variable {p : Plate} {e : Evaluation}

theorem settledGrade_skipped (h : p.leadStatus = .skipped ∨ p.trailStatus = .skipped) :
    settledGrade p e = .skipped := if_pos ((eitherIs_iff p _).2 h)

variable (cut : ¬(p.leadStatus = .skipped ∨ p.trailStatus = .skipped))
include cut

theorem settledGrade_cullet (h : p.kind ≠ .order) : settledGrade p e = .cullet := by
  unfold settledGrade
  rw [eitherIs_false cut, if_neg Bool.false_ne_true, if_pos (bne_iff_ne.2 h)]

/-- An ORDER plate with no SKIPPED boundary is graded by its boundaries, its flaws and its coverage. -/
theorem settledGrade_order (h : p.kind = .order) : settledGrade p e =
    if p.eitherIs .missed || p.eitherIs .deviated || e.fatal then .reject
    else if e.uninspected then .uninspected else e.grade := by
  unfold settledGrade
  rw [eitherIs_false cut, h]
  cases p.eitherIs .missed <;> cases p.eitherIs .deviated <;> cases e.fatal <;> rfl

end

/-- Settles O37: the grade of an evaluation read off its tally, then the steps of the final grade in order. -/
theorem evaluationAndFinalGrade : Obligations.EvaluationAndFinalGrade := by
  unfold Obligations.EvaluationAndFinalGrade
  refine ⟨fun t netLo fs gap mark coded => ?_, fun p e => ?_⟩
  · intro e holds
    have holds_iff (g : Nat) : (tallyOf t netLo fs).within t g = true ↔ holds g := tallyOf_within_iff coded g
    have limits := limitGrade_cases t (tallyOf t netLo fs)
    simp only [holds_iff] at limits
    refine ⟨rfl, rfl, Bool.or_eq_true _ _ ▸ Iff.rfl, tallyOf_fatal_iff coded, fun fatal => if_pos fatal,
      fun harmless uncovered => ?_, fun harmless covered => ?_⟩
    · exact (if_neg (Bool.eq_false_iff.1 harmless)).trans (if_pos uncovered)
    · have grade : e.grade = limitGrade t (tallyOf t netLo fs) :=
        (if_neg (Bool.eq_false_iff.1 harmless)).trans (if_neg (Bool.eq_false_iff.1 covered))
      rw [grade]
      exact limits
  · intro either
    refine ⟨settledGrade_skipped, settledGrade_cullet, fun cut order spoilt => ?_, fun cut order cutMade onPlace harmless => ?_⟩
    · rw [settledGrade_order cut order]
      refine if_pos ?_
      rw [Bool.or_eq_true, Bool.or_eq_true, eitherIs_iff, eitherIs_iff, or_assoc]
      exact spoilt
    · rw [settledGrade_order cut order, eitherIs_false cutMade, eitherIs_false onPlace, harmless]
      rfl

end Sys2Proof.Machine
end

section
/-! What a planning attempt and a grading leave to the Grader: the gate, and the plates that can still be graded (R89 to R101,
R119). -/

namespace Sys2Proof.Machine

/-- The plate has no final grade, and its trail boundary is resolved. -/
def Plate.gradable (p : Plate) : Bool := p.finalGrade.isNone && p.trailStatus.resolved

/-- How many plates of the queue can still be graded. -/
def State.gradable (s : State) : Nat := s.plan.queue.countP Plate.gradable

theorem gradable_of_queue {s t : State} (h : t.plan.queue = s.plan.queue) : t.gradable = s.gradable := by
  unfold State.gradable
  rw [h]

theorem gradable_of_empty {s : State} (h : s.plan.queue = []) : s.gradable = 0 := by
  unfold State.gradable
  rw [h]
  rfl

theorem gradable_le_length (s : State) : s.gradable ≤ s.plan.queue.length := List.countP_le_length

/-! ### A planning attempt -/

/-- `t` has the Divert Unit of `s`, and as many plates that can be graded. -/
structure PlanningKept (s t : State) : Prop where
  divert : t.divert = s.divert
  gradable : t.gradable = s.gradable

theorem PlanningKept.refl (s : State) : PlanningKept s s := ⟨rfl, rfl⟩

theorem PlanningKept.trans {s t u : State} (a : PlanningKept s t) (b : PlanningKept t u) : PlanningKept s u :=
  ⟨b.divert.trans a.divert, b.gradable.trans a.gradable⟩

theorem NoticeFrame.divert {s t : State} (h : NoticeFrame s t) : t.divert = s.divert := by
  unfold NoticeFrame at h
  rw [h]
  rfl

theorem raise_planningKept (k : CondKind) (lane : Option LaneId) (d1 d2 : Nat) (s : State) :
    PlanningKept s (raise k lane d1 d2 s) :=
  ⟨(raise_frame k lane d1 d2 s).divert, gradable_of_queue (congrArg Planner.queue (raise_plan k lane d1 d2 s))⟩

theorem waitForSchedule_planningKept (s : State) : PlanningKept s (waitForSchedule s) := by
  unfold waitForSchedule
  split
  · exact PlanningKept.refl s
  · exact (raise_planningKept _ _ _ _ s).trans ⟨rfl, rfl⟩

theorem endInWait_planningKept (w : WaitState) (s : State) : PlanningKept s (endInWait w s) := by
  cases w with
  | schedule => exact waitForSchedule_planningKept s
  | none => exact ⟨rfl, rfl⟩
  | horizon => exact ⟨rfl, rfl⟩
  | queue => exact ⟨rfl, rfl⟩

/-- A plate is placed with its trail boundary PLANNED, so it cannot be graded yet (R96). -/
theorem placePlate_planningKept {kind : PlateKind} {spec : Option Nat} {predicted : Grade} {c f : Nat} {late : Bool}
    {s u : State} (h : placePlate kind spec predicted c f late s = some u) : PlanningKept s u := by
  rw [placePlate_some h]
  refine ⟨rfl, ?_⟩
  show (s.plan.queue ++ [newPlate kind spec predicted c late s]).countP Plate.gradable = _
  rw [List.countP_append]
  rfl

theorem commitPlate_planningKept {kind : PlateKind} {spec : Option Nat} {predicted : Grade} {c : Nat} {s u : State}
    (h : commitPlate kind spec predicted c s = some u) : PlanningKept s u := by
  rcases Nat.lt_or_ge s.pos.p (cutFire s.setup c) with onTime | late
  · exact placePlate_planningKept (commitPlate_onTime onTime ▸ h)
  · rw [commitPlate_late late] at h
    obtain ⟨v, hv, rfl⟩ := Option.map_eq_some_iff.1 h
    exact (placePlate_planningKept hv).trans (raise_planningKept _ _ _ _ v)

theorem planLoop_planningKept (n : Nat) (s : State) : PlanningKept s (planLoop n s) := by
  induction n generalizing s with
  | zero => exact PlanningKept.refl s
  | succ n ih =>
    cases step : planStep s with
    | wait w => exact planLoop_wait step ▸ endInWait_planningKept w s
    | nothingMore => exact planLoop_nothingMore step ▸ ⟨rfl, rfl⟩
    | commit kind spec predicted c =>
      cases commit : commitPlate kind spec predicted c s with
      | none => exact planLoop_refused step commit ▸ waitForSchedule_planningKept s
      | some u =>
        have placed := commitPlate_planningKept commit
        by_cases tail : kind = .tail
        · subst tail
          exact planLoop_tail step commit ▸ placed.trans ⟨rfl, rfl⟩
        · exact planLoop_candidate step commit tail ▸ placed.trans (ih u)

theorem takeGradeSwitch_planningKept (s : State) : PlanningKept s (takeGradeSwitch s) := by
  have switched : PlanningKept s (switchGrade s) := by
    have frame : switchGrade s = _ := switchGrade_frame s
    rw [frame]
    exact ⟨rfl, rfl⟩
  unfold takeGradeSwitch
  split
  · exact PlanningKept.refl s
  · exact switched.trans ⟨rfl, rfl⟩

theorem enterStandby_run (s : State) : (enterStandby s).trunk.run = .standby := by
  obtain ⟨-, -, trunk, -⟩ := enterStandby_blocks s
  rw [trunk, abandonBoth_frame s]
  rfl

/-- A stop ends with the plate queue empty, before and after (R101). -/
theorem checkStopEnd_planningKept (s : State) : PlanningKept s (checkStopEnd s) := by
  unfold checkStopEnd
  split
  · next h =>
    simp only [Bool.and_eq_true, beq_iff_eq, List.isEmpty_iff] at h
    obtain ⟨⟨stopping, -⟩, empty⟩ := h
    have stays := (enterStandby_inner s stopping empty).standby (fun _ => empty) (enterStandby_run s)
    obtain ⟨divert, -⟩ := enterStandby_outside s
    exact ⟨divert, gradable_of_queue (stays.trans empty.symm)⟩
  · exact PlanningKept.refl s

theorem planningAttempt_planningKept (s : State) : PlanningKept s (planningAttempt s) := by
  by_cases run : s.trunk.run = .standby
  · rw [planningAttempt_standby run]
    exact PlanningKept.refl s
  · rw [planningAttempt_run run]
    refine (takeGradeSwitch_planningKept s).trans ?_
    split
    · exact checkStopEnd_planningKept _
    · exact (planLoop_planningKept _ _).trans (checkStopEnd_planningKept _)

/-! ### The divert of a graded plate -/

/-- A DIVERT entry takes plates out of the queue, and what the planner adds after it cannot be graded yet. -/
theorem fireDivert_gradable (n : Nat) (s : State) : (fireDivert n s).gradable ≤ s.gradable := by
  unfold fireDivert
  split
  · exact le_rfl
  · exact (planningAttempt_planningKept _).gradable.trans_le (List.Sublist.countP_le List.filter_sublist)

theorem scheduleDivert_gradable (n start : Nat) (s : State) : (scheduleDivert n start s).gradable ≤ s.gradable := by
  unfold scheduleDivert
  dsimp only
  split
  · next held =>
    obtain ⟨rfl, -, -⟩ := insertEntry_held held
    exact le_rfl
  · exact (fireDivert_gradable n _).trans (raise_planningKept _ _ _ _ s).gradable.le
  · unfold beginDivertWait
    dsimp only
    split
    · exact le_rfl
    · exact (raise_planningKept _ _ _ _ s).gradable.le

/-! ### A grading -/

/-- What an evaluation of the plate's actual range finds (R120). -/
def State.evaluated (s : State) (p : Plate) : Evaluation :=
  evaluate (s.store.grade.get p.bank).tables p.actualStart p.actualEnd s

/-- The plate record as its grading writes it (R125, R126). -/
def State.plateGraded (s : State) (p : Plate) : Plate := p.graded (s.store.grade.get p.bank).tables (s.evaluated p)

/-- The PLATE record that the grading hands (R128). -/
def State.plateRecord (s : State) (p : Plate) : Urgent :=
  .plate (s.plateGraded p) ((List.range 16).map (s.evaluated p).tally.classSum)

/-- The record written and the map cleared behind it: what the PLATE record is handed in. -/
def plateWritten (p : Plate) (s : State) : State :=
  removeBehind p.actualEnd (replacePlate (s.plateGraded p) s)

/-- The PLATE record handed and the plate counted into the report (R127, steps 2 and 3). -/
def plateCounted (p : Plate) (s : State) : State :=
  countPlate (s.plateGraded p) (settledGrade p (s.evaluated p)) (s.evaluated p).tally
    (handUrgent (s.plateRecord p) (plateWritten p s)).1

/-- A grading but for its divert (R127, steps 1 to 4). -/
def plateSettled (p : Plate) (s : State) : State :=
  let u := settleGrade (plateCounted p s)
  u.withGrader { u.grader with lastGraded := some p.number }

/-- A grading is its first four steps, its divert, and the condition that a dropped PLATE record raises. -/
theorem gradePlate_eq (p : Plate) (s : State) : gradePlate p s =
    if (handUrgent (s.plateRecord p) (plateWritten p s)).2 then
      raiseOverrun (s.plateRecord p) (scheduleDivert p.number p.actualStart (plateSettled p s))
    else scheduleDivert p.number p.actualStart (plateSettled p s) := rfl

@[simp] theorem settleGrade_plan (s : State) : (settleGrade s).plan = s.plan := by
  unfold settleGrade
  split
  · split <;> rfl
  · rfl

@[simp] theorem removeBehind_plan (a : Nat) (s : State) : (removeBehind a s).plan = s.plan := by
  unfold removeBehind
  dsimp only
  split
  · rfl
  · split <;> rfl

theorem plateSettled_plan (p : Plate) (s : State) :
    (plateSettled p s).plan = (replacePlate (s.plateGraded p) s).plan := by
  unfold plateSettled
  rw [State.withGrader_plan, settleGrade_plan]
  exact (handUrgent_plan _ _).trans (removeBehind_plan _ _)

/-- A plate of the queue, or the record that replaces it by its number. -/
def Plate.replacing (q y : Plate) : Plate := if y.number = q.number then q else y

theorem replacePlate_plan (q : Plate) (s : State) :
    (replacePlate q s).plan = { s.plan with queue := s.plan.queue.map q.replacing } := by
  unfold replacePlate Plate.replacing
  simp only [beq_iff_eq, State.withPlan_plan]

theorem Plate.gradable_of_replacing {q y : Plate} (graded : q.gradable = false) (h : (q.replacing y).gradable = true) :
    y.gradable = true := by
  unfold Plate.replacing at h
  split at h
  · exact absurd (graded.symm.trans h) Bool.false_ne_true
  · exact h

/-- A plate of the queue replaced by its graded record leaves fewer that can be graded. -/
theorem replacePlate_gradable {p q : Plate} {s : State} (mem : p ∈ s.plan.queue) (can : p.gradable = true)
    (number : p.number = q.number) (graded : q.gradable = false) : (replacePlate q s).gradable < s.gradable := by
  have replaced_le (l : List Plate) : (l.map q.replacing).countP Plate.gradable ≤ l.countP Plate.gradable := by
    rw [List.countP_map]
    exact List.countP_mono_left fun y _ => Plate.gradable_of_replacing graded
  have replaced_self : q.replacing p = q := if_pos number
  obtain ⟨pre, post, split⟩ := List.append_of_mem mem
  have before := replaced_le pre
  have after := replaced_le post
  unfold State.gradable
  rw [replacePlate_plan, split, List.map_append, List.map_cons, replaced_self, List.countP_append, List.countP_append,
    List.countP_cons, List.countP_cons, can, graded, if_pos rfl, if_neg Bool.false_ne_true]
  omega

theorem gradePlate_gradable {p : Plate} {s : State} (mem : p ∈ s.plan.queue) (can : p.gradable = true) :
    (gradePlate p s).gradable < s.gradable := by
  have settled : (plateSettled p s).gradable < s.gradable :=
    (gradable_of_queue (congrArg Planner.queue (plateSettled_plan p s))).trans_lt
      (replacePlate_gradable mem can rfl rfl)
  have scheduled := (scheduleDivert_gradable p.number p.actualStart (plateSettled p s)).trans_lt settled
  rw [gradePlate_eq]
  split
  · exact (raise_planningKept _ _ _ _ _).gradable.trans_lt scheduled
  · exact scheduled

end Sys2Proof.Machine
end

section
/-! The Grader's test (R119): when it grades, and that its bound never cuts it short. -/

namespace Sys2Proof.Machine

theorem BoundaryStatus.resolved_iff (st : BoundaryStatus) : st.resolved = true ↔
    st = .confirmed ∨ st = .deviated ∨ st = .missed ∨ st = .skipped := by
  cases st <;> simp [BoundaryStatus.resolved]

/-- The plate is at the grading point, with both boundaries resolved and no divert wait (R119). -/
structure State.Grades (s : State) (p : Plate) : Prop where
  point : gradingPoint s = some p
  lead : p.leadStatus.resolved = true
  trail : p.trailStatus.resolved = true
  noWait : s.grader.wait = none

theorem State.Grades.mem {s : State} {p : Plate} (h : s.Grades p) : p ∈ s.plan.queue := List.mem_of_find?_eq_some h.point

theorem State.Grades.gradable {s : State} {p : Plate} (h : s.Grades p) : p.gradable = true :=
  Bool.and_eq_true_iff.2 ⟨List.find?_some (p := fun q : Plate => q.finalGrade.isNone) h.point, h.trail⟩

theorem State.Grades.gradable_pos {s : State} {p : Plate} (h : s.Grades p) : 0 < s.gradable :=
  List.countP_pos_iff.2 ⟨p, h.mem, h.gradable⟩

theorem gradeLoop_idle {s : State} (h : ∀ p, ¬s.Grades p) (n : Nat) : gradeLoop n s = s := by
  cases n with
  | zero => rfl
  | succ n =>
    unfold gradeLoop
    split
    · rfl
    · next p point =>
      refine if_neg fun ready => h p ?_
      simp only [Bool.and_eq_true, Option.isNone_iff_eq_none] at ready
      obtain ⟨⟨lead, trail⟩, noWait⟩ := ready
      exact ⟨point, lead, trail, noWait⟩

theorem gradeLoop_grades {s : State} {p : Plate} (h : s.Grades p) (n : Nat) :
    gradeLoop (n + 1) s = gradeLoop n (gradePlate p s) := by
  obtain ⟨point, lead, trail, noWait⟩ := h
  rw [gradeLoop, point]
  exact if_pos (by rw [lead, trail, noWait]; rfl)

/-- Rounds enough: each grading leaves fewer plates that can be graded. -/
theorem gradeLoop_enough {n m : Nat} {s : State} (hn : s.gradable ≤ n) (hm : s.gradable ≤ m) :
    gradeLoop n s = gradeLoop m s := by
  induction n generalizing m s with
  | zero =>
    have idle : ∀ p, ¬s.Grades p := fun p h => Nat.not_lt.2 hn h.gradable_pos
    rw [gradeLoop_idle idle, gradeLoop_idle idle]
  | succ n ih =>
    by_cases grades : ∃ p, s.Grades p
    · obtain ⟨p, h⟩ := grades
      have fewer := gradePlate_gradable h.mem h.gradable
      obtain ⟨m, rfl⟩ := Nat.exists_eq_add_one_of_ne_zero (Nat.ne_of_gt (h.gradable_pos.trans_le hm))
      rw [gradeLoop_grades h, gradeLoop_grades h]
      exact ih (by omega) (by omega)
    · have idle := not_exists.1 grades
      rw [gradeLoop_idle idle, gradeLoop_idle idle]

theorem gradeTest_idle {s : State} (h : ∀ p, ¬s.Grades p) : gradeTest s = s := gradeLoop_idle h _

/-- The test made again after each grading (R119). -/
theorem gradeTest_grades {s : State} {p : Plate} (h : s.Grades p) : gradeTest s = gradeTest (gradePlate p s) := by
  have fewer := gradePlate_gradable h.mem h.gradable
  calc gradeTest s = gradeLoop (s.gradable + 1) s :=
        gradeLoop_enough (gradable_le_length s) (Nat.le_succ _)
    _ = gradeLoop s.gradable (gradePlate p s) := gradeLoop_grades h _
    _ = gradeTest (gradePlate p s) := gradeLoop_enough fewer.le (gradable_le_length _)

theorem gradingPoint_none {s : State} (h : ∀ p ∈ s.plan.queue, p.finalGrade ≠ none) : gradingPoint s = none :=
  List.find?_eq_none.2 fun p mem isNone => h p mem (Option.isNone_iff_eq_none.1 isNone)

theorem gradingPoint_eq {s : State} {pre post : List Plate} {p : Plate} (queue : s.plan.queue = pre ++ p :: post)
    (older : ∀ q ∈ pre, q.finalGrade ≠ none) (ungraded : p.finalGrade = none) : gradingPoint s = some p := by
  refine List.find?_eq_some_iff_append.2 ⟨Option.isNone_iff_eq_none.2 ungraded, pre, post, queue, fun q mem => ?_⟩
  rw [Bool.not_eq_true', Option.isNone_eq_false_iff, Option.isSome_iff_ne_none]
  exact older q mem

/-- Settles O39: no plate at the grading point, a plate there that must wait, and one that is graded. -/
theorem graderTest : Obligations.GraderTest := by
  unfold Obligations.GraderTest
  intro s resolved
  refine ⟨fun all => gradeTest_idle fun p h => ?_, fun pre p post queue older ungraded => ?_⟩
  · exact nomatch (gradingPoint_none all).symm.trans h.point
  · have point := gradingPoint_eq queue older ungraded
    refine ⟨fun waits => gradeTest_idle fun q h => ?_, fun lead trail noWait => ?_⟩
    · obtain rfl : p = q := Option.some.inj (point.symm.trans h.point)
      rcases waits with lead | trail | wait
      · exact lead ((BoundaryStatus.resolved_iff _).1 h.lead)
      · exact trail ((BoundaryStatus.resolved_iff _).1 h.trail)
      · exact wait h.noWait
    · exact ⟨gradeTest_grades ⟨point, (BoundaryStatus.resolved_iff _).2 lead, (BoundaryStatus.resolved_iff _).2 trail,
        noWait⟩, point⟩

end Sys2Proof.Machine
end

section
/-! The blocks after a grading: the flaw map behind it, the bound bank, and what the other blocks take (R127 to R129, R141). -/

namespace Sys2Proof.Machine

/-! ### The map behind a graded plate (R78, R79) -/

theorem MapRecord.kept_flaw (a : Nat) (r : FlawRecord) : (!(MapRecord.flaw r).behind a) = decide (a ≤ r.trail) :=
  decide_not.symm.trans (decide_eq_decide.2 Nat.not_lt)

theorem MapRecord.kept_gap (a : Nat) (i : LaneId) (start stop : Nat) :
    (!(MapRecord.gap i start (some stop)).behind a) = decide (a ≤ stop) :=
  decide_not.symm.trans (decide_eq_decide.2 Nat.not_lt)

/-- The overflow mark lies behind the position: no lane is open in it, and it ends below. -/
def OverflowMark.behind (a : Nat) (m : OverflowMark) : Bool := m.noOpenLanes && decide (m.hi < a)

theorem OverflowMark.behind_iff (a : Nat) (m : OverflowMark) :
    m.behind a = true ↔ (∀ i, m.openLanes.get i = false) ∧ m.hi < a := by
  have noOpen : m.noOpenLanes = true ↔ ∀ i, m.openLanes.get i = false := by
    rw [← Bool.not_eq_false, OverflowMark.noOpenLanes_eq_false_iff, not_exists]
    simp only [Bool.not_eq_true]
  unfold OverflowMark.behind
  rw [Bool.and_eq_true, noOpen, decide_eq_true_eq]

theorem OverflowMark.filter_behind (a : Nat) (m : OverflowMark) : (some m).filter (fun x => !x.behind a) =
    if (∀ i, m.openLanes.get i = false) ∧ m.hi < a then none else some m := by
  simp only [← OverflowMark.behind_iff]
  rw [Option.filter_some]
  cases m.behind a <;> rfl

theorem removeBehind_eq (a : Nat) (s : State) : removeBehind a s = s.withMap { s.map with
    records := s.map.records.filter fun y => !y.behind a
    mark := s.map.mark.filter fun m => !m.behind a } := by
  unfold removeBehind
  dsimp only
  split
  · next absent =>
    have absent : s.map.mark = none := absent
    rw [absent, Option.filter_none, ← absent]
    rfl
  · next m found =>
    have found : s.map.mark = some m := found
    rw [found, Option.filter_some]
    show (if m.behind a = true then _ else _) = _
    by_cases gone : m.behind a = true
    · rw [if_pos gone, gone]
      rfl
    · rw [if_neg gone, Bool.eq_false_iff.2 gone, ← found]
      rfl

/-! ### The bank that the plate was bound to (R141) -/

theorem settleGrade_frame (s : State) : settleGrade s = s.withGrade (settleGrade s).store.grade := by
  unfold settleGrade
  split
  · split <;> rfl
  · rfl

theorem setState_get_other {α : Type} (g : Group α) {a b : BankId} (h : b ≠ a) (st : BankState) :
    (g.setState a st).get b = g.get b := by
  revert h
  fin_cases a <;> fin_cases b <;> intro h
  · exact absurd rfl h
  · rfl
  · rfl
  · exact absurd rfl h

theorem setState_get_self {α : Type} (g : Group α) (b : BankId) (st : BankState) :
    (g.setState b st).get b = { g.get b with state := st } := by
  fin_cases b <;> rfl

theorem gradeBindings_eq_zero_iff (s : State) (b : BankId) :
    gradeBindings s b = 0 ↔ ∀ y ∈ s.plan.queue, y.bank = b → y.finalGrade ≠ none := by
  unfold gradeBindings
  rw [List.countP_eq_zero]
  simp

section
variable {s : State} {b : BankId}

theorem settleGrade_other (h : (s.store.grade.get b).state ≠ .retiring) :
    (settleGrade s).store.grade.get b = s.store.grade.get b := by
  unfold settleGrade
  split
  · next a found =>
    split
    · refine setState_get_other _ ?_ _
      rintro rfl
      exact h (find_state found)
    · rfl
  · rfl

variable (retiring : (s.store.grade.get b).state = .retiring)
  (alone : (s.store.grade.get (otherBank b)).state ≠ .retiring)
include retiring alone

theorem settleGrade_bound (h : ∃ y ∈ s.plan.queue, y.bank = b ∧ y.finalGrade = none) : settleGrade s = s := by
  have bound : ¬gradeBindings s b = 0 := fun zero =>
    let ⟨y, mem, bank, ungraded⟩ := h
    (gradeBindings_eq_zero_iff s b).1 zero y mem bank ungraded
  unfold settleGrade
  rw [find_eq_some retiring alone]
  exact if_neg (by simpa using bound)

theorem settleGrade_released (h : ∀ y ∈ s.plan.queue, y.bank = b → y.finalGrade ≠ none) :
    (settleGrade s).store.grade.get b = { s.store.grade.get b with state := .loaded } := by
  have released : settleGrade s = s.withGrade (s.store.grade.setState b .loaded) := by
    unfold settleGrade
    rw [find_eq_some retiring alone]
    exact if_pos (beq_iff_eq.2 ((gradeBindings_eq_zero_iff s b).2 h))
  rw [released]
  exact setState_get_self _ _ _

end

/-! ### The blocks after a grading -/

section
variable (p : Plate) {s : State} (room : hasRoom s)
include room

theorem plateWritten_room : hasRoom (plateWritten p s) := by
  refine (hasRoom_of_trunk ?_).2 room
  unfold plateWritten
  rw [removeBehind_eq]
  rfl

/-- The steps before the binding's release change the queue, the map, the urgent queue and the report. -/
theorem plateCounted_eq : plateCounted p s = (((s.withPlan (replacePlate (s.plateGraded p) s).plan).withMap
    (removeBehind p.actualEnd s).map).withTrunk { s.trunk with urgent := s.trunk.urgent ++ [s.plateRecord p] }).withReport
    (countPlate (s.plateGraded p) (settledGrade p (s.evaluated p)) (s.evaluated p).tally s).report := by
  have written : plateWritten p s =
      (s.withPlan (replacePlate (s.plateGraded p) s).plan).withMap (removeBehind p.actualEnd s).map := by
    unfold plateWritten
    rw [removeBehind_eq, removeBehind_eq]
    rfl
  unfold plateCounted
  rw [handUrgent_room (plateWritten_room p room), written]
  rfl

/-- The blocks after a grading with room for its PLATE record, its divert not yet scheduled. -/
theorem plateSettled_blocks :
    (plateSettled p s).map = (removeBehind p.actualEnd s).map ∧
    (plateSettled p s).trunk = { s.trunk with urgent := s.trunk.urgent ++ [s.plateRecord p] } ∧
    (plateSettled p s).report =
      (countPlate (s.plateGraded p) (settledGrade p (s.evaluated p)) (s.evaluated p).tally s).report ∧
    (plateSettled p s).grader = { s.grader with lastGraded := some p.number } ∧
    (plateSettled p s).divert = s.divert ∧ (plateSettled p s).pos = s.pos ∧ (plateSettled p s).cutter = s.cutter ∧
    (plateSettled p s).lanes = s.lanes ∧ (plateSettled p s).cond = s.cond ∧ (plateSettled p s).outputs = s.outputs ∧
    (plateSettled p s).store = { s.store with grade := (plateSettled p s).store.grade } := by
  unfold plateSettled
  rw [settleGrade_frame]
  generalize (settleGrade (plateCounted p s)).store.grade = g
  rw [plateCounted_eq p room]
  generalize (countPlate _ _ _ s).report = report
  generalize (replacePlate _ s).plan = plan
  generalize (removeBehind _ s).map = map
  exact ⟨rfl, rfl, rfl, rfl, rfl, rfl, rfl, rfl, rfl, rfl, rfl⟩

/-- The banks of the GRADE group after a grading: a RETIRING one is LOADED where no ungraded plate is bound to it. -/
theorem plateSettled_banks (b : BankId) :
    ((s.store.grade.get b).state ≠ .retiring → (plateSettled p s).store.grade.get b = s.store.grade.get b) ∧
    ((s.store.grade.get b).state = .retiring → (s.store.grade.get (otherBank b)).state ≠ .retiring →
      ((∃ y ∈ (plateSettled p s).plan.queue, y.bank = b ∧ y.finalGrade = none) →
        (plateSettled p s).store.grade.get b = s.store.grade.get b) ∧
      ((∀ y ∈ (plateSettled p s).plan.queue, y.bank = b → y.finalGrade ≠ none) →
        (plateSettled p s).store.grade.get b = { s.store.grade.get b with state := .loaded })) := by
  have store : (plateCounted p s).store = s.store := by rw [plateCounted_eq p room]; rfl
  have plan : (plateSettled p s).plan = (plateCounted p s).plan := settleGrade_plan _
  have grade : (plateSettled p s).store.grade = (settleGrade (plateCounted p s)).store.grade := rfl
  rw [plan, grade, ← store]
  exact ⟨settleGrade_other, fun retiring alone =>
    ⟨fun bound => by rw [settleGrade_bound retiring alone bound], settleGrade_released retiring alone⟩⟩

/-- A grading whose PLATE record finds room ends with its divert. -/
theorem gradePlate_room : gradePlate p s = scheduleDivert p.number p.actualStart (plateSettled p s) := by
  rw [gradePlate_eq, handUrgent_room (plateWritten_room p room)]
  exact if_neg Bool.false_ne_true

end

/-- With room for two records, one is left after the PLATE record. -/
theorem plateSettled_room (p : Plate) {s : State} (rooms : s.trunk.urgent.length + 2 ≤ Config.urgentSlots) :
    hasRoom (plateSettled p s) := by
  obtain ⟨-, trunk, -⟩ := plateSettled_blocks p (Nat.lt_of_succ_lt rooms : hasRoom s)
  have length : (plateSettled p s).trunk.urgent.length = s.trunk.urgent.length + 1 := by
    rw [trunk]
    exact List.length_append
  exact length.trans_lt rooms

end Sys2Proof.Machine
end

section
/-! A graded plate's divert: placed, waiting or late; its retry; and the entry that fires (R113, R114, R130). -/

namespace Sys2Proof.Machine

theorem divertPosition_eq (start : Nat) (s : State) : divertPosition start s =
    max ((start : Int) + s.setup.dDiv - s.setup.divertLead)
      (s.divert.last.getD ((start : Int) + s.setup.dDiv - s.setup.divertLead)) := by
  unfold divertPosition
  cases s.divert.last with
  | none => exact (max_self _).symm
  | some last => rfl

/-- A late divert with room for its notice: DIVERT_LATE, the last divert position, and the entry fires. -/
theorem divertAtOnce_raised {s : State} (n : Nat) (f : Int) (room : hasRoom s) :
    ∃ v, Raised .divertLate none n (low32Int f) s v ∧
      divertAtOnce n f s = fireDivert n (v.withDivert { s.divert with last := some f }) := by
  have raised := raise_room .divertLate none n (low32Int f) room
  refine ⟨_, raised, ?_⟩
  have same : (raise .divertLate none n (low32Int f) s).divert = s.divert := (raise_frame _ _ _ _ s).divert
  unfold divertAtOnce setLastDivert
  rw [same]

/-! ### Scheduling (R113, R130) -/

section
variable {s : State} {n start : Nat} {f : Int} (at_f : divertPosition start s = f)
include at_f

theorem scheduleDivert_held (above : (s.pos.p : Int) < f) (room : s.pos.schedule.length ≤ 62) :
    scheduleDivert n start s = (s.withPos { s.pos with
      schedule := placeEntry ⟨f.toNat, .divert, n⟩ s.pos.schedule }).withDivert { s.divert with last := some f } := by
  have held := insertEntry_room (e := ⟨f.toNat, .divert, n⟩) (s := s) (Int.lt_toNat.2 above) (decide_eq_true room)
  unfold scheduleDivert
  dsimp only
  rw [at_f, held]
  rfl

theorem scheduleDivert_waits (above : (s.pos.p : Int) < f) (full : 62 < s.pos.schedule.length) :
    scheduleDivert n start s = beginDivertWait n f.toNat s := by
  have refused := insertEntry_refused (e := ⟨f.toNat, .divert, n⟩) (s := s) (Int.lt_toNat.2 above)
    (decide_eq_false (Nat.not_le.2 full))
  unfold scheduleDivert
  dsimp only
  rw [at_f, refused]

theorem scheduleDivert_late (due : f ≤ (s.pos.p : Int)) : scheduleDivert n start s = divertAtOnce n f s := by
  have late := insertEntry_due (e := ⟨f.toNat, .divert, n⟩) (s := s) (Int.toNat_le.2 due)
  unfold scheduleDivert
  dsimp only
  rw [at_f, late]

end

theorem beginDivertWait_reported {s : State} (n f : Nat) (h : s.grader.waitReported = true) :
    beginDivertWait n f s = s.withGrader { s.grader with wait := some ⟨n, f⟩ } := by
  unfold beginDivertWait
  simp only [h, if_true]

/-- A wait that has not been reported raises SCHEDULE_FULL once (R130). -/
theorem beginDivertWait_raised {s : State} (n f : Nat) (h : s.grader.waitReported = false) (room : hasRoom s) :
    ∃ v, Raised .scheduleFull none n (low32 f) s v ∧
      beginDivertWait n f s = v.withGrader { s.grader with wait := some ⟨n, f⟩, waitReported := true } := by
  have raised := raise_room .scheduleFull none n (low32 f) room
  refine ⟨_, raised, ?_⟩
  have same : (raise .scheduleFull none n (low32 f) s).grader = s.grader := by rw [raised.rest]; rfl
  unfold beginDivertWait
  simp only [h, Bool.false_eq_true, if_false]
  rw [same]

/-! ### The retry (R130) -/

theorem retryDivert_none {s : State} (h : s.grader.wait = none) : retryDivert s = s := by
  unfold retryDivert
  rw [h]

section
variable {s : State} {w : DivertWait} (waiting : s.grader.wait = some w)
include waiting

theorem retryDivert_refused (above : s.pos.p < w.fire) (full : 62 < s.pos.schedule.length) : retryDivert s = s := by
  have refused := insertEntry_refused (e := ⟨w.fire, .divert, w.plate⟩) above (decide_eq_false (Nat.not_le.2 full))
  unfold retryDivert
  rw [waiting]
  dsimp only
  rw [refused]

theorem retryDivert_held (above : s.pos.p < w.fire) (room : s.pos.schedule.length ≤ 62) :
    retryDivert s = gradeTest (((endDivertWait s).withPos { s.pos with
      schedule := placeEntry ⟨w.fire, .divert, w.plate⟩ s.pos.schedule }).withDivert
      { s.divert with last := some (w.fire : Int) }) := by
  have held := insertEntry_room (e := ⟨w.fire, .divert, w.plate⟩) above (decide_eq_true room)
  unfold retryDivert
  rw [waiting]
  dsimp only
  rw [held]
  rfl

theorem retryDivert_late (due : w.fire ≤ s.pos.p) :
    retryDivert s = gradeTest (divertAtOnce w.plate w.fire (endDivertWait s)) := by
  have late := insertEntry_due (e := ⟨w.fire, .divert, w.plate⟩) due
  unfold retryDivert
  rw [waiting]
  dsimp only
  rw [late]

end

/-! ### The entry fires (R114) -/

/-- The gate takes the oldest plate's destination, and the plate leaves the queue. -/
theorem fireDivert_oldest {s : State} {p : Plate} {rest : List Plate} {d : Destination}
    (queue : s.plan.queue = p :: rest) (others : ∀ q ∈ rest, q.number ≠ p.number) (destined : p.destination = some d) :
    fireDivert p.number s =
      planningAttempt ((s.withDivert { s.divert with gate := d }).withPlan { s.plan with queue := rest }) := by
  have found : (s.plan.queue.find? fun q => q.number == p.number) = some p := by
    rw [queue]
    exact List.find?_cons_of_pos (beq_self_eq_true _)
  have left : (s.plan.queue.filter fun q => q.number != p.number) = rest := by
    rw [queue, List.filter_cons_of_neg (by simp)]
    exact List.filter_eq_self.2 fun q mem => bne_iff_ne.2 (others q mem)
  unfold fireDivert
  rw [found]
  dsimp only
  rw [destined, State.withDivert_plan, left]
  rfl

theorem fireDivert_gate {s : State} {p : Plate} {rest : List Plate} {d : Destination}
    (queue : s.plan.queue = p :: rest) (others : ∀ q ∈ rest, q.number ≠ p.number) (destined : p.destination = some d) :
    (fireDivert p.number s).divert.gate = d := by
  rw [fireDivert_oldest queue others destined, (planningAttempt_planningKept _).divert]
  rfl

/-- Settles O40: the blocks after a grading and its divert by case, then the retry by case and the entry that fires. -/
theorem gradingAndDivert : Obligations.GradingAndDivert := by
  unfold Obligations.GradingAndDivert
  refine ⟨fun p s room => ?_, fun w s waiting => ?_, fun s => retryDivert_none, fun p rest d s queue others destined =>
    ⟨fireDivert_oldest queue others destined, fireDivert_gate queue others destined⟩⟩
  · intro tables e g q own f four old mark t twoRooms
    obtain ⟨map, trunk, report, grader, divert, pos, cutter, lanes, cond, outputs, store⟩ := plateSettled_blocks p room
    have banks := plateSettled_banks p room
    have graded : t = scheduleDivert p.number p.actualStart (plateSettled p s) := gradePlate_room p room
    have at_f : divertPosition p.actualStart (plateSettled p s) = f := by
      rw [divertPosition_eq, divert, State.setup, store]
    refine ⟨plateSettled p s, ?_, ?_, trunk, report, grader, divert, pos, cutter, lanes, cond, outputs, store,
      fun b => (banks b).1, fun b => (banks b).2, ?_, ?_, ?_, ?_⟩
    · exact (plateSettled_plan p s).trans (replacePlate_plan _ s)
    · rw [map, removeBehind_eq]
      refine congrArg₂ (fun m rs => ({ s.map with mark := m, records := rs } : FlawMap)) ?_
        (List.filter_congr fun y _ => ?_)
      · dsimp only [mark]
        split
        · next absent => rw [absent, Option.filter_none]
        · next m found => rw [found, OverflowMark.filter_behind]
      · cases y with
        | flaw r => exact MapRecord.kept_flaw _ r
        | gap i start stop =>
          cases stop with
          | none => rfl
          | some stop => exact MapRecord.kept_gap _ i start stop
    · intro above held
      rw [graded, ← pos, ← divert]
      exact scheduleDivert_held at_f (pos ▸ above) (pos ▸ held)
    · intro above full reported
      rw [graded, scheduleDivert_waits at_f (pos ▸ above) (pos ▸ full)]
      exact beginDivertWait_reported _ _ (by rw [grader]; exact reported)
    · intro above full unreported rooms
      rw [graded, scheduleDivert_waits at_f (pos ▸ above) (pos ▸ full)]
      exact beginDivertWait_raised _ _ (by rw [grader]; exact unreported) (plateSettled_room p rooms)
    · intro due rooms
      rw [graded, scheduleDivert_late at_f (pos ▸ due), ← divert]
      exact divertAtOnce_raised _ _ (plateSettled_room p rooms)
  · intro resumed
    refine ⟨retryDivert_refused waiting, retryDivert_held waiting, fun due room => ?_⟩
    obtain ⟨v, raised, fires⟩ := divertAtOnce_raised (s := resumed) w.plate w.fire room
    rw [low32Int_ofNat] at raised
    exact ⟨v, raised, (retryDivert_late waiting due).trans (congrArg gradeTest fires)⟩

end Sys2Proof.Machine
end

section
/-! The setup parameters: their codes, and the values a write stores (9.7, R142, R148). -/

namespace Sys2Proof.Machine

/-! ### A bit held at 0 (R148) -/

/-- Above a set bit, taking its weight away changes nothing: nothing is borrowed. -/
theorem sub_two_pow_div {i v : Nat} (h : v.testBit i = true) : (v - 2 ^ i) / 2 ^ (i + 1) = v / 2 ^ (i + 1) := by
  obtain ⟨x, rfl⟩ := Nat.exists_eq_add_of_le (Nat.ge_two_pow_of_testBit h)
  have even : ¬x / 2 ^ i % 2 = 1 := by
    rw [Nat.testBit_two_pow_add_eq, Nat.testBit_eq_decide_div_mod_eq] at h
    simpa using h
  rw [Nat.add_sub_cancel_left, pow_succ, ← Nat.div_div_eq_div_mul, ← Nat.div_div_eq_div_mul,
    Nat.add_div_left _ (Nat.two_pow_pos i)]
  omega

theorem testBit_clearBit (i v j : Nat) : (clearBit i v).testBit j = (v.testBit j && j != i) := by
  unfold clearBit
  by_cases h : v.testBit i = true
  · rw [if_pos h]
    rcases lt_trichotomy j i with below | rfl | above
    · obtain ⟨x, rfl⟩ := Nat.exists_eq_add_of_le (Nat.ge_two_pow_of_testBit h)
      rw [Nat.add_sub_cancel_left, Nat.testBit_two_pow_add_gt below]
      simp [below.ne]
    · obtain ⟨x, rfl⟩ := Nat.exists_eq_add_of_le (Nat.ge_two_pow_of_testBit h)
      rw [Nat.testBit_two_pow_add_eq] at h
      simpa using h
    · obtain ⟨k, rfl⟩ := Nat.exists_eq_add_of_le (Nat.succ_le_of_lt above)
      have shifted : ∀ w : Nat, w.testBit (i.succ + k) = (w / 2 ^ (i + 1)).testBit k := fun w => by
        rw [Nat.testBit_div_two_pow, Nat.add_comm]
      rw [shifted, shifted, sub_two_pow_div h]
      simp [above.ne']
  · rw [if_neg h]
    by_cases hj : j = i
    · subst hj
      simp [h]
    · simp [hj]

/-! ### Stored values (9.7) -/

theorem Param.low_le_high (p : Param) : p.low ≤ p.high := by cases p <;> decide

/-- A parameter that is no mask is stored clamped to its range (R142). -/
theorem Param.stored_eq_clampTo {p : Param} (hg : p ≠ .delegGantry) (hl : p ≠ .delegLocal) (v : Nat) :
    p.stored v = clampTo p.low p.high v := by
  cases p with
  | delegGantry => exact absurd rfl hg
  | delegLocal => exact absurd rfl hl
  | _ => rfl

/-- A stored mask's bits: those of the clamped value, but for the held ones (R148). -/
theorem Param.stored_delegGantry_testBit (v i : Nat) :
    (Param.delegGantry.stored v).testBit i = ((min v (2 ^ 17 - 1)).testBit i && i != 15) := by
  have e : Param.delegGantry.stored v = clearBit 15 (max 0 (min (2 ^ 17 - 1) v)) := rfl
  rw [e, testBit_clearBit, Nat.zero_max, min_comm]

theorem Param.stored_delegLocal_testBit (v i : Nat) :
    (Param.delegLocal.stored v).testBit i = ((min v (2 ^ 17 - 1)).testBit i && (i != 15 && i != 6)) := by
  have e : Param.delegLocal.stored v = clearBit 15 (clearBit 6 (max 0 (min (2 ^ 17 - 1) v))) := rfl
  rw [e, testBit_clearBit, testBit_clearBit, Nat.zero_max, min_comm, Bool.and_assoc, Bool.and_comm (_ != 6)]

/-- The table of 9.7: each parameter at the place of its code, with the bytes of its value and its range. -/
def paramTable : List (Param × Nat × Nat × Nat) :=
  [(.countNm, 3, 1000, 1000000), (.linePitch, 1, 1, 255),
    (.startOffset, 3, 0, 1048575), (.dCut, 4, 1, 2 ^ 32 - 1), (.cutLead, 2, 0, 65535), (.confirmWindow, 2, 1, 65535),
    (.cutTolerance, 2, 0, 65535), (.dDiv, 4, 1, 2 ^ 32 - 1), (.divertLead, 2, 0, 65535), (.netLo, 4, 0, 2 ^ 32 - 1),
    (.netHi, 4, 0, 2 ^ 32 - 1), (.stallMs, 2, 10, 65535), (.silentMs, 2, 1, 65535), (.reseedMs, 2, 1, 65535),
    (.shiftPeriodS, 2, 0, 65535), (.delegGantry, 3, 0, 2 ^ 17 - 1), (.delegLocal, 3, 0, 2 ^ 17 - 1)]

theorem Param.ofCode?_eq (k : Nat) : Param.ofCode? k = paramTable[k]?.map Prod.fst := by
  by_cases h : k < 17
  · interval_cases k <;> rfl
  · obtain ⟨n, rfl⟩ := Nat.exists_eq_add_of_le' (Nat.le_of_not_lt h)
    rfl

theorem paramTable_rows : ∀ x ∈ paramTable, x.1.width = x.2.1 ∧ x.1.low = x.2.2.1 ∧ x.1.high = x.2.2.2 := by
  decide

/-- Settles O16: the clamping, the masks' bits, and the table row by row. -/
theorem storedValues : Obligations.StoredValues := by
  unfold Obligations.StoredValues
  have masks := fun v i => And.intro (Param.stored_delegGantry_testBit v i) (Param.stored_delegLocal_testBit v i)
  refine ⟨⟨fun p v hg hl => ?_, masks⟩,
    fun k => ⟨Param.ofCode?_eq k, fun p bytes low high hrow => paramTable_rows _ (List.mem_of_getElem? hrow)⟩⟩
  have ordered := p.low_le_high
  rw [Param.stored_eq_clampTo hg hl]
  unfold clampTo
  omega

end Sys2Proof.Machine
end

section
/-! What changes the setup parameters and the output controls, and the laws of the banks and the masks through every command
and step (R115, R116, R132, R139, R142, R148). -/

namespace Sys2Proof.Machine

/-! ### The commands that leave the setup and the output controls alone -/

/-- The setup parameters and the output controls are the same. -/
structure SettingsKept (s t : State) : Prop where
  setup : t.setup = s.setup
  outputs : t.outputs = s.outputs

theorem SettingsKept.trans {s t u : State} (a : SettingsKept s t) (b : SettingsKept t u) : SettingsKept s u :=
  ⟨b.setup.trans a.setup, b.outputs.trans a.outputs⟩

theorem SettingsKept.lanes (s : State) (x : PerLane Lane) : SettingsKept s (s.withLanes x) := ⟨rfl, rfl⟩
theorem SettingsKept.map (s : State) (x : FlawMap) : SettingsKept s (s.withMap x) := ⟨rfl, rfl⟩
theorem SettingsKept.trunk (s : State) (x : Trunk) : SettingsKept s (s.withTrunk x) := ⟨rfl, rfl⟩

theorem Inner.settingsKept {s t : State} (h : Inner s t) : SettingsKept s t := ⟨h.setup, h.outputs⟩

theorem Plain.settingsKept {s t : State} (h : Plain s t) : SettingsKept s t := ⟨h.setup, h.outputs⟩

theorem AfterTake.settingsKept {u t : State} (h : AfterTake u t) : SettingsKept u t :=
  ⟨congrArg TableStore.setup h.blocks.store, h.blocks.outputs⟩

/-- A request answered, and the take. -/
theorem respond_settingsKept {tag kind : Byte} {args body : List Byte} {st : Status} {u t : State}
    (ht : respond tag kind args st body u = .next t) : SettingsKept u t := by
  rw [next_of_done ht]
  exact (answer_plain _ _ _ u).settingsKept.trans (arbiter_afterTake _).settingsKept

theorem startRun_settingsKept (s : State) : SettingsKept s (startRun s) := by
  unfold startRun
  dsimp only
  refine SettingsKept.trans ?_ (planningAttempt_inner _).settingsKept
  refine SettingsKept.trans ?_ (recomputeH_inner _).settingsKept
  refine SettingsKept.trans ?_ (SettingsKept.trunk _ _)
  refine SettingsKept.trans ?_ (Inner.foldl (startLane_inner _) _ _).settingsKept
  refine SettingsKept.trans ?_ (insertStartCut_inner _ _).settingsKept
  refine SettingsKept.trans ?_ (startPlanner_inner _ _).settingsKept
  refine SettingsKept.trans ?_ (Inner.divert _ _).settingsKept
  refine SettingsKept.trans ?_ (settleDetect_inner _).settingsKept
  exact (SettingsKept.lanes _ _).trans (SettingsKept.map _ _)

theorem stopRun_settingsKept (s : State) : SettingsKept s (stopRun s).1 := by
  have lanes := (stopLanes_inner s).settingsKept
  unfold stopRun
  dsimp only
  refine SettingsKept.trans ?_ (planningAttempt_inner _).settingsKept
  exact lanes.trans ((SettingsKept.map _ _).trans (SettingsKept.trunk _ _))

theorem runStart_settingsKept {tag : Byte} {args : List Byte} {s t : State} (ht : execRunStart tag args s = .next t) :
    SettingsKept s t := by
  unfold execRunStart at ht
  split at ht
  · exact respond_settingsKept ht
  · split at ht
    · exact respond_settingsKept ht
    · split at ht
      · exact respond_settingsKept ht
      · exact (startRun_settingsKept s).trans (respond_settingsKept ht)

theorem runStop_settingsKept {tag : Byte} {args : List Byte} {s t : State} (ht : execRunStop tag args s = .next t) :
    SettingsKept s t := by
  unfold execRunStop at ht
  split at ht
  · exact (stopRun_settingsKept s).trans (respond_settingsKept ht)
  · exact respond_settingsKept ht

theorem trunkDown_settingsKept (s : State) : SettingsKept s (trunkDown s) := by
  unfold trunkDown
  split <;> exact ⟨rfl, rfl⟩

/-- Every command but SETUP_WRITE, the two output requests and the power-on reset leaves the setup and the output controls
alone. -/
theorem exec_settingsKept {c : Instr} {s t : State} (hl : LinesOk s) (ht : exec c s = .next t)
    (hpow : ∀ lv, c ≠ .powerOnReset lv) (hwrite : ∀ tag args, c ≠ .setupWrite tag args)
    (hset : ∀ tag args, c ≠ .outputSet tag args) (hown : ∀ tag args, c ≠ .outputOwner tag args) :
    SettingsKept s t := by
  have taken : ∀ u, exec c s = done u → SettingsKept s u → SettingsKept s t := by
    intro u hu kept
    rw [next_of_done (hu.symm.trans ht)]
    exact kept.trans (arbiter_afterTake u).settingsKept
  have plain : (∃ u, exec c s = done u ∧ Plain s u) → SettingsKept s t := fun ⟨u, hu, k⟩ =>
    taken u hu k.settingsKept
  have others := exec_plain c s hl hpow
  cases c with
  | powerOnReset lv => exact absurd rfl (hpow lv)
  | setupWrite tag args => exact absurd rfl (hwrite tag args)
  | outputSet tag args => exact absurd rfl (hset tag args)
  | outputOwner tag args => exact absurd rfl (hown tag args)
  | partReset tag args => exact taken (softReset s) rfl ⟨rfl, rfl⟩
  | runStart tag args => exact runStart_settingsKept ht
  | runStop tag args => exact runStop_settingsKept ht
  | trunkLinkDown => exact taken (trunkDown s) rfl (trunkDown_settingsKept s)
  | trunkSendDone => exact taken (s.withTrunk { s.trunk with sending := none }) rfl ⟨rfl, rfl⟩
  | _ => exact plain (others nofun nofun nofun nofun nofun nofun nofun nofun)

/-! ### What the requests that write them leave of the other -/

theorem outputSet_setup {tag : Byte} {args : List Byte} {s t : State} (ht : execOutputSet tag args s = .next t) :
    t.setup = s.setup := by
  unfold execOutputSet at ht
  split at ht <;> exact (respond_settingsKept ht).setup

theorem outputOwner_setup {tag : Byte} {args : List Byte} {s t : State} (ht : execOutputOwner tag args s = .next t) :
    t.setup = s.setup := by
  unfold execOutputOwner at ht
  split at ht <;> exact (respond_settingsKept ht).setup

/-- A parameter written, then at most a raise or a reload of the shift timer: the setup is the written one (R6, R162). -/
theorem writeSetup_settings (p : Param) (v : Nat) (s : State) :
    (writeSetup p v s).setup = s.setup.put p (p.stored v) ∧ (writeSetup p v s).outputs = s.outputs := by
  have stall := (stallExpiry_plain (s.withStore { s.store with setup := s.setup.put p (p.stored v) })).settingsKept
  unfold writeSetup
  dsimp only
  split
  · exact ⟨stall.setup, stall.outputs⟩
  · split <;> exact ⟨rfl, rfl⟩

/-- SETUP_WRITE leaves the output controls, and the setup, or writes one parameter's stored value. -/
theorem setupWrite_settings {tag : Byte} {args : List Byte} {s t : State} (ht : execSetupWrite tag args s = .next t) :
    t.outputs = s.outputs ∧ (t.setup = s.setup ∨ ∃ p v, t.setup = s.setup.put p (p.stored v)) := by
  have refused : ∀ {st body}, respond tag 5 args st body s = .next t →
      t.outputs = s.outputs ∧ (t.setup = s.setup ∨ ∃ p v, t.setup = s.setup.put p (p.stored v)) := fun h =>
    ⟨(respond_settingsKept h).outputs, .inl (respond_settingsKept h).setup⟩
  unfold execSetupWrite at ht
  split at ht
  · split at ht
    · exact refused ht
    · next p _ =>
      split at ht
      · next v _ =>
        split at ht
        · exact refused ht
        · obtain ⟨setup, outputs⟩ := writeSetup_settings p v s
          have answered := respond_settingsKept ht
          exact ⟨answered.outputs.trans outputs, .inr ⟨p, v, answered.setup.trans setup⟩⟩
      · exact refused ht
  · exact refused ht

/-- Settles O17: `SettingsKept` for every command that writes neither, and each writing request on the other. -/
theorem setupAndOutputControlsChangeOnlyByTheirRequests :
    Obligations.SetupAndOutputControlsChangeOnlyByTheirRequests := by
  unfold Obligations.SetupAndOutputControlsChangeOnlyByTheirRequests
  constructor
  · intro c s t hl ht hwrite hpow
    have others := exec_settingsKept hl ht hpow hwrite
    cases c with
    | outputSet tag args => exact outputSet_setup ht
    | outputOwner tag args => exact outputOwner_setup ht
    | _ => exact (others nofun nofun).setup
  · intro c s t hl ht hset hown hpow
    have others := fun hwrite => exec_settingsKept hl ht hpow hwrite hset hown
    cases c with
    | setupWrite tag args => exact (setupWrite_settings ht).1
    | _ => exact (others nofun).outputs

/-! ### The laws of the banks and the masks -/

/-- The laws of the Table Store (R132, R139, R148). -/
structure TableLaws (s : State) : Prop where
  banks : BanksOk s
  masks : MasksOk s

theorem MasksOk.of_setup {s t : State} (h : MasksOk s) (e : t.setup = s.setup) : MasksOk t :=
  ⟨by rw [e]; exact h.gantryFault, by rw [e]; exact h.localFault, by rw [e]; exact h.localMap⟩

/-- A written parameter keeps the masks' held bits 0 (R148). -/
theorem MasksOk.of_put {s t : State} {p : Param} {v : Nat} (h : MasksOk s)
    (e : t.setup = s.setup.put p (p.stored v)) : MasksOk t := by
  obtain ⟨gantryFault, localFault, localMap⟩ := h
  cases p with
  | delegGantry =>
    have mask : t.setup.delegGantry = Param.delegGantry.stored v := by rw [e]; rfl
    have other : t.setup.delegLocal = s.setup.delegLocal := by rw [e]; rfl
    exact ⟨by rw [mask, Param.stored_delegGantry_testBit]; simp, other ▸ localFault, other ▸ localMap⟩
  | delegLocal =>
    have mask : t.setup.delegLocal = Param.delegLocal.stored v := by rw [e]; rfl
    have other : t.setup.delegGantry = s.setup.delegGantry := by rw [e]; rfl
    exact ⟨other ▸ gantryFault, by rw [mask, Param.stored_delegLocal_testBit]; simp,
      by rw [mask, Param.stored_delegLocal_testBit]; simp⟩
  | _ => exact ⟨by rw [e]; exact gantryFault, by rw [e]; exact localFault, by rw [e]; exact localMap⟩

theorem Kept.banksOk {s u : State} (k : Kept s u) (h : BanksOk s) : BanksOk u := ⟨k.detect h.detect, k.grade h.grade⟩

theorem BanksOk.of_store {s t : State} (h : BanksOk s) (e : t.store = s.store) : BanksOk t :=
  ⟨e ▸ h.detect, e ▸ h.grade⟩

theorem TableLaws.of_store {s t : State} (h : TableLaws s) (e : t.store = s.store) : TableLaws t :=
  ⟨h.banks.of_store e, h.masks.of_setup (congrArg TableStore.setup e)⟩

theorem arbiter_tableLaws {u : State} (h : TableLaws u) : TableLaws (arbiter u) :=
  h.of_store (arbiter_afterTake u).blocks.store

/-- The power-on values keep the laws: no bank is ACTIVE or COMMITTING, and the masks are 0. -/
theorem powerOn_tableLaws (lv : InputLevels) (s : State) : TableLaws (powerOn lv s) :=
  ⟨⟨⟨fun h => (nomatch h.1), fun h => (nomatch h)⟩, ⟨fun h => (nomatch h.1), fun h => (nomatch h)⟩⟩,
    ⟨Nat.zero_testBit 15, Nat.zero_testBit 15, Nat.zero_testBit 6⟩⟩

/-- A soft reset makes the COMMITTING and RETIRING banks LOADED and keeps the setup (R132, R142). -/
theorem softReset_tableLaws {s : State} (h : TableLaws s) : TableLaws (softReset s) :=
  ⟨⟨toLoaded_ok nofun (toLoaded_ok nofun h.banks.detect), toLoaded_ok nofun (toLoaded_ok nofun h.banks.grade)⟩,
    h.masks.of_setup rfl⟩

/-- Every command keeps the masks' held bits 0, but for the power-on reset, which sets the masks anew. -/
theorem exec_masksOk {c : Instr} {s t : State} (hl : LinesOk s) (h : MasksOk s) (ht : exec c s = .next t)
    (hpow : ∀ lv, c ≠ .powerOnReset lv) : MasksOk t := by
  by_cases hwrite : ∃ tag args, c = .setupWrite tag args
  · obtain ⟨tag, args, rfl⟩ := hwrite
    rcases (setupWrite_settings ht).2 with same | ⟨p, v, written⟩
    · exact h.of_setup same
    · exact h.of_put written
  · exact h.of_setup (setupAndOutputControlsChangeOnlyByTheirRequests.1 c s t hl ht
      (fun tag args e => hwrite ⟨tag, args, e⟩) hpow)

theorem exec_tableLaws {c : Instr} {s t : State} (hl : LinesOk s) (h : TableLaws s) (ht : exec c s = .next t) :
    TableLaws t := by
  by_cases hpow : ∃ lv, c = .powerOnReset lv
  · obtain ⟨lv, rfl⟩ := hpow
    rw [next_of_done ht]
    exact arbiter_tableLaws (powerOn_tableLaws lv s)
  by_cases hsoft : ∃ tag args, c = .partReset tag args
  · obtain ⟨tag, args, rfl⟩ := hsoft
    rw [next_of_done ht]
    exact arbiter_tableLaws (softReset_tableLaws h)
  refine ⟨?_, exec_masksOk hl h.masks ht fun lv e => hpow ⟨lv, e⟩⟩
  obtain ⟨u, hu, k⟩ := exec_kept c s hl (fun lv e => hpow ⟨lv, e⟩) (fun t a e => hsoft ⟨t, a, e⟩)
  rw [next_of_done (hu.symm.trans ht)]
  exact (k.banksOk h.banks).of_store (arbiter_afterTake u).blocks.store

theorem takeUp_tableLaws (r : Request) {s : State} (h : TableLaws s) : TableLaws (takeUp r s) := by
  unfold takeUp
  split
  · exact h.of_store rfl
  · exact ⟨(answer_kept _ _ _ s).banksOk h.banks, h.masks.of_setup (answer_plain _ _ _ s).setup⟩

theorem ownStep_tableLaws {s t : State} (h : TableLaws s) (ht : ownStep s = .next t) : TableLaws t := by
  unfold ownStep at ht
  split at ht
  · rw [next_of_done ht]
    exact arbiter_tableLaws (takeUp_tableLaws _ h)
  · rw [next_of_done ht]
    exact arbiter_tableLaws (h.of_store rfl)

theorem step_tableLaws {s t : State} (hl : LinesOk s) (h : TableLaws s) (ht : step s = .next t) : TableLaws t := by
  rcases step_cases ht with own | ⟨c, rest, hc⟩
  · exact ownStep_tableLaws h own
  · exact exec_tableLaws (s := s.withPending rest) hl (h.of_store rfl) hc

/-- Settles O56: `TableLaws` through every command and the part's own step. -/
theorem tableLawsAreKept : Obligations.TableLawsAreKept := by
  unfold Obligations.TableLawsAreKept
  intro s t hl hb hm ht
  have laws := step_tableLaws hl ⟨hb, hm⟩ ht
  exact ⟨laws.banks, laws.masks⟩

end Sys2Proof.Machine
end

section
/-! The reading requests, and SETUP_WRITE (R134, R142, R154, R162, R163, R176). -/

namespace Sys2Proof.Machine

/-! ### The arguments -/

theorem bankOf?_val (b : BankId) : bankOf? b.val = some b := dif_pos b.isLt

/-- A request of one byte, whatever follows it. -/
theorem readFields_one (b : Byte) (rest : List Byte) : readFields [1] (b :: rest) = some [b.toNat] := by
  rw [readFields_byte]
  rfl

/-! ### The reads -/

theorem setupRead_eq {code : Byte} {p : Param} (h : Param.ofCode? code.toNat = some p) (tag : Byte) (rest : List Byte)
    (s : State) : exec (.setupRead tag (code :: rest)) s =
      respond tag 6 (code :: rest) .ok (leBytes p.width (s.setup.get p)) s := by
  show execSetupRead tag (code :: rest) s = _
  unfold execSetupRead
  rw [readFields_one]
  dsimp only
  rw [h]

theorem reportGet_current (tag : Byte) (rest : List Byte) (s : State) : exec (.reportGet tag (0 :: rest)) s =
    respond tag 13 (0 :: rest) .ok s.report.current.bytes s := by
  show execReportGet tag (0 :: rest) s = _
  unfold execReportGet
  rw [readFields_one]
  rfl

theorem tableRead_eq {group bank table index : Byte} {id : TableId} {b : BankId}
    (known : TableId.ofCodes? group.toNat table.toNat = some id) (hbank : bank.toNat = b.val)
    (within : index.toNat < id.size) (tag : Byte) (rest : List Byte) (s : State) :
    exec (.tableRead tag (group :: bank :: table :: index :: rest)) s =
      respond tag 3 (group :: bank :: table :: index :: rest) .ok (readEntry id b index.toNat s) s := by
  have fields : readFields [1, 1, 1, 1] (group :: bank :: table :: index :: rest) =
      some [group.toNat, b.val, table.toNat, index.toNat] := by
    rw [readFields_byte, readFields_byte, readFields_byte, readFields_byte, ← hbank]
    rfl
  show execTableRead tag (group :: bank :: table :: index :: rest) s = _
  unfold execTableRead
  rw [fields]
  dsimp only
  rw [known, bankOf?_val]
  exact if_neg (by omega)

/-- Settles O13: each read answers in the state as it stands. -/
theorem readsAnswerAndChangeNothing : Obligations.ReadsAnswerAndChangeNothing := by
  unfold Obligations.ReadsAnswerAndChangeNothing
  intro s tag rest room
  refine ⟨respond_answered room, respond_answered room, ?_, fun code p known => ?_,
    fun group bank table index id b known hbank within => ?_⟩
  · rw [reportGet_current]
    exact respond_answered room
  · rw [setupRead_eq known]
    exact respond_answered room
  · rw [tableRead_eq known hbank within]
    exact respond_answered room

/-! ### SETUP_WRITE -/

theorem Setup.get_put (x : Setup) (p q : Param) (v : Nat) : (x.put p v).get q = if q = p then v else x.get q := by
  cases p <;> cases q <;> rfl

theorem Param.anyRunState_iff (p : Param) :
    p.anyRunState = true ↔ p = .shiftPeriodS ∨ p = .delegGantry ∨ p = .delegLocal := by
  unfold Param.anyRunState
  simp only [Bool.or_eq_true, beq_iff_eq, or_assoc]

section
variable {code : Byte} {p : Param} {v : Nat}

/-- SETUP_WRITE with a whole value: refused outside STANDBY but for the three parameters of every run state. -/
theorem setupWrite_eq (known : Param.ofCode? code.toNat = some p) (fits : v < 256 ^ p.width) (tag : Byte)
    (rest : List Byte) (s : State) : exec (.setupWrite tag (code :: (leBytes p.width v ++ rest))) s =
      if !p.anyRunState && s.trunk.run != .standby then
        respond tag 5 (code :: (leBytes p.width v ++ rest)) .notNow [] s
      else respond tag 5 (code :: (leBytes p.width v ++ rest)) .ok [] (writeSetup p v s) := by
  have value : readFields [p.width] ((code :: (leBytes p.width v ++ rest)).drop 1) = some [v] := by
    rw [List.drop_one, List.tail_cons, readFields_cons, Nat.mod_eq_of_lt fits]
    rfl
  show execSetupWrite tag (code :: (leBytes p.width v ++ rest)) s = _
  unfold execSetupWrite
  rw [readFields_one]
  dsimp only
  rw [known]
  dsimp only
  rw [value]

theorem setupWrite_refused (known : Param.ofCode? code.toNat = some p) (fits : v < 256 ^ p.width)
    (held : ¬p.anyRunState = true) {s : State} (run : s.trunk.run ≠ .standby) (tag : Byte) (rest : List Byte) :
    exec (.setupWrite tag (code :: (leBytes p.width v ++ rest))) s =
      respond tag 5 (code :: (leBytes p.width v ++ rest)) .notNow [] s := by
  rw [setupWrite_eq known fits, if_pos]
  simp [held, run]

theorem setupWrite_accepted (known : Param.ofCode? code.toNat = some p) (fits : v < 256 ^ p.width) {s : State}
    (h : s.trunk.run = .standby ∨ p.anyRunState = true) (tag : Byte) (rest : List Byte) :
    exec (.setupWrite tag (code :: (leBytes p.width v ++ rest))) s =
      respond tag 5 (code :: (leBytes p.width v ++ rest)) .ok [] (writeSetup p v s) := by
  rw [setupWrite_eq known fits, if_neg]
  rcases h with run | free
  · simp [run]
  · simp [free]

end

/-- The state with a parameter's stored value written (R142). -/
def withParam (p : Param) (v : Nat) (s : State) : State :=
  s.withStore { s.store with setup := s.setup.put p (p.stored v) }

theorem writeSetup_shiftPeriodS (v : Nat) (s : State) :
    writeSetup .shiftPeriodS v s = reloadShift (withParam .shiftPeriodS v s) := rfl

theorem writeSetup_other {p : Param} (stall : p ≠ .stallMs) (shift : p ≠ .shiftPeriodS) (v : Nat) (s : State) :
    writeSetup p v s = withParam p v s := (if_neg stall).trans (if_neg shift)

/-- A write of `stall_ms` after which no report is due stores the value alone (R6). -/
theorem writeSetup_early {v : Nat} {s : State} (h : s.pos.stallArmed = false ∨ s.pos.stallTimer < max 10 (min 65535 v)) :
    writeSetup .stallMs v s = withParam .stallMs v s := by
  refine stallExpiry_not_due fun due => ?_
  obtain ⟨armed, reached⟩ := (stallDue_iff _).1 due
  have armed : s.pos.stallArmed = true := armed
  have reached : max 10 (min 65535 v) ≤ s.pos.stallTimer := reached
  rcases h with disarmed | early
  · rw [armed] at disarmed
    cases disarmed
  · omega

/-- A write of `stall_ms` after which the report is due (R5, R6). -/
theorem writeSetup_due {v : Nat} {s : State} (armed : s.pos.stallArmed = true)
    (reached : max 10 (min 65535 v) ≤ s.pos.stallTimer) : writeSetup .stallMs v s =
      raise .ribbonStalled none (max 10 (min 65535 v)) s.pos.debt
        ((withParam .stallMs v s).withPos { s.pos with stallArmed := false }) :=
  stallExpiry_due ((stallDue_iff (withParam .stallMs v s)).2 ⟨armed, reached⟩)

/-- A raise that finds room hands at most its own notice. -/
theorem Raised.urgent_le {k : CondKind} {lane : Option LaneId} {d1 d2 : Nat} {s t : State} (h : Raised k lane d1 d2 s t) :
    t.trunk.urgent.length ≤ s.trunk.urgent.length + 1 := by
  have line : ∀ {e}, Machine.heldAtLine k lane d1 d2 e s t → t.trunk.urgent.length ≤ s.trunk.urgent.length + 1 := by
    intro e held
    unfold Machine.heldAtLine at held
    split at held
    · rw [held.2, List.length_append]
      exact le_rfl
    · rw [held.2]
      exact Nat.le_succ _
  have handled := h.handled
  split at handled
  · exact line handled.2
  · split at handled
    · rw [handled.2.2]
      exact Nat.le_succ _
    · split at handled
      · rw [handled.2.2, List.length_append]
        exact le_rfl
      · exact line handled.2

theorem Answered.setup {r : Request} {st : Status} {body : List Byte} {u t : State} (h : Answered r st body u t) :
    t.setup = u.setup := congrArg TableStore.setup h.blocks.store

/-- Settles O15: by the run state, and by what follows the stored value. -/
theorem setupWrite : Obligations.SetupWrite := by
  unfold Obligations.SetupWrite
  intro s tag code p v rest room known fits args u
  refine ⟨fun shift gantry localMask run => ?_, fun may shift quiet => ?_, fun run stall armed reached room2 => ?_,
    fun shift => ?_⟩
  · have held : ¬p.anyRunState = true := by
      rw [Param.anyRunState_iff]
      rintro (h | h | h) <;> contradiction
    rw [setupWrite_refused known fits held run]
    exact respond_answered room
  · have accepted : s.trunk.run = .standby ∨ p.anyRunState = true :=
      may.imp id fun mask => (Param.anyRunState_iff p).2 (.inr mask)
    have written : writeSetup p v s = u := by
      by_cases stall : p = .stallMs
      · subst stall
        exact writeSetup_early (quiet rfl)
      · exact writeSetup_other stall shift v s
    rw [setupWrite_accepted known fits accepted, written]
    obtain ⟨t, ht, answered⟩ := respond_answered (tag := tag) (kind := 5) (args := args) (body := []) (status := .ok)
      (u := u) room
    refine ⟨t, ht, answered, ?_, fun q hq => ?_⟩
    · rw [answered.setup]
      exact (Setup.get_put s.setup p p _).trans (if_pos rfl)
    · rw [answered.setup]
      exact (Setup.get_put s.setup p q _).trans (if_neg hq)
  · subst stall
    have raised := raise_room (s := u.withPos { s.pos with stallArmed := false }) .ribbonStalled none
      (max 10 (min 65535 v)) s.pos.debt room
    rw [setupWrite_accepted known fits (.inl run), writeSetup_due armed reached]
    obtain ⟨t, ht, answered⟩ := respond_answered (tag := tag) (kind := 5) (args := args) (body := []) (status := .ok)
      (Nat.lt_of_le_of_lt raised.urgent_le room2)
    refine ⟨_, t, ht, raised, answered, ?_⟩
    rw [answered.setup, raised.rest]
    rfl
  · subst shift
    rw [setupWrite_accepted known fits (.inr rfl), writeSetup_shiftPeriodS]
    obtain ⟨t, ht, answered⟩ := respond_answered (tag := tag) (kind := 5) (args := args) (body := []) (status := .ok)
      (u := reloadShift (withParam .shiftPeriodS v s)) room
    have stored : Param.shiftPeriodS.stored v = min 65535 v := Nat.zero_max _
    have reloaded : reloadShift (withParam .shiftPeriodS v s) =
        u.withReport { s.report with shiftTimer := min 65535 v, secondPhase := 0 } := by
      rw [← stored]
      rfl
    refine ⟨t, ht, ?_, reloaded ▸ answered⟩
    rw [answered.setup, ← stored]
    rfl

end Sys2Proof.Machine
end

section
/-! TABLE_WRITE, and a written entry read back (R51, R68, R86, R124, R133, R134). -/

namespace Sys2Proof.Machine

/-! ### A bank written (R133) -/

@[simp] theorem Group.get_set_self {α : Type} (g : Group α) (b : BankId) (x : Bank α) : (g.set b x).get b = x := by
  fin_cases b <;> rfl

@[simp] theorem Group.get_set_other {α : Type} (g : Group α) (b : BankId) (x : Bank α) :
    (g.set b x).get (otherBank b) = g.get (otherBank b) := by
  fin_cases b <;> rfl

/-- The shadow after a write: LOADED where it was EMPTY. -/
theorem written_shadow {α : Type} (g : Group α) (f : α → α) :
    (g.set g.shadow ((g.get g.shadow).written f)).get g.shadow =
      ⟨if (g.get g.shadow).state = .empty then .loaded else (g.get g.shadow).state, f (g.get g.shadow).tables⟩ := by
  rw [Group.get_set_self]
  unfold Bank.written
  simp only [beq_iff_eq]

theorem BankState.locked_iff (st : BankState) : st.locked = true ↔ st = .committing ∨ st = .retiring := by
  unfold BankState.locked
  rw [Bool.or_eq_true, beq_iff_eq, beq_iff_eq]

/-- TABLE_WRITE with a known group, table and index and a whole entry. -/
theorem tableWrite_eq {group table index : Byte} {id : TableId} {vs : List Nat}
    (known : TableId.ofCodes? group.toNat table.toNat = some id) (within : index.toNat < id.size)
    (whole : vs.length = id.widths.length) (tag : Byte) (rest : List Byte) (s : State) :
    exec (.tableWrite tag (group :: table :: index :: (writeFields id.widths vs ++ rest))) s =
      if (shadowState id s).locked then
        respond tag 2 (group :: table :: index :: (writeFields id.widths vs ++ rest)) .notNow [] s
      else respond tag 2 (group :: table :: index :: (writeFields id.widths vs ++ rest)) .ok []
        (writeEntry id index.toNat (List.zipWith (fun w v => v % 256 ^ w) id.widths vs) s) := by
  have fields : readFields [1, 1, 1] (group :: table :: index :: (writeFields id.widths vs ++ rest)) =
      some [group.toNat, table.toNat, index.toNat] := by
    rw [readFields_byte, readFields_byte, readFields_byte]
    rfl
  have entry : readFields id.widths ((group :: table :: index :: (writeFields id.widths vs ++ rest)).drop 3) =
      some (List.zipWith (fun w v => v % 256 ^ w) id.widths vs) := readFields_writeFields id.widths vs rest whole
  show execTableWrite tag (group :: table :: index :: (writeFields id.widths vs ++ rest)) s = _
  unfold execTableWrite
  rw [fields]
  dsimp only
  rw [known]
  dsimp only
  rw [entry]
  exact if_neg (by omega)

/-- An entry is written in its group's shadow. -/
theorem writeEntry_detect {id : TableId} (h : id.isDetect = true) (i : Nat) (v : List Nat) (s : State) :
    writeEntry id i v s = s.withDetect (s.store.detect.set s.store.detect.shadow
      ((s.store.detect.get s.store.detect.shadow).written fun t => t.write id i v)) := if_pos h

theorem writeEntry_grade {id : TableId} (h : ¬id.isDetect = true) (i : Nat) (v : List Nat) (s : State) :
    writeEntry id i v s = s.withGrade (s.store.grade.set s.store.grade.shadow
      ((s.store.grade.get s.store.grade.shadow).written fun t => t.write id i v)) := if_neg h

theorem writeEntry_hasRoom (id : TableId) (i : Nat) (v : List Nat) {s : State} (h : hasRoom s) :
    hasRoom (writeEntry id i v s) := by
  unfold writeEntry
  split <;> exact h

theorem shadowState_detect {id : TableId} (h : id.isDetect = true) (s : State) :
    shadowState id s = (s.store.detect.get s.store.detect.shadow).state := if_pos h

theorem shadowState_grade {id : TableId} (h : ¬id.isDetect = true) (s : State) :
    shadowState id s = (s.store.grade.get s.store.grade.shadow).state := if_neg h

/-- Settles O18: refused at a locked shadow, else the shadow of the table's group written. -/
theorem tableWrite : Obligations.TableWrite := by
  unfold Obligations.TableWrite
  intro s tag group table index id vs rest room known within whole stored state args
  rw [tableWrite_eq known within whole]
  refine ⟨fun locked => ?_, fun committing retiring => ?_⟩
  · rw [if_pos ((BankState.locked_iff _).2 locked)]
    exact respond_answered room
  · rw [if_neg fun h => ((BankState.locked_iff _).1 h).elim committing retiring]
    obtain ⟨t, ht, answered⟩ := respond_answered (tag := tag) (kind := 2) (args := args) (body := []) (status := .ok)
      (writeEntry_hasRoom id index.toNat stored room)
    by_cases h : id.isDetect = true
    · have shadow := shadowState_detect h s
      rw [writeEntry_detect h] at answered
      exact ⟨_, t, ht, answered, rfl, rfl,
        fun _ => ⟨rfl, Group.get_set_other _ _ _, by rw [written_shadow, ← shadow]⟩,
        fun h' => nomatch h.symm.trans h'⟩
    · have shadow := shadowState_grade h s
      rw [writeEntry_grade h] at answered
      exact ⟨_, t, ht, answered, rfl, rfl, fun h' => absurd h' h,
        fun _ => ⟨rfl, Group.get_set_other _ _ _, by rw [written_shadow, ← shadow]⟩⟩

/-! ### An entry from its numbers, read back clamped (3.9, 4.9, 6.2, 8.6) -/

/-- The ranges of a table's fields: named values and marks by their codes. -/
def TableId.ranges : TableId → List (Nat × Nat)
  | .lane => [(0, 4096), (0, 4095), (0, 4095), (2, 10), (0, 7), (0, 4096), (0, 3), (1, 4095), (0, 8000000), (10, 2000),
      (0, 2 ^ 32 - 1), (0, 2 ^ 32 - 1)]
  | .boundary => [(0, 4096)]
  | .threshold => [(1, 1023), (1, 1023)]
  | .cls => [(0, 2), (0, 2 ^ 32 - 1), (0, 2 ^ 32 - 1), (0, 2 ^ 32 - 1), (0, 2 ^ 32 - 1), (0, 1023), (0, 2), (0, 15), (0, 1)]
  | .zone => [(0, 2 ^ 32 - 1), (0, 2 ^ 32 - 1)]
  | .limit => [(0, 255)]
  | .fatal => [(0, 1)]
  | .divert => [(0, 4)]
  | .spec => [(1, 2 ^ 31), (0, 2), (0, 1)]
  | .plan => [(0, 65535), (1, 2 ^ 20)]

/-- Written numbers clamped to the ranges of a table's fields. -/
def TableId.clamped (id : TableId) (vs : List Nat) : List Nat :=
  List.zipWith (fun r v => clampTo r.1 r.2 v) id.ranges vs

theorem PolaritySelector.code_ofCode (v : Nat) : (PolaritySelector.ofCode v).code = clampTo 0 2 v := by
  match v with
  | 0 => rfl
  | 1 => rfl
  | n + 2 => exact (show clampTo 0 2 (n + 2) = 2 by unfold clampTo; omega).symm

theorem SatSelector.code_ofCode (v : Nat) : (SatSelector.ofCode v).code = clampTo 0 2 v := by
  match v with
  | 0 => rfl
  | 1 => rfl
  | n + 2 => exact (show clampTo 0 2 (n + 2) = 2 by unfold clampTo; omega).symm

theorem MinGrade.code_ofCode (v : Nat) : (MinGrade.ofCode v).code = clampTo 0 2 v := by
  match v with
  | 0 => rfl
  | 1 => rfl
  | n + 2 => exact (show clampTo 0 2 (n + 2) = 2 by unfold clampTo; omega).symm

theorem Destination.code_ofCode (v : Nat) : (Destination.ofCode v).code = clampTo 0 4 v := by
  match v with
  | 0 => rfl
  | 1 => rfl
  | 2 => rfl
  | 3 => rfl
  | n + 4 => exact (show clampTo 0 4 (n + 4) = 4 by unfold clampTo; omega).symm

/-- A mark is set by every written number but 0. -/
theorem markCode_ne_zero (v : Nat) : markCode (v != 0) = clampTo 0 1 v := by
  match v with
  | 0 => rfl
  | n + 1 => exact (show clampTo 0 1 (n + 1) = 1 by unfold clampTo; omega).symm

theorem LaneEntry.fields_ofFields {vs : List Nat} (h : vs.length = 12) :
    (LaneEntry.ofFields vs).fields = TableId.lane.clamped vs := by
  match vs, h with
  | [_, _, _, _, _, _, _, _, _, _, _, _], _ => rfl

theorem ClassRule.fields_ofFields {vs : List Nat} (h : vs.length = 9) :
    (ClassRule.ofFields vs).fields = TableId.cls.clamped vs := by
  match vs, h with
  | [polarity, _, _, _, _, _, sat, _, enable], _ =>
    unfold ClassRule.fields ClassRule.ofFields
    dsimp only [fieldAt, List.getD_cons_zero, List.getD_cons_succ]
    rw [PolaritySelector.code_ofCode, SatSelector.code_ofCode, markCode_ne_zero]
    rfl

theorem OrderSpec.fields_ofFields {vs : List Nat} (h : vs.length = 3) :
    [(OrderSpec.ofFields vs).length, (OrderSpec.ofFields vs).minGrade.code, markCode (OrderSpec.ofFields vs).enable] =
      TableId.spec.clamped vs := by
  match vs, h with
  | [_, grade, enable], _ =>
    unfold OrderSpec.ofFields
    dsimp only [fieldAt, List.getD_cons_zero, List.getD_cons_succ]
    rw [MinGrade.code_ofCode, markCode_ne_zero]
    rfl

/-! ### Tables written -/

theorem getD_set_self {α : Type} {xs : List α} {i : Nat} (h : i < xs.length) (x d : α) : (xs.set i x).getD i d = x := by
  rw [List.getD_eq_getElem?_getD, List.getElem?_set_self h, Option.getD_some]

theorem getD_set_ne {α : Type} {i j : Nat} (h : j ≠ i) (xs : List α) (x d : α) :
    (xs.set i x).getD j d = xs.getD j d := by
  rw [List.getD_eq_getElem?_getD, List.getElem?_set_ne h.symm, List.getD_eq_getElem?_getD]

theorem laneOf?_eq_some {j : Nat} {l : LaneId} (h : laneOf? j = some l) : j = l.val := by
  unfold laneOf? at h
  split at h
  · cases h; rfl
  · cases h

theorem DetectTables.write_lane (t : DetectTables) (l : LaneId) (vs : List Nat) :
    t.write .lane l.val vs = { t with lanes := t.lanes.set l (LaneEntry.ofFields vs) } := by
  unfold DetectTables.write
  dsimp only
  rw [laneOf?_val]

/-- A written DETECT entry reads back clamped. -/
theorem DetectTables.read_write {t : DetectTables} {id : TableId} {i : Nat} {vs : List Nat} (within : i < id.size)
    (whole : vs.length = id.ranges.length) (detect : id.isDetect = true) (boundaries : t.boundaries.length = 60)
    (thresholds : t.thresholds.length = 64) (classes : t.classes.length = 16) :
    (t.write id i vs).read id i = id.clamped vs := by
  cases id with
  | lane =>
    obtain ⟨l, rfl⟩ : ∃ l : LaneId, i = l.val := ⟨⟨i, within⟩, rfl⟩
    rw [DetectTables.write_lane]
    unfold DetectTables.read
    dsimp only
    rw [laneOf?_val]
    dsimp only
    rw [PerLane.get_set_same]
    exact LaneEntry.fields_ofFields whole
  | boundary =>
    match vs, whole with
    | [_], _ => exact congrArg (fun x => [x]) (getD_set_self (boundaries ▸ within) _ _)
  | threshold =>
    match vs, whole with
    | [_, _], _ => exact congrArg (fun x : Threshold => [x.td, x.tb]) (getD_set_self (thresholds ▸ within) _ _)
  | cls =>
    exact (congrArg ClassRule.fields (getD_set_self (classes ▸ within) _ _)).trans (ClassRule.fields_ofFields whole)
  | zone | limit | fatal | divert | spec | plan => cases detect

/-- A written GRADE entry reads back clamped. -/
theorem GradeTables.read_write {t : GradeTables} {id : TableId} {i : Nat} {vs : List Nat} (within : i < id.size)
    (whole : vs.length = id.ranges.length) (grade : id.isDetect = false) (zones : t.zones.length = 3)
    (limits : t.limits.length = 192) (fatal : t.fatal.length = 16) (divert : t.divert.length = 7)
    (specs : t.specs.length = 8) : (t.write id i vs).read id i = id.clamped vs := by
  cases id with
  | zone =>
    match vs, whole with
    | [_, _], _ => exact congrArg (fun x : Zone => [x.lo, x.hi]) (getD_set_self (zones ▸ within) _ _)
  | limit =>
    match vs, whole with
    | [_], _ => exact congrArg (fun x => [x]) (getD_set_self (limits ▸ within) _ _)
  | fatal =>
    match vs, whole with
    | [v], _ =>
      exact (congrArg (fun x => [markCode x]) (getD_set_self (fatal ▸ within) _ _)).trans
        (congrArg (fun x => [x]) (markCode_ne_zero v))
  | divert =>
    match vs, whole with
    | [v], _ =>
      exact (congrArg (fun x : Destination => [x.code]) (getD_set_self (divert ▸ within) _ _)).trans
        (congrArg (fun x => [x]) (Destination.code_ofCode v))
  | spec =>
    exact (congrArg (fun x : OrderSpec => [x.length, x.minGrade.code, markCode x.enable])
      (getD_set_self (specs ▸ within) _ _)).trans (OrderSpec.fields_ofFields whole)
  | plan =>
    match vs, whole with
    | [_, _], _ => rfl
  | lane | boundary | threshold | cls => cases grade

/-- Every other entry of a DETECT bank reads as before. -/
theorem DetectTables.read_write_other {id other : TableId} {i j : Nat} (h : other ≠ id ∨ j ≠ i) (t : DetectTables)
    (vs : List Nat) : (t.write id i vs).read other j = t.read other j := by
  by_cases same : other = id
  · subst same
    have hj : j ≠ i := h.resolve_left fun ne => ne rfl
    cases other with
    | lane =>
      unfold DetectTables.read DetectTables.write
      cases hl : laneOf? i with
      | none => rfl
      | some l =>
        cases hl' : laneOf? j with
        | none => rfl
        | some l' =>
          have : l' ≠ l := fun e => hj (by rw [laneOf?_eq_some hl', laneOf?_eq_some hl, e])
          exact congrArg LaneEntry.fields (PerLane.get_set_ne _ _ this)
    | boundary => exact congrArg (fun x => [x]) (getD_set_ne hj _ _ _)
    | threshold => exact congrArg (fun x : Threshold => [x.td, x.tb]) (getD_set_ne hj _ _ _)
    | cls => exact congrArg ClassRule.fields (getD_set_ne hj _ _ _)
    | zone | limit | fatal | divert | spec | plan => rfl
  · cases id with
    | lane =>
      unfold DetectTables.write
      cases laneOf? i with
      | none => rfl
      | some l => cases other <;> first | rfl | exact absurd rfl same
    | _ => cases other <;> first | rfl | exact absurd rfl same

/-- Every other entry of a GRADE bank reads as before. -/
theorem GradeTables.read_write_other {id other : TableId} {i j : Nat} (h : other ≠ id ∨ (other ≠ .plan ∧ j ≠ i))
    (t : GradeTables) (vs : List Nat) : (t.write id i vs).read other j = t.read other j := by
  by_cases same : other = id
  · subst same
    obtain ⟨table, hj⟩ := h.resolve_left fun ne => ne rfl
    cases other with
    | zone => exact congrArg (fun x : Zone => [x.lo, x.hi]) (getD_set_ne hj _ _ _)
    | limit => exact congrArg (fun x => [x]) (getD_set_ne hj _ _ _)
    | fatal => exact congrArg (fun x => [markCode x]) (getD_set_ne hj _ _ _)
    | divert => exact congrArg (fun x : Destination => [x.code]) (getD_set_ne hj _ _ _)
    | spec =>
      exact congrArg (fun x : OrderSpec => [x.length, x.minGrade.code, markCode x.enable]) (getD_set_ne hj _ _ _)
    | plan => exact absurd rfl table
    | lane | boundary | threshold | cls => rfl
  · cases id <;> cases other <;> first | rfl | exact absurd rfl same

/-- Settles O19: the written entry and the others, group by group. -/
theorem writtenEntryReadsBack : Obligations.WrittenEntryReadsBack := by
  unfold Obligations.WrittenEntryReadsBack
  intro range clamped id i vs within whole
  have ranges : range id = id.ranges := by cases id <;> rfl
  have clamps : clamped id vs = id.clamped vs := by
    unfold TableId.clamped
    rw [← ranges]
    rfl
  rw [ranges] at whole
  rw [clamps]
  exact ⟨fun t detect boundaries thresholds classes =>
      ⟨DetectTables.read_write within whole detect boundaries thresholds classes,
        fun other j h => DetectTables.read_write_other h t vs⟩,
    fun t grade zones limits fatal divert specs =>
      ⟨GradeTables.read_write within whole grade zones limits fatal divert specs,
        fun other j h => GradeTables.read_write_other h t vs⟩⟩

end Sys2Proof.Machine
end

section
/-! BANK_COMMIT's nine checks: the first failure in code order, with the lowest offending index (R135). -/

namespace Sys2Proof.Machine

/-! ### The first failure of checks in code order -/

/-- `found` is the first failure of the checks from `low` to `high`: none where none fails, else the lowest code that fails,
with its lowest offending index. -/
def IsFirst (fails : Nat → Nat → Prop) (low high : Nat) : Option Failure → Prop
  | none => ∀ code k, low ≤ code → code ≤ high → ¬fails code k
  | some f => low ≤ f.code ∧ f.code ≤ high ∧ fails f.code f.index ∧ (∀ k, k < f.index → ¬fails f.code k) ∧
      ∀ code k, low ≤ code → code < f.code → ¬fails code k

section
variable {fails : Nat → Nat → Prop} {low mid high : Nat}

/-- There is one first failure. -/
theorem IsFirst.unique {f g : Failure} (hf : IsFirst fails low high (some f)) (hg : IsFirst fails low high (some g)) :
    f = g := by
  obtain ⟨lowF, -, failsF, beforeF, belowF⟩ := hf
  obtain ⟨lowG, -, failsG, beforeG, belowG⟩ := hg
  obtain ⟨c, i⟩ := f
  obtain ⟨c', i'⟩ := g
  rcases lt_trichotomy c c' with less | rfl | more
  · exact absurd failsF (belowG c i lowF less)
  · rcases lt_trichotomy i i' with less | rfl | more
    · exact absurd failsF (beforeG i less)
    · rfl
    · exact absurd failsG (beforeF i' more)
  · exact absurd failsG (belowF c' i' lowG more)

theorem IsFirst.none_iff {found : Option Failure} (h : IsFirst fails low high found) :
    found = none ↔ ∀ code k, low ≤ code → code ≤ high → ¬fails code k := by
  cases found with
  | none => exact ⟨fun _ => h, fun _ => rfl⟩
  | some f =>
    obtain ⟨atLeast, atMost, failing, -⟩ := h
    exact ⟨nofun, fun all => absurd failing (all _ _ atLeast atMost)⟩

theorem IsFirst.some_iff {found : Option Failure} (h : IsFirst fails low high found) (f : Failure) :
    found = some f ↔ IsFirst fails low high (some f) := by
  cases found with
  | none =>
    refine ⟨nofun, fun hf => ?_⟩
    obtain ⟨atLeast, atMost, failing, -⟩ := hf
    exact absurd failing (h _ _ atLeast atMost)
  | some g => exact ⟨fun e => e ▸ h, fun hf => congrArg some (IsFirst.unique h hf)⟩

/-- Checks made one after the other. -/
theorem IsFirst.orElse {a b : Option Failure} (ha : IsFirst fails low mid a) (hb : IsFirst fails (mid + 1) high b)
    (h : low ≤ mid) (h' : mid ≤ high) : IsFirst fails low high (a <|> b) := by
  cases a with
  | some f =>
    obtain ⟨atLeast, atMost, rest⟩ := ha
    exact ⟨atLeast, atMost.trans h', rest⟩
  | none =>
    have split : ∀ code, low ≤ code → code ≤ mid ∨ mid + 1 ≤ code := fun code _ => by omega
    cases b with
    | none => exact fun code k hl hh => (split code hl).elim (ha code k hl) fun above => hb code k above hh
    | some f =>
      obtain ⟨atLeast, atMost, failing, before, below⟩ := hb
      exact ⟨by omega, atMost, failing, before,
        fun code k hl hlt => (split code hl).elim (ha code k hl) fun above => below code k above hlt⟩

/-- One check over the numbers below n. -/
theorem isFirst_firstFailure {code n : Nat} {ok : Nat → Bool} (h : ∀ k, fails code k ↔ k < n ∧ ok k = false) :
    IsFirst fails code code (firstFailure code n ok) := by
  unfold firstFailure
  cases hf : (List.range n).find? fun i => !ok i with
  | none =>
    intro c k hl hh failing
    obtain rfl : c = code := le_antisymm hh hl
    obtain ⟨within, bad⟩ := (h k).1 failing
    have good := List.find?_eq_none.1 hf k (List.mem_range.2 within)
    rw [bad] at good
    exact good rfl
  | some i =>
    obtain ⟨bad, within, before⟩ := List.find?_range_eq_some.1 hf
    refine ⟨le_rfl, le_rfl, (h i).2 ⟨List.mem_range.1 within, by simpa using bad⟩, fun k hk failing => ?_,
      fun c k hl hlt => absurd hlt (not_lt_of_ge hl)⟩
    have good := before k hk
    rw [((h k).1 failing).2] at good
    cases good

end

/-! ### The checks over the lanes -/

theorem laneFailure_eq (code : Nat) (ok : LaneId → Bool) :
    laneFailure code ok = firstFailure code 4 fun k => (laneOf? k).all ok := by
  have ids : List.range 4 = laneIds.map Fin.val := rfl
  have test : (fun k => !(laneOf? k).all ok) ∘ Fin.val = fun i => !ok i := by
    funext i
    rw [Function.comp_apply, laneOf?_val]
    rfl
  unfold laneFailure firstFailure
  rw [ids, List.find?_map, test, Option.map_map]
  rfl

theorem isFirst_laneFailure {fails : Nat → Nat → Prop} {code : Nat} {ok : LaneId → Bool}
    (h : ∀ k, fails code k ↔ ∃ i : LaneId, k = i.val ∧ ok i = false) :
    IsFirst fails code code (laneFailure code ok) := by
  rw [laneFailure_eq]
  refine isFirst_firstFailure fun k => (h k).trans ⟨?_, ?_⟩
  · rintro ⟨i, rfl, bad⟩
    rw [laneOf?_val]
    exact ⟨i.isLt, bad⟩
  · rintro ⟨within, bad⟩
    refine ⟨⟨k, within⟩, rfl, ?_⟩
    rw [laneOf?_val ⟨k, within⟩] at bad
    exact bad

/-! ### Check 4: the boundaries of a lane -/

/-- The boundary at a place is below its predecessor, or it is the last and exceeds the window's end. -/
def badBoundary (top prev : Nat) (bs : List Nat) (m : Nat) : Bool :=
  decide (bs.getD m 0 < (prev :: bs).getD m 0) || (decide (m + 1 = bs.length) && decide (top < bs.getD m 0))

theorem badBoundary_cons {top prev b : Nat} {bs : List Nat} :
    badBoundary top prev (b :: bs) ∘ Nat.succ = badBoundary top b bs := by
  funext m
  unfold badBoundary
  simp

theorem boundaryFault_eq (top : Nat) (j prev : Nat) (bs : List Nat) : boundaryFault top j prev bs =
    ((List.range bs.length).find? (badBoundary top prev bs)).map (j + ·) := by
  induction bs generalizing j prev with
  | nil => rfl
  | cons b bs ih =>
    have first : badBoundary top prev (b :: bs) 0 = (decide (b < prev) || (decide (bs = []) && decide (top < b))) := by
      cases bs <;> rfl
    have later : ∀ o : Option Nat, (o.map (j + 1 + ·)) = (o.map Nat.succ).map (j + ·) := by
      intro o
      cases o with
      | none => rfl
      | some m => exact congrArg some (Nat.succ_add_eq_add_succ j m)
    rw [List.length_cons, List.range_succ_eq_map, List.find?_cons, first, List.find?_map, badBoundary_cons]
    cases bs with
    | nil =>
      unfold boundaryFault
      cases decide (b < prev) <;> cases decide (top < b) <;> rfl
    | cons c cs =>
      unfold boundaryFault
      rw [ih, later]
      by_cases h : b < prev
      · simp [h]
      · simp [h]

/-- Zone boundary b_z of a lane, b_0 its window's low end (R40). -/
def DetectTables.bound (t : DetectTables) (i : LaneId) (z : Nat) : Nat :=
  if z = 0 then (t.lanes.get i).winLo else t.boundaries.getD (i.val * 15 + z - 1) 0

/-- Boundary b_z of a lane, m = z - 1, fails check 4. -/
def DetectTables.badBoundary (t : DetectTables) (i : LaneId) (m : Nat) : Bool :=
  Machine.badBoundary ((t.lanes.get i).winHi + 1) (t.lanes.get i).winLo (laneBoundaries t i) m

theorem laneBoundaries_length {t : DetectTables} (h : t.boundaries.length = 60) (i : LaneId) :
    (laneBoundaries t i).length = 15 := by
  have lane := i.isLt
  unfold laneBoundaries
  rw [List.length_take, List.length_drop]
  omega

theorem laneBoundaries_getD (t : DetectTables) (i : LaneId) {m : Nat} (h : m < 15) :
    (laneBoundaries t i).getD m 0 = t.bound i (m + 1) := by
  unfold laneBoundaries DetectTables.bound
  rw [List.getD_eq_getElem?_getD, List.getElem?_take_of_lt h, List.getElem?_drop, if_neg (Nat.succ_ne_zero m),
    List.getD_eq_getElem?_getD]
  rfl

theorem DetectTables.badBoundary_iff {t : DetectTables} (h : t.boundaries.length = 60) (i : LaneId) {m : Nat}
    (hm : m < 15) : t.badBoundary i m = true ↔
      t.bound i (m + 1) < t.bound i m ∨ (m + 1 = 15 ∧ (t.lanes.get i).winHi + 1 < t.bound i 15) := by
  have before : ((t.lanes.get i).winLo :: laneBoundaries t i).getD m 0 = t.bound i m := by
    cases m with
    | zero => rfl
    | succ n => exact laneBoundaries_getD t i (Nat.lt_of_succ_lt hm)
  unfold DetectTables.badBoundary Machine.badBoundary
  rw [before, laneBoundaries_getD t i hm, laneBoundaries_length h, Bool.or_eq_true, Bool.and_eq_true, decide_eq_true_iff,
    decide_eq_true_iff, decide_eq_true_iff]
  refine or_congr_right (and_congr_right fun last => ?_)
  rw [last]

/-- The sixty places of the boundaries: fifteen for each lane. -/
theorem boundaryFailure_eq {t : DetectTables} (h : t.boundaries.length = 60) : boundaryFailure t =
    firstFailure 4 60 fun k => !(laneOf? (k / 15)).any fun i => t.badBoundary i (k % 15) := by
  have places : List.range 60 = laneIds.flatMap fun i => (List.range 15).map (i.val * 15 + ·) := by decide
  have lane : ∀ i : LaneId, (boundaryFault ((t.lanes.get i).winHi + 1) 0 (t.lanes.get i).winLo (laneBoundaries t i)).map
      (fun j => i.val * 15 + j) = ((List.range 15).map (i.val * 15 + ·)).find? fun k =>
        !!(laneOf? (k / 15)).any fun i => t.badBoundary i (k % 15) := by
    intro i
    rw [boundaryFault_eq, laneBoundaries_length h, List.find?_map, Option.map_map]
    have same : ∀ m ∈ List.range 15, t.badBoundary i m = ((fun k => !!(laneOf? (k / 15)).any fun i =>
        t.badBoundary i (k % 15)) ∘ (i.val * 15 + ·)) m := by
      intro m hm
      have hm : m < 15 := List.mem_range.1 hm
      have quotient : (i.val * 15 + m) / 15 = i.val := by omega
      have remainder : (i.val * 15 + m) % 15 = m := by omega
      rw [Function.comp_apply, quotient, remainder, laneOf?_val, Bool.not_not]
      rfl
    rw [← List.find?_congr same]
    refine congrArg (fun f => Option.map f _) (funext fun m => ?_)
    rw [Function.comp_apply, Nat.zero_add]
  unfold boundaryFailure firstFailure
  dsimp only
  rw [places, List.find?_flatMap, funext lane]

/-- Check 4 over the boundaries of the lanes. -/
theorem isFirst_boundaryFailure {fails : Nat → Nat → Prop} {t : DetectTables} (size : t.boundaries.length = 60)
    (h : ∀ k, fails 4 k ↔ ∃ (i : LaneId) (z : Nat), k = i.val * 15 + z - 1 ∧ 1 ≤ z ∧ z ≤ 15 ∧
      (t.bound i z < t.bound i (z - 1) ∨ (z = 15 ∧ (t.lanes.get i).winHi + 1 < t.bound i 15))) :
    IsFirst fails 4 4 (boundaryFailure t) := by
  rw [boundaryFailure_eq size]
  refine isFirst_firstFailure fun k => (h k).trans ⟨?_, ?_⟩
  · rintro ⟨i, z, rfl, positive, most, bad⟩
    obtain ⟨m, rfl⟩ := Nat.exists_eq_add_of_le' positive
    have lane := i.isLt
    have quotient : (i.val * 15 + (m + 1) - 1) / 15 = i.val := by omega
    have remainder : (i.val * 15 + (m + 1) - 1) % 15 = m := by omega
    rw [quotient, remainder, laneOf?_val]
    refine ⟨by omega, ?_⟩
    rw [Option.any_some, (DetectTables.badBoundary_iff size i (Nat.lt_of_succ_le most)).2 bad]
    rfl
  · rintro ⟨within, bad⟩
    let i : LaneId := ⟨k / 15, by omega⟩
    have lane : laneOf? (k / 15) = some i := laneOf?_val i
    rw [lane, Option.any_some, Bool.not_eq_false', DetectTables.badBoundary_iff size i (Nat.mod_lt k (by decide))] at bad
    exact ⟨i, k % 15 + 1, by show k = k / 15 * 15 + (k % 15 + 1) - 1; omega, by omega, by omega, bad⟩

/-- Check 8, which has no index. -/
theorem isFirst_noSpec {fails : Nat → Nat → Prop} {specs : List OrderSpec}
    (h : ∀ k, fails 8 k ↔ k = 0 ∧ ∀ x ∈ specs, x.enable = false) :
    IsFirst fails 8 8 (if specs.any OrderSpec.enable then none else some ⟨8, 0⟩) := by
  split
  · next enabled =>
    intro code k hl hh failing
    obtain rfl : code = 8 := le_antisymm hh hl
    obtain ⟨x, hx, enable⟩ := List.any_eq_true.1 enabled
    rw [((h k).1 failing).2 x hx] at enable
    cases enable
  · next disabled =>
    refine ⟨le_rfl, le_rfl, (h 0).2 ⟨rfl, fun x hx => ?_⟩, fun k hk => absurd hk (Nat.not_lt_zero k),
      fun c k hl hlt => absurd hlt (not_lt_of_ge hl)⟩
    cases enable : x.enable with
    | false => rfl
    | true => exact absurd (List.any_eq_true.2 ⟨x, hx, enable⟩) disabled

/-- Settles O21: each check finds its own first failure, and the checks follow one another in code order. -/
theorem commitChecks : Obligations.CommitChecks := by
  unfold Obligations.CommitChecks
  intro d g size lane bound limit spec zone fails first
  have settled : ∀ {low high found}, IsFirst fails low high found → first low high found := fun h =>
    ⟨h.none_iff, h.some_iff⟩
  have check1 := isFirst_laneFailure (fails := fails) (code := 1) (ok := fun i =>
      (lane i).pixelCount % 32 == 0 && decide (256 ≤ (lane i).pixelCount) && decide ((lane i).pixelCount ≤ 4096))
    fun k => exists_congr fun i => and_congr_right fun _ => by simp [imp_iff_not_or, or_assoc]
  have check2 := isFirst_laneFailure (fails := fails) (code := 2) (ok := fun i => decide ((lane i).winLo ≤ (lane i).winHi))
    fun k => exists_congr fun i => and_congr_right fun _ => by simp
  have check3 := isFirst_laneFailure (fails := fails) (code := 3)
    (ok := fun i => decide ((lane i).winHi < (lane i).pixelCount))
    fun k => exists_congr fun i => and_congr_right fun _ => by simp
  have check4 := isFirst_boundaryFailure (fails := fails) size fun k => Iff.rfl
  have check5 := isFirst_laneFailure (fails := fails) (code := 5) (ok := fun i => decide ((lane i).ownLo < (lane i).ownHi))
    fun k => exists_congr fun i => and_congr_right fun _ => by simp
  have check6 := isFirst_firstFailure (fails := fails) (code := 6) (n := 3)
    (ok := fun z => decide ((zone z).lo < (zone z).hi)) fun k => and_congr_right fun _ => by simp
  have check7 := isFirst_firstFailure (fails := fails) (code := 7) (n := 64)
    (ok := fun c => decide (g.limits.getD c 0 ≤ g.limits.getD (64 + c) 0) &&
      decide (g.limits.getD (64 + c) 0 ≤ g.limits.getD (128 + c) 0))
    fun k => and_congr_right fun _ => by simp [limit, imp_iff_not_or]
  have check8 := isFirst_noSpec (fails := fails) (specs := g.specs) fun k => Iff.rfl
  have check9 := isFirst_firstFailure (fails := fails) (code := 9) (n := 8)
    (ok := fun i => !(spec i).enable || decide (g.minPiece ≤ (spec i).length))
    fun k => and_congr_right fun _ => by simp
  exact ⟨settled (check1.orElse (check2.orElse (check3.orElse (check4.orElse check5 (by decide) (by decide)) (by decide)
      (by decide)) (by decide) (by decide)) (by decide) (by decide)),
    settled (check6.orElse (check7.orElse (check8.orElse check9 (by decide) (by decide)) (by decide) (by decide)) (by decide)
      (by decide))⟩

end Sys2Proof.Machine
end

section
/-! BANK_COMMIT: refused, failed, or accepted, with the switch that an accepted commit takes (R135 to R141). -/

namespace Sys2Proof.Machine

/-! ### The shadow of a group, committed and switched (R132, R135, R139) -/

/-- The group with its shadow COMMITTING (R135). -/
def Group.commit {α : Type} (g : Group α) : Group α := g.setState g.shadow .committing

/-- The group after the switch that a commit waits for, with or without something bound to the replaced bank (R139). -/
def Group.commitSwitch {α : Type} (g : Group α) (bound : Bool) : Group α :=
  g.commit.switch g.shadow g.commit.active bound

section
variable {α : Type} {g : Group α}

/-- Beside the shadow no bank of a lawful group is COMMITTING. -/
theorem shadow_other_ne_committing (ok : g.Ok) : (g.get (otherBank g.shadow)).state ≠ .committing := by
  unfold Group.shadow
  split
  · next active =>
    rw [show (g.get (otherBank 1)).state = .active from beq_iff_eq.1 active]
    exact nofun
  · next inactive => exact fun committing => inactive (beq_iff_eq.2 (ok.shadowCommits committing))

theorem commit_get_other (g : Group α) : g.commit.get (otherBank g.shadow) = g.get (otherBank g.shadow) :=
  setState_get_other g (otherBank_ne _) _

theorem commit_get_shadow (g : Group α) : g.commit.get g.shadow = { g.get g.shadow with state := .committing } :=
  setState_get_self g _ _

theorem commit_find (ok : g.Ok) : g.commit.find .committing = some g.shadow := by
  refine find_eq_some (congrArg Bank.state (commit_get_shadow g)) ?_
  rw [commit_get_other]
  exact shadow_other_ne_committing ok

/-- The bank that a commit's switch replaces is the one beside the shadow. -/
theorem commit_active_eq {old : BankId} (h : g.commit.active = some old) : old = otherBank g.shadow := by
  refine bank_eq_of_ne (fun e => ?_) (otherBank_ne _)
  have active := find_state h
  rw [e, commit_get_shadow] at active
  cases active

/-- What a commit's switch makes of the two banks: the shadow ACTIVE, and a bank that was ACTIVE RETIRING or LOADED. -/
structure CommitSwitched (g t : Group α) (bound : Prop) : Prop where
  new : t.get g.shadow = { g.get g.shadow with state := .active }
  kept : (g.get (otherBank g.shadow)).state ≠ .active → t.get (otherBank g.shadow) = g.get (otherBank g.shadow)
  retired : (g.get (otherBank g.shadow)).state = .active → bound →
    t.get (otherBank g.shadow) = { g.get (otherBank g.shadow) with state := .retiring }
  released : (g.get (otherBank g.shadow)).state = .active → ¬bound →
    t.get (otherBank g.shadow) = { g.get (otherBank g.shadow) with state := .loaded }

theorem commitSwitch_switched (g : Group α) {bound : Bool} {p : Prop} (hb : bound = true ↔ p) :
    CommitSwitched g (g.commitSwitch bound) p := by
  have shadow_ne := (otherBank_ne g.shadow).symm
  unfold Group.commitSwitch Group.switch
  cases ha : g.commit.active with
  | none =>
    have inactive := find_none ha (otherBank g.shadow)
    rw [commit_get_other] at inactive
    refine ⟨?_, fun _ => ?_, fun h => absurd h inactive, fun h => absurd h inactive⟩
    · rw [setState_get_self, commit_get_shadow]
    · rw [setState_get_other _ (otherBank_ne _), commit_get_other]
  | some old =>
    obtain rfl := commit_active_eq ha
    have active := find_state ha
    rw [commit_get_other] at active
    refine ⟨?_, fun h => absurd active h, fun _ h => ?_, fun _ h => ?_⟩
    · rw [setState_get_self, setState_get_other _ shadow_ne, commit_get_shadow]
    · rw [setState_get_other _ (otherBank_ne _), setState_get_self, commit_get_other, if_pos (hb.2 h)]
    · rw [setState_get_other _ (otherBank_ne _), setState_get_self, commit_get_other, if_neg fun e => h (hb.1 e)]

/-- A commit's switch leaves no bank COMMITTING. -/
theorem CommitSwitched.settled {t : Group α} {p : Prop} (h : CommitSwitched g t p) (ok : g.Ok) (b : BankId) :
    (t.get b).state ≠ .committing := by
  by_cases hb : b = g.shadow
  · rw [hb, h.new]
    exact nofun
  · obtain rfl := bank_eq_of_ne hb (otherBank_ne g.shadow)
    by_cases active : (g.get (otherBank g.shadow)).state = .active
    · by_cases bound : p
      · rw [h.retired active bound]
        exact nofun
      · rw [h.released active bound]
        exact nofun
    · rw [h.kept active]
      exact shadow_other_ne_committing ok

end

/-! ### What is bound to the replaced bank (R140, R141) -/

/-- A plate not yet graded is bound to a GRADE bank (R141). -/
def boundPlate (s : State) (b : BankId) : Prop := ∃ p ∈ s.plan.queue, p.bank = b ∧ p.finalGrade = none

theorem gradeBindings_pos {s : State} {b : BankId} : 0 < gradeBindings s b ↔ boundPlate s b := by
  rw [Nat.pos_iff_ne_zero, ne_eq, gradeBindings_eq_zero_iff]
  push Not
  rfl

/-- A GRADE switch that a commit waits for. -/
theorem switchGrade_commit {u : State} {g : Group GradeTables} (ok : g.Ok) (h : u.store.grade = g.commit) :
    switchGrade u = u.withGrade (g.commitSwitch (decide (0 < gradeBindings u (otherBank g.shadow)))) := by
  unfold switchGrade
  rw [h, commit_find ok]
  unfold Group.commitSwitch
  dsimp only
  cases ha : g.commit.active with
  | none => rfl
  | some old =>
    obtain rfl := commit_active_eq ha
    rfl

/-- In STANDBY a DETECT switch gives no line binding, and T_sw is absent after it (R136, R139). -/
theorem switchDetect_commit {u : State} {g : Group DetectTables} (ok : g.Ok) (h : u.store.detect = g.commit)
    (run : u.trunk.run = .standby) : switchDetect none u = u.withStore { u.store with
      detect := g.commitSwitch (decide (0 < detectBindings u (otherBank g.shadow)))
      tSw := none } := by
  have unbound : ∀ old, giveLineBindings old u = u := fun old => if_pos (by rw [run]; rfl)
  unfold switchDetect
  rw [h, commit_find ok]
  unfold Group.commitSwitch
  dsimp only
  cases ha : g.commit.active with
  | none => rfl
  | some old =>
    obtain rfl := commit_active_eq ha
    dsimp only
    rw [unbound, ite_self, h]

/-! ### The planning attempt that a commit causes (R89, R138) -/

/-- `t` has the Table Store of `s`, and its plate queue but for plates put behind it. -/
structure PlatesAdded (s t : State) : Prop where
  store : t.store = s.store
  queue : s.plan.queue <+: t.plan.queue

theorem PlatesAdded.refl (s : State) : PlatesAdded s s := ⟨rfl, List.prefix_refl _⟩

theorem PlatesAdded.trans {s t u : State} (a : PlatesAdded s t) (b : PlatesAdded t u) : PlatesAdded s u :=
  ⟨b.store.trans a.store, a.queue.trans b.queue⟩

/-- A change that leaves the Table Store and the plate queue. -/
theorem PlatesAdded.same {s t : State} (store : t.store = s.store) (queue : t.plan.queue = s.plan.queue) :
    PlatesAdded s t := ⟨store, queue ▸ List.prefix_refl _⟩

theorem raise_platesAdded (k : CondKind) (lane : Option LaneId) (d1 d2 : Nat) (s : State) :
    PlatesAdded s (raise k lane d1 d2 s) := by
  refine PlatesAdded.same ?_ (congrArg Planner.queue (raise_plan k lane d1 d2 s))
  rw [show raise k lane d1 d2 s = _ from raise_frame k lane d1 d2 s]
  rfl

theorem waitForSchedule_platesAdded (s : State) : PlatesAdded s (waitForSchedule s) := by
  unfold waitForSchedule
  split
  · exact PlatesAdded.refl s
  · have raised := raise_platesAdded .scheduleFull none s.plan.nextPlate (low32 s.plan.cLast) s
    exact raised.trans (PlatesAdded.same rfl rfl)

theorem endInWait_platesAdded (w : WaitState) (s : State) : PlatesAdded s (endInWait w s) := by
  cases w with
  | schedule => exact waitForSchedule_platesAdded s
  | none => exact PlatesAdded.same rfl rfl
  | horizon => exact PlatesAdded.same rfl rfl
  | queue => exact PlatesAdded.same rfl rfl

theorem commitPlate_platesAdded {kind : PlateKind} {spec : Option Nat} {predicted : Grade} {c : Nat} {s u : State}
    (h : commitPlate kind spec predicted c s = some u) : PlatesAdded s u := by
  obtain ⟨-, store, -⟩ := commitPlate_keeps h
  obtain ⟨⟨p, queue, -, -⟩, -⟩ := commitPlate_queue h
  exact ⟨store, queue ▸ List.prefix_append _ _⟩

theorem planLoop_platesAdded (n : Nat) (s : State) : PlatesAdded s (planLoop n s) := by
  induction n generalizing s with
  | zero => exact PlatesAdded.refl s
  | succ n ih =>
    cases step : planStep s with
    | wait w => exact planLoop_wait step ▸ endInWait_platesAdded w s
    | nothingMore => exact planLoop_nothingMore step ▸ PlatesAdded.same rfl rfl
    | commit kind spec predicted c =>
      cases commit : commitPlate kind spec predicted c s with
      | none => exact planLoop_refused step commit ▸ waitForSchedule_platesAdded s
      | some u =>
        have added := commitPlate_platesAdded commit
        by_cases tail : kind = .tail
        · subst tail
          exact planLoop_tail step commit ▸ added.trans (PlatesAdded.same rfl rfl)
        · exact planLoop_candidate step commit tail ▸ added.trans (ih u)

theorem takeGradeSwitch_blocks (s : State) :
    (takeGradeSwitch s).store = (switchGrade s).store ∧ (takeGradeSwitch s).plan.queue = s.plan.queue := by
  unfold takeGradeSwitch
  split
  · next none_committing =>
    have same : switchGrade s = s := by
      unfold switchGrade
      rw [none_committing]
    exact ⟨by rw [same], rfl⟩
  · refine ⟨rfl, ?_⟩
    show (switchGrade s).plan.queue = s.plan.queue
    rw [show switchGrade s = _ from switchGrade_frame s]
    rfl

theorem toLoaded_get_of_ne {α : Type} {g : Group α} {st : BankState} {b : BankId} (h : (g.get b).state ≠ st) :
    (g.toLoaded st).get b = g.get b := by
  have one : ∀ x : Bank α, x.state ≠ st → (if x.state == st then { x with state := .loaded } else x) = x :=
    fun x hx => if_neg fun e => hx (beq_iff_eq.1 e)
  fin_cases b
  · exact one _ h
  · exact one _ h

/-- Entry to STANDBY with no GRADE bank COMMITTING makes a RETIRING one LOADED (R132). -/
theorem enterStandby_grade {s : State} (settled : ∀ b, (s.store.grade.get b).state ≠ .committing) :
    (enterStandby s).store.grade = s.store.grade.toLoaded .retiring := by
  have store : (emptyMap (abandonBoth s)).store = s.store := by rw [abandonBoth_frame s]; rfl
  have grade : (switchDetect none (emptyMap (abandonBoth s))).store.grade = s.store.grade := by
    rw [switchDetect_grade, store]
  have unswitched : switchGrade (switchDetect none (emptyMap (abandonBoth s))) =
      switchDetect none (emptyMap (abandonBoth s)) := by
    unfold switchGrade
    split
    · rfl
    · next new found => exact absurd (grade ▸ find_state found) (settled new)
  rw [enterStandby_store]
  show (switchGrade (switchDetect none (emptyMap (abandonBoth s)))).store.grade.toLoaded .retiring = _
  rw [unswitched, grade]

/-- A stop ends with the plate queue empty (R101). -/
theorem checkStopEnd_cases (s : State) : checkStopEnd s = s ∨ (s.plan.queue = [] ∧ checkStopEnd s = enterStandby s) := by
  unfold checkStopEnd
  split
  · next h =>
    simp only [Bool.and_eq_true, List.isEmpty_iff] at h
    exact .inr ⟨h.2, rfl⟩
  · exact .inl rfl

/-- The GRADE banks after an attempt: as the switch leaves them, or with a RETIRING bank LOADED where the attempt ends the
stop, which it does with no plate in the queue. -/
theorem planningAttempt_grade {s : State} (run : s.trunk.run ≠ .standby)
    (settled : ∀ b, ((switchGrade s).store.grade.get b).state ≠ .committing) :
    (planningAttempt s).store.grade = (switchGrade s).store.grade ∨ (s.plan.queue = [] ∧
      (planningAttempt s).store.grade = (switchGrade s).store.grade.toLoaded .retiring) := by
  obtain ⟨store, queue⟩ := takeGradeSwitch_blocks s
  have rounds : PlatesAdded (takeGradeSwitch s) (if (takeGradeSwitch s).plan.complete then takeGradeSwitch s
      else planLoop 129 (takeGradeSwitch s)) := by
    split
    · exact PlatesAdded.refl _
    · exact planLoop_platesAdded _ _
  rw [planningAttempt_run run]
  generalize (if (takeGradeSwitch s).plan.complete then takeGradeSwitch s
    else planLoop 129 (takeGradeSwitch s)) = u at rounds
  have grade : u.store.grade = (switchGrade s).store.grade := congrArg TableStore.grade (rounds.store.trans store)
  rcases checkStopEnd_cases u with same | ⟨empty, ended⟩
  · exact .inl (by rw [same, grade])
  · refine .inr ⟨?_, ?_⟩
    · rw [← queue]
      exact List.prefix_nil.1 (empty ▸ rounds.queue)
    · rw [ended, enterStandby_grade (by rw [grade]; exact settled), grade]

/-- The banks after the attempt that a GRADE commit causes: the shadow ACTIVE, and a bank that was ACTIVE RETIRING while a
plate is bound to it, LOADED otherwise, whether or not the attempt ends the stop (R132, R138, R141). -/
theorem planningAttempt_commit {s : State} {g : Group GradeTables} (ok : g.Ok) (h : s.store.grade = g.commit)
    (run : s.trunk.run ≠ .standby) :
    (planningAttempt s).store.grade.get g.shadow = { g.get g.shadow with state := .active } ∧
    ((g.get (otherBank g.shadow)).state = .active → boundPlate s (otherBank g.shadow) →
      (planningAttempt s).store.grade.get (otherBank g.shadow) = { g.get (otherBank g.shadow) with state := .retiring }) ∧
    ((g.get (otherBank g.shadow)).state = .active → ¬boundPlate s (otherBank g.shadow) →
      (planningAttempt s).store.grade.get (otherBank g.shadow) = { g.get (otherBank g.shadow) with state := .loaded }) := by
  have switched : CommitSwitched g (switchGrade s).store.grade (boundPlate s (otherBank g.shadow)) := by
    rw [switchGrade_commit ok h]
    exact commitSwitch_switched g (by rw [decide_eq_true_iff, gradeBindings_pos])
  have banks := planningAttempt_grade run (switched.settled ok)
  have settled : ∀ b, ((switchGrade s).store.grade.get b).state ≠ .retiring →
      (planningAttempt s).store.grade.get b = (switchGrade s).store.grade.get b := by
    intro b hb
    rcases banks with same | ⟨-, ended⟩
    · rw [same]
    · rw [ended, toLoaded_get_of_ne hb]
  refine ⟨?_, fun active bound => ?_, fun active free => ?_⟩
  · rw [settled _ (by rw [switched.new]; exact nofun), switched.new]
  · rcases banks with same | ⟨empty, -⟩
    · rw [same, switched.retired active bound]
    · obtain ⟨p, mem, -⟩ := bound
      rw [empty] at mem
      cases mem
  · rw [settled _ (by rw [switched.released active free]; exact nofun), switched.released active free]

/-! ### The request (R135) -/

section
variable {group : Byte} {g : GroupId} {s : State}

theorem exec_bankCommit (tag : Byte) (args : List Byte) (s : State) :
    exec (.bankCommit tag args) s = execBankCommit tag args s := rfl

theorem groupOf?_none {v : Nat} (h : 2 ≤ v) : GroupId.ofCode? v = none := by
  obtain ⟨n, rfl⟩ := Nat.exists_eq_add_of_le' h
  rfl

theorem bankCommit_unknown (h : 2 ≤ group.toNat) (tag : Byte) (rest : List Byte) (s : State) :
    exec (.bankCommit tag (group :: rest)) s = respond tag 4 (group :: rest) .malformed [] s := by
  rw [exec_bankCommit]
  unfold execBankCommit
  rw [readFields_one]
  dsimp only
  rw [groupOf?_none h]

variable (known : GroupId.ofCode? group.toNat = some g)
include known

theorem bankCommit_notLoaded (h : g.shadowState s ≠ .loaded) (tag : Byte) (rest : List Byte) :
    exec (.bankCommit tag (group :: rest)) s = respond tag 4 (group :: rest) .notNow [] s := by
  rw [exec_bankCommit]
  unfold execBankCommit
  rw [readFields_one]
  dsimp only
  rw [known]
  exact if_pos (bne_iff_ne.2 h)

theorem bankCommit_failed {f : Failure} (h : g.shadowState s = .loaded) (failed : g.failure s = some f) (tag : Byte)
    (rest : List Byte) : exec (.bankCommit tag (group :: rest)) s = respond tag 4 (group :: rest) .invalid f.bytes s := by
  rw [exec_bankCommit]
  unfold execBankCommit
  rw [readFields_one]
  dsimp only
  rw [known]
  dsimp only
  rw [if_neg (by simp [h]), failed]

theorem bankCommit_accepted (h : g.shadowState s = .loaded) (passed : g.failure s = none) (tag : Byte)
    (rest : List Byte) : exec (.bankCommit tag (group :: rest)) s =
      done (followCommit g (answer ⟨tag, 4, group :: rest⟩ .ok [] (acceptCommit g s))) := by
  rw [exec_bankCommit]
  unfold execBankCommit
  rw [readFields_one]
  dsimp only
  rw [known]
  dsimp only
  rw [if_neg (by simp [h]), passed]

end

/-! ### An accepted commit (R135, R136) -/

section
variable {s : State}

theorem acceptCommit_detect_standby (ok : s.store.detect.Ok) (run : s.trunk.run = .standby) : acceptCommit .detect s =
    s.withStore { s.store with
      detect := s.store.detect.commitSwitch (decide (0 < detectBindings s (otherBank s.store.detect.shadow)))
      tSw := none } :=
  (if_pos (beq_iff_eq.2 run)).trans (switchDetect_commit (u := s.withDetect s.store.detect.commit) ok rfl run)

theorem acceptCommit_detect_run (run : s.trunk.run ≠ .standby) :
    acceptCommit .detect s = s.withDetect s.store.detect.commit := if_neg fun e => run (beq_iff_eq.1 e)

theorem acceptCommit_grade_standby (ok : s.store.grade.Ok) (run : s.trunk.run = .standby) : acceptCommit .grade s =
    s.withGrade (s.store.grade.commitSwitch (decide (0 < gradeBindings s (otherBank s.store.grade.shadow)))) :=
  (if_pos (beq_iff_eq.2 run)).trans (switchGrade_commit (u := s.withGrade s.store.grade.commit) ok rfl)

theorem acceptCommit_grade_run (run : s.trunk.run ≠ .standby) :
    acceptCommit .grade s = s.withGrade s.store.grade.commit := if_neg fun e => run (beq_iff_eq.1 e)

/-- An accepted commit is answered and no more follows, for DETECT and in STANDBY. -/
theorem bankCommit_responds {group : Byte} {g : GroupId} {u : State} (known : GroupId.ofCode? group.toNat = some g)
    (loaded : g.shadowState s = .loaded) (passed : g.failure s = none) (accepted : acceptCommit g s = u)
    (last : g = .detect ∨ u.trunk.run = .standby) (tag : Byte) (rest : List Byte) :
    exec (.bankCommit tag (group :: rest)) s = respond tag 4 (group :: rest) .ok [] u := by
  rw [bankCommit_accepted known loaded passed, accepted]
  refine congrArg done ?_
  cases g with
  | detect => rfl
  | grade =>
    have run : u.trunk.run = .standby := last.resolve_left nofun
    refine planningAttempt_standby ?_
    rcases (answer_plain ⟨tag, 4, group :: rest⟩ .ok [] u).run with same | ⟨stopping, -⟩
    · exact same.trans run
    · exact nomatch run.symm.trans stopping

/-- An answer that finds room changes the urgent queue and ends the request, nothing else. -/
theorem answer_room (room : hasRoom s) (r : Request) (st : Status) (body : List Byte) :
    answer r st body s = s.withTrunk { s.trunk with
      urgent := s.trunk.urgent ++ [.response r.tag r.kind st body]
      executing := if decide (s.trunk.executing = some r) then s.trunk.requests.head? else s.trunk.executing
      requests := if decide (s.trunk.executing = some r) then s.trunk.requests.tail else s.trunk.requests } := by
  unfold answer
  rw [handRecord_room room]
  obtain ⟨e, q, ended, mine, others⟩ := complete_cases r
    (s.withTrunk { s.trunk with urgent := s.trunk.urgent ++ [.response r.tag r.kind st body] })
  rw [ended]
  by_cases h : s.trunk.executing = some r
  · obtain ⟨rfl, rfl⟩ := mine h
    rw [decide_eq_true h]
    rfl
  · obtain ⟨rfl, rfl⟩ := others h
    rw [decide_eq_false h]
    rfl

theorem answer_urgentInFlight (room : hasRoom s) (r : Request) (st : Status) (body : List Byte) :
    urgentInFlight (answer r st body s) = urgentInFlight s ++ [.response r.tag r.kind st body] := by
  rw [answer_room room]
  simp only [urgentInFlight, sendingUrgent, State.withTrunk_trunk, List.append_assoc]

theorem answer_requestOver (room : hasRoom s) (r : Request) (st : Status) (body : List Byte) :
    requestOver r s (answer r st body s) := by
  rw [answer_room room]
  unfold requestOver
  split
  · next mine => exact ⟨if_pos (decide_eq_true mine), if_pos (decide_eq_true mine)⟩
  · next other => exact ⟨if_neg fun e => other (of_decide_eq_true e), if_neg fun e => other (of_decide_eq_true e)⟩

end

/-- An operation below the commands adds to the urgent records in flight. -/
theorem Inner.urgentInFlight {s t : State} (h : Inner s t) : urgentInFlight s <+: urgentInFlight t := by
  unfold Machine.urgentInFlight sendingUrgent
  rw [h.sending]
  exact (List.prefix_append_right_inj _).2 h.urgentPre

/-- Settles O20: the refusals, then the accepted commit by group and run state. -/
theorem bankCommit : Obligations.BankCommit := by
  unfold Obligations.BankCommit
  intro s tag rest room okD okG sd sg od og detect grade boundD boundG passD passG args0 args1 tr
  have known0 : GroupId.ofCode? (0 : Byte).toNat = some .detect := rfl
  have known1 : GroupId.ofCode? (1 : Byte).toNat = some .grade := rfl
  refine ⟨fun h => ?_, fun h => ?_, fun f h failed => ?_, fun f h failed => ?_, fun pass run => ?_, fun pass run => ?_,
    fun pass run => ?_, fun pass run => ?_, fun group h => ?_⟩
  · rw [bankCommit_notLoaded known0 h]
    exact respond_answered room
  · rw [bankCommit_notLoaded known1 h]
    exact respond_answered room
  · rw [bankCommit_failed known0 h failed]
    exact respond_answered room
  · rw [bankCommit_failed known1 h failed]
    exact respond_answered room
  · have bound : decide (0 < detectBindings s od) = true ↔ boundD := by
      rw [decide_eq_true_iff, detectBindings_pos, or_comm, ← exists_or]
    have switched := commitSwitch_switched detect bound
    obtain ⟨t, ht, answered⟩ := respond_answered (tag := tag) (kind := 4) (args := args0) (body := []) (status := .ok)
      (u := s.withStore { s.store with detect := detect.commitSwitch (decide (0 < detectBindings s od)), tSw := none }) room
    refine ⟨_, t, ?_, answered, switched.new, switched.kept, switched.retired, switched.released⟩
    exact (bankCommit_responds known0 pass.1 pass.2 (acceptCommit_detect_standby okD run) (.inl rfl) tag rest).trans ht
  · obtain ⟨t, ht, answered⟩ := respond_answered (tag := tag) (kind := 4) (args := args0) (body := []) (status := .ok)
      (u := s.withDetect detect.commit) room
    refine ⟨t, ?_, answered, ?_, ?_⟩
    · exact (bankCommit_responds known0 pass.1 pass.2 (acceptCommit_detect_run run) (.inl rfl) tag rest).trans ht
    · rw [answered.blocks.store]
      exact commit_get_shadow detect
    · rw [answered.blocks.store]
      exact commit_get_other detect
  · have bound : decide (0 < gradeBindings s og) = true ↔ boundG := decide_eq_true_iff.trans gradeBindings_pos
    have switched := commitSwitch_switched grade bound
    obtain ⟨t, ht, answered⟩ := respond_answered (tag := tag) (kind := 4) (args := args1) (body := []) (status := .ok)
      (u := s.withGrade (grade.commitSwitch (decide (0 < gradeBindings s og)))) room
    refine ⟨_, t, ?_, answered, switched.new, switched.kept, switched.retired, switched.released⟩
    exact (bankCommit_responds known1 pass.1 pass.2 (acceptCommit_grade_standby okG run) (.inr run) tag rest).trans ht
  · intro mine answered
    let committed := s.withGrade grade.commit
    have answer_eq : answer ⟨tag, 4, args1⟩ .ok [] committed = answered := answer_room (s := committed) room _ _ _
    obtain ⟨t, ht, take⟩ := done_afterTake (planningAttempt answered)
    have attempt := planningAttempt_inner answered
    obtain ⟨new, retired, released⟩ := planningAttempt_commit (s := answered) okG rfl run
    refine ⟨t, ?_, take, ?_, ?_, ?_, ?_, ?_, ?_, ?_⟩
    · rw [bankCommit_accepted known1 pass.1 pass.2, acceptCommit_grade_run run]
      exact (congrArg (fun u => done (planningAttempt u)) answer_eq).trans ht
    · have answered_flight := answer_urgentInFlight (s := committed) room ⟨tag, 4, args1⟩ .ok []
      rw [answer_eq] at answered_flight
      rw [take.inFlight]
      exact answered_flight ▸ attempt.urgentInFlight
    · have answered_over := answer_requestOver (s := committed) room ⟨tag, 4, args1⟩ .ok []
      unfold requestOver at answered_over ⊢
      rw [take.executing, take.requests, attempt.executing, attempt.requests, ← answer_eq]
      exact answered_over
    · rw [take.blocks.store]
      exact new
    · rw [take.blocks.store]
      exact retired
    · rw [take.blocks.store]
      exact released
    · exact (congrArg PositionUnit.p take.blocks.pos).trans attempt.p
    · exact (congrArg TableStore.setup take.blocks.store).trans attempt.setup
  · rw [bankCommit_unknown h]
    exact respond_answered room

end Sys2Proof.Machine
end

section
/-! A raise: where the masks send it, and the one whose notice is dropped at a full urgent queue; CONDITION_CLEAR (R146, R149,
R151, R152, R155, R171). -/

namespace Sys2Proof.Machine

/-! ### The route of a kind (R149) -/

section Route

variable {p : Setup} {k : CondKind}

theorem routeOf_line (gantry : p.delegGantry.testBit (k.code - 1) = false) : routeOf p k = .line := by
  unfold routeOf
  rw [gantry]
  rfl

theorem routeOf_gantry (gantry : p.delegGantry.testBit (k.code - 1) = true)
    (own : p.delegLocal.testBit (k.code - 1) = false) : routeOf p k = .gantry := by
  unfold routeOf
  rw [gantry, own]
  rfl

theorem routeOf_local (gantry : p.delegGantry.testBit (k.code - 1) = true)
    (own : p.delegLocal.testBit (k.code - 1) = true) : routeOf p k = .localOnly := by
  unfold routeOf
  rw [gantry, own]
  rfl

/-- A kind whose deleg_local bit is held at 0 leaves the part. -/
theorem routeOf_leaves (own : p.delegLocal.testBit (k.code - 1) = false) : routeOf p k = .gantry ∨ routeOf p k = .line := by
  cases gantry : p.delegGantry.testBit (k.code - 1) with
  | true => exact .inl (routeOf_gantry gantry own)
  | false => exact .inr (routeOf_line gantry)

end Route

/-- Settles O10: the two held bits that the exceptions need are bit 6 of deleg_local and bit 15 of deleg_gantry. -/
theorem raiseRouting : Obligations.RaiseRouting := by
  unfold Obligations.RaiseRouting
  intro s masks
  exact ⟨fun _ => routeOf_line, fun _ => routeOf_gantry, fun _ => routeOf_local, routeOf_leaves masks.localMap,
    routeOf_line masks.gantryFault⟩

/-! ### A notice dropped (R152, R171) -/

/-- The state after a raise routed to LINE has filled the vacant record and lost its notice. -/
def noticeDropped (k : CondKind) (lane : Option LaneId) (d1 d2 : Nat) (s : State) : State :=
  let u := countRaise k s
  (u.withCond { u.cond with line := some (filledRecord k lane d1 d2 .line false s) }).withTrunk
    { s.trunk with urgentDrops := bump32 s.trunk.urgentDrops }

section Line

variable {s : State} {k : CondKind} (lane : Option LaneId) (d1 d2 : Nat)

theorem raiseOnce_line (route : routeOf s.setup k = .line) :
    raiseOnce k lane d1 d2 s = handleLine k lane d1 d2 false (countRaise k s) := by
  unfold raiseOnce
  rw [route]

theorem handleLine_vacant (e : Bool) (vacant : s.cond.line = none) :
    handleLine k lane d1 d2 e s = handUrgent (.cond (condRecord s k lane d1 d2 .line e))
      (s.withCond { s.cond with line := some (condRecord s k lane d1 d2 .line e) }) := by
  unfold handleLine
  rw [vacant]

theorem handleLine_held (e : Bool) {r : CondRecord} (held : s.cond.line = some r) :
    handleLine k lane d1 d2 e s = (s.withCond { s.cond with line := some r.addFurther }, false) := by
  unfold handleLine
  rw [held]

theorem raiseOnce_dropped (full : ¬hasRoom s) (route : routeOf s.setup k = .line) (vacant : s.cond.line = none) :
    raiseOnce k lane d1 d2 s = (noticeDropped k lane d1 d2 s, true) := by
  rw [raiseOnce_line lane d1 d2 route, handleLine_vacant (s := countRaise k s) lane d1 d2 false vacant,
    handUrgent_full (s := (countRaise k s).withCond _) full]
  rfl

/-- A dropped notice of TRUNK_OVERRUN raises nothing further. -/
theorem raise_overrun_dropped (full : ¬hasRoom s) (route : routeOf s.setup .trunkOverrun = .line)
    (vacant : s.cond.line = none) :
    raise .trunkOverrun lane d1 d2 s = noticeDropped .trunkOverrun lane d1 d2 s := by
  unfold raise
  rw [raiseOnce_dropped lane d1 d2 full route vacant]
  rfl

/-- Any other dropped notice raises TRUNK_OVERRUN, which finds the LINE record just filled and counts against it. -/
theorem raise_dropped (full : ¬hasRoom s) (other : k ≠ .trunkOverrun) (route : routeOf s.setup k = .line)
    (overrun : routeOf s.setup .trunkOverrun = .line) (vacant : s.cond.line = none) :
    raise k lane d1 d2 s =
      let u := countRaise .trunkOverrun (noticeDropped k lane d1 d2 s)
      u.withCond { u.cond with line := some (filledRecord k lane d1 d2 .line false s).addFurther } := by
  have once : raise k lane d1 d2 s = (raiseOnce .trunkOverrun none 2 k.code (noticeDropped k lane d1 d2 s)).1 := by
    unfold raise
    rw [raiseOnce_dropped lane d1 d2 full route vacant]
    exact if_pos (by simpa using other)
  rw [once, raiseOnce_line (s := noticeDropped k lane d1 d2 s) none 2 k.code overrun,
    handleLine_held (s := countRaise .trunkOverrun (noticeDropped k lane d1 d2 s)) none 2 k.code false rfl]

end Line

/-- Settles O11: with room by `raise_room`; at a full queue a drop is TRUNK_OVERRUN's own or another kind's. -/
theorem raiseIsHandledWhole : Obligations.RaiseIsHandledWhole := by
  unfold Obligations.RaiseIsHandledWhole
  refine ⟨fun k lane d1 d2 _ => raise_room k lane d1 d2, fun k lane d1 d2 s full gantry vacant => ?_⟩
  have route : ∀ k, routeOf s.setup k = .line := fun k => routeOf_line (by rw [gantry, Nat.zero_testBit])
  by_cases overrun : k = .trunkOverrun
  · subst overrun
    rw [raise_overrun_dropped lane d1 d2 full (route _) vacant]
    exact ⟨fun other => absurd rfl other, fun _ => ⟨rfl, rfl⟩, rfl, rfl⟩
  · rw [raise_dropped lane d1 d2 full overrun (route k) (route _) vacant]
    exact ⟨fun _ => ⟨rfl, rfl⟩, fun same => absurd same overrun, rfl, rfl⟩

/-! ### CONDITION_CLEAR (R155) -/

section Clear

variable (tag : Byte) (rest : List Byte) (s : State)

theorem conditionClear_gantry : exec (.conditionClear tag (0 :: rest)) s =
    respond tag 15 (0 :: rest) .ok (optBytes 24 CondRecord.bytes s.cond.gantry)
      (s.withCond { s.cond with gantry := none }) := by
  show execConditionClear tag (0 :: rest) s = _
  unfold execConditionClear
  rw [readFields_one]
  rfl

theorem conditionClear_line : exec (.conditionClear tag (1 :: rest)) s =
    respond tag 15 (1 :: rest) .ok (optBytes 24 CondRecord.bytes s.cond.line)
      (s.withCond { s.cond with line := none }) := by
  show execConditionClear tag (1 :: rest) s = _
  unfold execConditionClear
  rw [readFields_one]
  rfl

theorem conditionClear_unknown {level : Byte} (h : 2 ≤ level.toNat) :
    exec (.conditionClear tag (level :: rest)) s = respond tag 15 (level :: rest) .malformed [] s := by
  show execConditionClear tag (level :: rest) s = _
  unfold execConditionClear
  rw [readFields_one]
  obtain ⟨n, hn⟩ := Nat.exists_eq_add_of_le' h
  rw [hn]
  rfl

theorem conditionClear_short : exec (.conditionClear tag []) s = respond tag 15 [] .malformed [] s := by
  show execConditionClear tag [] s = _
  unfold execConditionClear
  rw [readFields_none [1] [] Nat.zero_lt_one]

end Clear

/-- ALARM's function level is low while the LINE record is vacant (R153). -/
theorem functionLevel_alarm_vacant {s : State} (vacant : s.cond.line = none) : functionLevel .alarm s = false := by
  rw [← Bool.not_eq_true, functionLevel_alarm_iff, vacant]
  exact nofun

/-- Settles O12, level by level. -/
theorem conditionClear : Obligations.ConditionClear := by
  unfold Obligations.ConditionClear
  intro s tag rest room record
  have body : ∀ r, optBytes 24 CondRecord.bytes r = record r
    | none => rfl
    | some _ => rfl
  refine ⟨?_, ?_, fun level unknown => ?_, ?_⟩
  · rw [conditionClear_gantry, body]
    exact respond_answered (u := s.withCond _) room
  · rw [conditionClear_line, body]
    obtain ⟨t, ht, answered⟩ := respond_answered (u := s.withCond { s.cond with line := none }) room
    exact ⟨t, ht, functionLevel_alarm_vacant (congrArg ConditionUnit.line answered.blocks.cond), answered⟩
  · rw [conditionClear_unknown tag rest s unknown]
    exact respond_answered room
  · rw [conditionClear_short]
    exact respond_answered room

end Sys2Proof.Machine
end

section
/-! The shift close, its timer, and REPORT_GET of CLOSED (R159, R160, R161, R162, R163). -/

namespace Sys2Proof.Machine

/-! ### A close (R159, R160) -/

/-- Each lane's gap length in the closing report has the lane's open-gap share in it (R160 step 1). -/
theorem closedReport_gapLength (c : CloseCause) (s : State) (i : LaneId) :
    (closedReport c s).gapLength.get i = sharedGap s i := by
  fin_cases i <;> rfl

/-- The state after a close whose REPORT record found room, the shift timer reloaded (R160 to R162). -/
def shiftClosed (c : CloseCause) (s : State) : State :=
  (s.withReport { s.report.afterClose (closedReport c s) c s.pos.p s.msTime with
    shiftTimer := s.setup.shiftPeriodS, secondPhase := 0 }).withTrunk
      { s.trunk with urgent := s.trunk.urgent ++ [.report (closedReport c s)] }

section Close

variable {s : State}

theorem closeShift_room (c : CloseCause) (room : hasRoom s) : closeShift c s =
    (s.withReport (s.report.afterClose (closedReport c s) c s.pos.p s.msTime)).withTrunk
      { s.trunk with urgent := s.trunk.urgent ++ [.report (closedReport c s)] } :=
  handRecord_room (s := s.withReport _) room

theorem reloadShift_closeShift (c : CloseCause) (room : hasRoom s) :
    reloadShift (closeShift c s) = shiftClosed c s := by
  rw [closeShift_room c room]
  rfl

/-- The REPORT record of a close takes one place of the urgent queue. -/
theorem shiftClosed_hasRoom (c : CloseCause) (room : s.trunk.urgent.length + 2 ≤ Config.urgentSlots) :
    hasRoom (shiftClosed c s) := by
  have length : (shiftClosed c s).trunk.urgent.length = s.trunk.urgent.length + 1 := List.length_append
  unfold hasRoom
  omega

theorem shiftClose_eq (room : hasRoom s) (tag : Byte) (args : List Byte) : exec (.shiftClose tag args) s =
    respond tag 12 args .ok (leBytes 2 s.report.current.shift) (shiftClosed .request s) :=
  congrArg (respond tag 12 args .ok (leBytes 2 s.report.current.shift)) (reloadShift_closeShift .request room)

/-! ### The shift timer (R162) -/

theorem shiftDue_iff (s : State) :
    shiftDue s = true ↔ 0 < s.setup.shiftPeriodS ∧ s.report.shiftTimer = 0 := by
  unfold shiftDue
  rw [Bool.and_eq_true, decide_eq_true_iff, beq_iff_eq]

theorem shiftExpiry_due (due : shiftDue s = true) (room : hasRoom s) : shiftExpiry s = shiftClosed .timer s :=
  (if_pos due).trans (reloadShift_closeShift .timer room)

theorem shiftExpiry_not_due (h : ¬shiftDue s = true) : shiftExpiry s = s := if_neg h

end Close

/-! ### REPORT_GET (R163) -/

section Closed

variable (tag : Byte) (rest : List Byte) (s : State)

theorem reportGet_closed : exec (.reportGet tag (1 :: rest)) s =
    respond tag 13 (1 :: rest) .ok (closedBody s) (s.withReport { s.report with unread := false }) := by
  show execReportGet tag (1 :: rest) s = _
  unfold execReportGet
  rw [readFields_one]
  rfl

theorem reportGet_unknown {sel : Byte} (h : 2 ≤ sel.toNat) :
    exec (.reportGet tag (sel :: rest)) s = respond tag 13 (sel :: rest) .malformed [] s := by
  show execReportGet tag (sel :: rest) s = _
  unfold execReportGet
  rw [readFields_one]
  obtain ⟨n, hn⟩ := Nat.exists_eq_add_of_le' h
  rw [hn]
  rfl

end Closed

theorem closedBody_some {s : State} {r : Report} (h : s.report.closed = some r) :
    closedBody s = 1 :: (r.bytes ++ [if s.report.unread then 1 else 0]) := by
  unfold closedBody
  rw [h]
  cases s.report.unread <;> rfl

/-- An absent report: a presence byte 0, then 281 zeros (log entries 12 and 9). -/
theorem closedBody_none {s : State} (h : s.report.closed = none) : closedBody s = List.replicate 282 0 := by
  unfold closedBody
  rw [h]
  rfl

/-- Settles O49: the shares, the close by request and by the timer, and what REPORT_GET selects. -/
theorem shiftCloseAndReportGet : Obligations.ShiftCloseAndReportGet := by
  unfold Obligations.ShiftCloseAndReportGet
  intro s tag args rest rp old share closed after
  refine ⟨closedReport_gapLength (s := s), fun room2 => ?_, fun period zero room => ?_, fun early => ?_,
    fun room => ⟨fun r held => ?_, fun empty => ?_, fun sel unknown => ?_⟩⟩
  · have room : hasRoom s := by
      unfold hasRoom
      omega
    rw [shiftClose_eq room]
    exact respond_answered (shiftClosed_hasRoom .request room2)
  · have closes : exec .shiftTimerExpiry s = done (after .timer) :=
      congrArg done (shiftExpiry_due ((shiftDue_iff s).2 ⟨period, zero⟩) room)
    rw [closes]
    exact done_afterTake _
  · have not_due : ¬shiftDue s = true := by
      rw [shiftDue_iff]
      rintro ⟨period, zero⟩
      rcases early with off | running
      · exact period.ne' off
      · exact running.ne' zero
    have stays : exec .shiftTimerExpiry s = done s := congrArg done (shiftExpiry_not_due not_due)
    rw [stays]
    exact done_afterTake s
  · rw [reportGet_closed, closedBody_some held]
    exact respond_answered (u := s.withReport _) room
  · rw [reportGet_closed, closedBody_none empty]
    exact respond_answered (u := s.withReport _) room
  · rw [reportGet_unknown tag rest s unknown]
    exact respond_answered room

end Sys2Proof.Machine
end

section
/-! The run state, and the outbound records in flight, through every command (R101, R167, R171 to R175). -/

namespace Sys2Proof.Machine

/-! ### The outbound side before the take -/

/-- What is being sent is the same, and both outbound queues only grow at their ends. -/
structure OutboundKept (s u : State) : Prop where
  sending : u.trunk.sending = s.trunk.sending
  urgent : s.trunk.urgent <+: u.trunk.urgent
  flaws : s.trunk.flaws <+: u.trunk.flaws

theorem OutboundKept.trans {s t u : State} (a : OutboundKept s t) (b : OutboundKept t u) : OutboundKept s u :=
  ⟨b.sending.trans a.sending, a.urgent.trans b.urgent, a.flaws.trans b.flaws⟩

theorem OutboundKept.same {s u : State} (hs : u.trunk.sending = s.trunk.sending) (hu : u.trunk.urgent = s.trunk.urgent)
    (hf : u.trunk.flaws = s.trunk.flaws) : OutboundKept s u :=
  ⟨hs, hu ▸ List.prefix_rfl, hf ▸ List.prefix_rfl⟩

theorem OutboundKept.lanes (s : State) (x : PerLane Lane) : OutboundKept s (s.withLanes x) := OutboundKept.same rfl rfl rfl
theorem OutboundKept.map (s : State) (x : FlawMap) : OutboundKept s (s.withMap x) := OutboundKept.same rfl rfl rfl
theorem OutboundKept.runControl (s : State) (r : RunState) (e : Option Nat) :
    OutboundKept s (s.withTrunk { s.trunk with run := r, stopEnd := e }) := OutboundKept.same rfl rfl rfl

theorem OutboundKept.refl (s : State) : OutboundKept s s := OutboundKept.same rfl rfl rfl

theorem Inner.outboundKept {s u : State} (h : Inner s u) : OutboundKept s u := ⟨h.sending, h.urgentPre, h.flawsPre⟩

theorem Kept.outboundKept {s u : State} (k : Kept s u) (hs : u.trunk.sending = s.trunk.sending) : OutboundKept s u :=
  ⟨hs, k.urgentPre, k.flawsPre⟩

/-- A command that ends with a response has, before the take, what it had before the response and more at the ends. -/
theorem respond_outboundKept {tag kind : Byte} {args body : List Byte} {st : Status} {s u : State} (h : OutboundKept s u) :
    ∃ v, respond tag kind args st body u = done v ∧ OutboundKept s v :=
  ⟨_, rfl, h.trans ((answer_kept _ _ _ u).outboundKept (answer_plain _ _ _ u).sending)⟩

/-- A request that only answers. -/
theorem answered_outboundKept (tag kind : Byte) (args body : List Byte) (st : Status) (s : State) :
    ∃ v, respond tag kind args st body s = done v ∧ OutboundKept s v :=
  respond_outboundKept (OutboundKept.refl s)

theorem startRun_outboundKept (s : State) : OutboundKept s (startRun s) := by
  unfold startRun
  dsimp only
  refine OutboundKept.trans ?_ (planningAttempt_inner _).outboundKept
  refine OutboundKept.trans ?_ (recomputeH_inner _).outboundKept
  refine OutboundKept.trans ?_ (OutboundKept.runControl _ _ _)
  refine OutboundKept.trans ?_ (Inner.foldl (startLane_inner _) _ _).outboundKept
  refine OutboundKept.trans ?_ (insertStartCut_inner _ _).outboundKept
  refine OutboundKept.trans ?_ (startPlanner_inner _ _).outboundKept
  refine OutboundKept.trans ?_ (Inner.divert _ _).outboundKept
  refine OutboundKept.trans ?_ (settleDetect_inner _).outboundKept
  exact (OutboundKept.lanes _ _).trans (OutboundKept.map _ _)

theorem stopRun_outboundKept (s : State) : OutboundKept s (stopRun s).1 := by
  have lanes := (stopLanes_inner s).outboundKept
  unfold stopRun
  dsimp only
  refine OutboundKept.trans ?_ (planningAttempt_inner _).outboundKept
  exact lanes.trans ((OutboundKept.map _ _).trans (OutboundKept.runControl _ _ _))

theorem writeSetup_outboundKept (p : Param) (v : Nat) (s : State) : OutboundKept s (writeSetup p v s) := by
  refine (writeSetup_kept p v s).outboundKept ?_
  unfold writeSetup
  dsimp only
  split
  · exact (stallExpiry_plain _).sending
  · split <;> rfl

theorem headReplyArrives_inner (i : LaneId) (f : Frame) (s : State) : Inner s (headReplyArrives i f s) := by
  unfold headReplyArrives
  split
  · exact handRecord_inner _ _
  · exact countMalformed_inner _ _

theorem tableWrite_outboundKept (t : Byte) (a : List Byte) (s : State) :
    ∃ u, execTableWrite t a s = done u ∧ OutboundKept s u := by
  have refused := fun st => answered_outboundKept t 2 a [] st s
  unfold execTableWrite
  split
  · split
    · exact refused _
    · split
      · exact refused _
      · split
        · exact refused _
        · split
          · exact refused _
          · next open_ => exact respond_outboundKept (writeEntry_inner _ _ _ _ (by simpa using open_)).outboundKept
  · exact refused _

theorem tableRead_outboundKept (t : Byte) (a : List Byte) (s : State) :
    ∃ u, execTableRead t a s = done u ∧ OutboundKept s u := by
  have read := fun body st => answered_outboundKept t 3 a body st s
  unfold execTableRead
  split
  · split
    · split <;> exact read _ _
    · exact read _ _
  · exact read _ _

theorem bankCommit_outboundKept (t : Byte) (a : List Byte) (s : State) :
    ∃ u, execBankCommit t a s = done u ∧ OutboundKept s u := by
  have refused := fun body st => answered_outboundKept t 4 a body st s
  unfold execBankCommit
  split
  · split
    · exact refused _ _
    · split
      · exact refused _ _
      · next g _ loaded =>
        split
        · exact refused _ _
        · have accepted := (acceptCommit_inner g s (by simpa using loaded)).outboundKept
          have answered := (answer_kept ⟨t, 4, a⟩ .ok [] (acceptCommit g s)).outboundKept (answer_plain _ _ _ _).sending
          exact ⟨_, rfl, (accepted.trans answered).trans (followCommit_inner _ _).outboundKept⟩
  · exact refused _ _

theorem setupWrite_outboundKept (t : Byte) (a : List Byte) (s : State) :
    ∃ u, execSetupWrite t a s = done u ∧ OutboundKept s u := by
  have refused := fun st => answered_outboundKept t 5 a [] st s
  unfold execSetupWrite
  split
  · split
    · exact refused _
    · split
      · split
        · exact refused _
        · exact respond_outboundKept (writeSetup_outboundKept _ _ s)
      · exact refused _
  · exact refused _

theorem setupRead_outboundKept (t : Byte) (a : List Byte) (s : State) :
    ∃ u, execSetupRead t a s = done u ∧ OutboundKept s u := by
  have read := fun body st => answered_outboundKept t 6 a body st s
  unfold execSetupRead
  split
  · split <;> exact read _ _
  · exact read _ _

theorem runStart_outboundKept (t : Byte) (a : List Byte) (s : State) :
    ∃ u, execRunStart t a s = done u ∧ OutboundKept s u := by
  have refused := fun body st => answered_outboundKept t 7 a body st s
  unfold execRunStart
  split
  · exact refused _ _
  · split
    · exact refused _ _
    · split
      · exact refused _ _
      · exact respond_outboundKept (startRun_outboundKept s)

theorem runStop_outboundKept (t : Byte) (a : List Byte) (s : State) :
    ∃ u, execRunStop t a s = done u ∧ OutboundKept s u := by
  unfold execRunStop
  split
  · exact respond_outboundKept (stopRun_outboundKept s)
  · exact answered_outboundKept _ _ _ _ _ s

theorem laneControl_outboundKept (t : Byte) (a : List Byte) (s : State) :
    ∃ u, execLaneControl t a s = done u ∧ OutboundKept s u := by
  have refused := answered_outboundKept t 9 a [] .malformed s
  have forward : ∀ i m, OutboundKept s (setForward i m s) := fun _ _ => OutboundKept.same rfl rfl rfl
  unfold execLaneControl
  split
  · split
    · split
      · exact respond_outboundKept ((forward _ _).trans (enableLane_inner _ _).outboundKept)
      · exact respond_outboundKept ((forward _ _).trans (disableLane_inner _ _).outboundKept)
      · exact refused
    · exact refused
  · exact refused

theorem reportGet_outboundKept (t : Byte) (a : List Byte) (s : State) :
    ∃ u, execReportGet t a s = done u ∧ OutboundKept s u := by
  unfold execReportGet
  split <;> exact respond_outboundKept (OutboundKept.same rfl rfl rfl)

theorem conditionClear_outboundKept (t : Byte) (a : List Byte) (s : State) :
    ∃ u, execConditionClear t a s = done u ∧ OutboundKept s u := by
  unfold execConditionClear
  split <;> exact respond_outboundKept (OutboundKept.same rfl rfl rfl)

theorem outputSet_outboundKept (t : Byte) (a : List Byte) (s : State) :
    ∃ u, execOutputSet t a s = done u ∧ OutboundKept s u := by
  unfold execOutputSet
  split <;> exact respond_outboundKept (OutboundKept.same rfl rfl rfl)

theorem outputOwner_outboundKept (t : Byte) (a : List Byte) (s : State) :
    ∃ u, execOutputOwner t a s = done u ∧ OutboundKept s u := by
  unfold execOutputOwner
  split <;> exact respond_outboundKept (OutboundKept.same rfl rfl rfl)

/-- What every command but the resets and the transmitter's two events does to the outbound side before the take. -/
theorem exec_outboundKept (c : Instr) (s : State) (hl : LinesOk s) (hpow : ∀ lv, c ≠ .powerOnReset lv)
    (hsoft : ∀ tag args, c ≠ .partReset tag args) (hsent : c ≠ .trunkSendDone) (hdown : c ≠ .trunkLinkDown) :
    ∃ u, exec c s = done u ∧ OutboundKept s u := by
  cases c with
  | powerOnReset lv => exact absurd rfl (hpow lv)
  | partReset t a => exact absurd rfl (hsoft t a)
  | trunkSendDone => exact absurd rfl hsent
  | trunkLinkDown => exact absurd rfl hdown
  | encoderIncrement a b => exact ⟨_, rfl, (encoderChange_kept a b s).outboundKept (encoderChange_plain a b s).sending⟩
  | stallTimerExpiry => exact ⟨_, rfl, (stallExpiry_kept s).outboundKept (stallExpiry_plain s).sending⟩
  | silenceTimerExpiry i => exact ⟨_, rfl, (silenceExpiry_inner i s).outboundKept⟩
  | shiftTimerExpiry => exact ⟨_, rfl, (shiftExpiry_inner s).outboundKept⟩
  | cutAckRise q => exact ⟨_, rfl, (ackRise_inner q s).outboundKept⟩
  | cutAckFall => exact ⟨_, rfl, (ackFall_inner s).outboundKept⟩
  | cutterFaultRise => exact ⟨_, rfl, (faultRise_inner s).outboundKept⟩
  | cutterFaultFall => exact ⟨_, rfl, (faultFall_inner s).outboundKept⟩
  | lineFrame i f => exact ⟨_, rfl, (lineArrives_inner i f s (hl i)).outboundKept⟩
  | headReplyFrame i f => exact ⟨_, rfl, (headReplyArrives_inner i f s).outboundKept⟩
  | laneLinkDown i => exact ⟨_, rfl, (linkDown_kept i s).outboundKept (linkDown_plain i s).sending⟩
  | laneLinkUp i => exact ⟨_, rfl, OutboundKept.same rfl rfl rfl⟩
  | headCommandSent i => exact ⟨_, rfl, OutboundKept.same rfl rfl rfl⟩
  | trunkFrame f => exact ⟨_, rfl, (trunkFrameArrives_kept f s).outboundKept (trunkFrameArrives_plain f s).sending⟩
  | trunkLinkUp => exact ⟨_, rfl, OutboundKept.same rfl rfl rfl⟩
  | headFrameOtherType i f => exact ⟨_, rfl, (countMalformed_inner i s).outboundKept⟩
  | statusGet t a => exact answered_outboundKept _ _ _ _ _ s
  | tableWrite t a => exact tableWrite_outboundKept t a s
  | tableRead t a => exact tableRead_outboundKept t a s
  | bankCommit t a => exact bankCommit_outboundKept t a s
  | setupWrite t a => exact setupWrite_outboundKept t a s
  | setupRead t a => exact setupRead_outboundKept t a s
  | runStart t a => exact runStart_outboundKept t a s
  | runStop t a => exact runStop_outboundKept t a s
  | laneControl t a => exact laneControl_outboundKept t a s
  | cutterHold t a => exact respond_outboundKept (requestHold_inner s).outboundKept
  | cutterRelease t a => exact respond_outboundKept (releaseHold_inner s).outboundKept
  | shiftClose t a => exact respond_outboundKept ((closeShift_inner _ s).trans (Inner.report _ _)).outboundKept
  | reportGet t a => exact reportGet_outboundKept t a s
  | conditionGet t a => exact answered_outboundKept _ _ _ _ _ s
  | conditionClear t a => exact conditionClear_outboundKept t a s
  | outputSet t a => exact outputSet_outboundKept t a s
  | outputOwner t a => exact outputOwner_outboundKept t a s

/-! ### The records in flight -/

theorem sendingUrgent_congr {s u : State} (h : u.trunk.sending = s.trunk.sending) : sendingUrgent u = sendingUrgent s := by
  unfold sendingUrgent
  rw [h]

/-- The FLAW records in flight are the one being sent, then the queue. -/
theorem flawsInFlight_eq (s : State) : flawsInFlight s =
    (match s.trunk.sending with
      | some (.flaw r) => [r]
      | some (.urgent _) => []
      | some (.line _) => []
      | none => []) ++ s.trunk.flaws := by
  unfold flawsInFlight
  split <;> simp [*]

theorem OutboundKept.urgentInFlight {s u : State} (h : OutboundKept s u) :
    Machine.urgentInFlight s <+: Machine.urgentInFlight u := by
  unfold Machine.urgentInFlight
  rw [sendingUrgent_congr h.sending]
  exact (List.prefix_append_right_inj _).2 h.urgent

theorem OutboundKept.flawsInFlight {s u : State} (h : OutboundKept s u) :
    Machine.flawsInFlight s <+: Machine.flawsInFlight u := by
  rw [flawsInFlight_eq, flawsInFlight_eq, h.sending]
  exact (List.prefix_append_right_inj _).2 h.flaws

/-- With nothing being sent the records in flight are those that wait. -/
theorem inFlight_of_idle {s : State} (h : s.trunk.sending = none) :
    urgentInFlight s = s.trunk.urgent ∧ flawsInFlight s = s.trunk.flaws := by
  unfold urgentInFlight sendingUrgent flawsInFlight
  rw [h]
  exact ⟨rfl, rfl⟩

theorem trunkDown_eq (s : State) : trunkDown s = s.withTrunk { s.trunk with
    link := .down
    sending := none
    sendAborts := if s.trunk.sending = none then s.trunk.sendAborts else bump32 s.trunk.sendAborts } := by
  unfold trunkDown
  split
  · next sent => rw [if_neg (by rw [sent]; exact nofun)]
  · next idle => rw [if_pos idle, ← idle]

/-- Settles O60: `OutboundKept` for every command that leaves the transmitter to the take, and for the two events that end a
sending the queues as they were. -/
theorem outboundRecordsKeepTheirOrder : Obligations.OutboundRecordsKeepTheirOrder := by
  unfold Obligations.OutboundRecordsKeepTheirOrder
  intro c s t hl ht hpow hsoft
  refine ⟨fun hsent hdown => ?_, fun ended => ?_⟩
  · obtain ⟨u, hu, kept⟩ := exec_outboundKept c s hl hpow hsoft hsent hdown
    have take := arbiter_afterTake u
    rw [next_of_done (hu.symm.trans ht), take.inFlight, take.blocks.flaws]
    exact ⟨kept.urgentInFlight, kept.flawsInFlight⟩
  · have idle : ∃ x : Trunk, exec c s = done (s.withTrunk x) ∧ x.sending = none ∧ x.urgent = s.trunk.urgent ∧
        x.flaws = s.trunk.flaws := by
      rcases ended with rfl | rfl
      · exact ⟨_, rfl, rfl, rfl, rfl⟩
      · exact ⟨_, congrArg done (trunkDown_eq s), rfl, rfl, rfl⟩
    obtain ⟨x, hx, none_sent, urgent, flaws⟩ := idle
    have take := arbiter_afterTake (s.withTrunk x)
    obtain ⟨urgent', flaws'⟩ := inFlight_of_idle (s := s.withTrunk x) none_sent
    rw [next_of_done (hx.symm.trans ht), take.inFlight, take.blocks.flaws]
    exact ⟨urgent'.trans urgent, flaws'.trans flaws⟩

/-! ### The run state -/

/-- The run state is the same, or a stop has ended (R101). -/
def RunKept (s u : State) : Prop :=
  u.trunk.run = s.trunk.run ∨ (s.trunk.run = .stopping ∧ u.trunk.run = .standby)

theorem RunKept.trans {s t u : State} (a : RunKept s t) (b : RunKept t u) : RunKept s u := by
  rcases a with same | ⟨stopping, ended⟩
  · unfold RunKept at *
    rwa [← same]
  · rcases b with same' | ⟨stopping', _⟩
    · exact .inr ⟨stopping, same'.trans ended⟩
    · rw [ended] at stopping'
      cases stopping'

/-- In INSPECT no inner operation changes the run state. -/
theorem Inner.run_inspect {s u : State} (h : Inner s u) (hs : s.trunk.run = .inspect) : u.trunk.run = .inspect := by
  rcases h.run with same | ⟨stopping, _⟩
  · exact same.trans hs
  · rw [hs] at stopping
    cases stopping

/-- A command that ends with a response, and the take, leave the run state to what came before the response. -/
theorem respond_runKept {tag kind : Byte} {args body : List Byte} {st : Status} {s u t : State} (h : RunKept s u)
    (ht : respond tag kind args st body u = .next t) : RunKept s t := by
  rw [next_of_done ht]
  exact (h.trans (answer_plain _ _ _ u).run).trans (.inl (arbiter_afterTake _).blocks.run)

theorem writeSetup_runKept (p : Param) (v : Nat) (s : State) : RunKept s (writeSetup p v s) := by
  unfold writeSetup
  dsimp only
  split
  · exact RunKept.trans (t := s.withStore _) (.inl rfl) (stallExpiry_plain _).run
  · split <;> exact .inl rfl

theorem setupWrite_runKept {tag : Byte} {args : List Byte} {s t : State} (ht : execSetupWrite tag args s = .next t) :
    RunKept s t := by
  have same : RunKept s s := .inl rfl
  unfold execSetupWrite at ht
  split at ht
  · split at ht
    · exact respond_runKept same ht
    · split at ht
      · split at ht
        · exact respond_runKept same ht
        · exact respond_runKept (writeSetup_runKept _ _ s) ht
      · exact respond_runKept same ht
  · exact respond_runKept same ht

theorem outputSet_runKept {tag : Byte} {args : List Byte} {s t : State} (ht : execOutputSet tag args s = .next t) :
    RunKept s t := by
  have written : ∀ x, RunKept s (s.withOutputs x) := fun _ => .inl rfl
  have same : RunKept s s := .inl rfl
  unfold execOutputSet at ht
  split at ht
  · exact respond_runKept (written _) ht
  · exact respond_runKept same ht

theorem outputOwner_runKept {tag : Byte} {args : List Byte} {s t : State} (ht : execOutputOwner tag args s = .next t) :
    RunKept s t := by
  have written : ∀ x, RunKept s (s.withOutputs x) := fun _ => .inl rfl
  have same : RunKept s s := .inl rfl
  unfold execOutputOwner at ht
  split at ht
  · exact respond_runKept (written _) ht
  · exact respond_runKept same ht

theorem trunkDown_run (s : State) : (trunkDown s).trunk.run = s.trunk.run := by
  rw [trunkDown_eq]
  rfl

/-- Every command but the resets and the run control keeps the run state, or ends a stop. -/
theorem exec_runKept {c : Instr} {s t : State} (hl : LinesOk s) (ht : exec c s = .next t)
    (hpow : ∀ lv, c ≠ .powerOnReset lv) (hsoft : ∀ tag args, c ≠ .partReset tag args)
    (hstart : ∀ tag args, c ≠ .runStart tag args) (hstop : ∀ tag args, c ≠ .runStop tag args) : RunKept s t := by
  have taken : ∀ u, exec c s = done u → RunKept s u → RunKept s t := by
    intro u hu kept
    rw [next_of_done (hu.symm.trans ht)]
    exact kept.trans (.inl (arbiter_afterTake u).blocks.run)
  have plain : (∃ u, exec c s = done u ∧ Plain s u) → RunKept s t := fun ⟨u, hu, k⟩ => taken u hu k.run
  have others := exec_plain c s hl hpow hsoft
  cases c with
  | runStart tag args => exact absurd rfl (hstart tag args)
  | runStop tag args => exact absurd rfl (hstop tag args)
  | setupWrite tag args => exact setupWrite_runKept ht
  | outputSet tag args => exact outputSet_runKept ht
  | outputOwner tag args => exact outputOwner_runKept ht
  | trunkLinkDown => exact taken (trunkDown s) rfl (.inl (trunkDown_run s))
  | trunkSendDone => exact taken (s.withTrunk { s.trunk with sending := none }) rfl (.inl rfl)
  | _ => exact plain (others nofun nofun nofun nofun nofun nofun nofun)

/-- RUN_START's effect leaves the part in INSPECT (R173). -/
theorem startRun_run (s : State) : (startRun s).trunk.run = .inspect := by
  unfold startRun
  dsimp only
  generalize laneIds.foldl _ _ = u
  exact (planningAttempt_inner _).run_inspect
    ((recomputeH_inner (u.withTrunk { u.trunk with run := .inspect, stopEnd := none })).run_inspect rfl)

/-- RUN_STOP's effect leaves the part in STOPPING, or in STANDBY where the stop has ended at once (R174, R101). -/
theorem stopRun_run (s : State) : (stopRun s).1.trunk.run = .stopping ∨ (stopRun s).1.trunk.run = .standby := by
  unfold stopRun
  dsimp only
  generalize stopLanes s = r
  exact (planningAttempt_inner _).run.imp id And.right

/-- RUN_START keeps the run state, or takes STANDBY to INSPECT (R173). -/
theorem runStart_run {tag : Byte} {args : List Byte} {s t : State} (ht : execRunStart tag args s = .next t) :
    RunKept s t ∨ (s.trunk.run = .standby ∧ t.trunk.run = .inspect) := by
  have refused : ∀ {st body}, respond tag 7 args st body s = .next t →
      RunKept s t ∨ (s.trunk.run = .standby ∧ t.trunk.run = .inspect) := fun h => .inl (respond_runKept (.inl rfl) h)
  unfold execRunStart at ht
  split at ht
  · exact refused ht
  · next standby =>
    split at ht
    · exact refused ht
    · split at ht
      · exact refused ht
      · refine .inr ⟨by simpa using standby, ?_⟩
        rcases respond_runKept (s := startRun s) (.inl rfl) ht with same | ⟨stopping, _⟩
        · exact same.trans (startRun_run s)
        · rw [startRun_run] at stopping
          cases stopping

/-- RUN_STOP keeps the run state, or takes INSPECT out of it (R174). -/
theorem runStop_run {tag : Byte} {args : List Byte} {s t : State} (ht : execRunStop tag args s = .next t) :
    RunKept s t ∨ (s.trunk.run = .inspect ∧ t.trunk.run ≠ .inspect) := by
  unfold execRunStop at ht
  split at ht
  · next inspect =>
    refine .inr ⟨by simpa using inspect, fun still => ?_⟩
    rcases respond_runKept (s := (stopRun s).1) (.inl rfl) ht with same | ⟨_, standby⟩
    · rcases stopRun_run s with stopping | standby <;> simp_all
    · rw [still] at standby
      cases standby
  · exact .inl (respond_runKept (.inl rfl) ht)

/-- Settles O59: `exec_runKept`, and the run control's and the resets' own moves. -/
theorem runStateMoves : Obligations.RunStateMoves := by
  unfold Obligations.RunStateMoves
  intro c s t hl ht
  have kept : RunKept s t → ∀ {p q r : Prop}, t.trunk.run = s.trunk.run ∨ p ∨ q ∨
      (s.trunk.run = .stopping ∧ t.trunk.run = .standby) ∨ r :=
    fun h => h.imp id fun ended => .inr (.inr (.inl ended))
  have others := exec_runKept hl ht
  cases c with
  | powerOnReset lv =>
    rw [next_of_done ht, (arbiter_afterTake _).blocks.run]
    exact .inr (.inr (.inr (.inr ⟨rfl, .inl ⟨lv, rfl⟩⟩)))
  | partReset tag args =>
    rw [next_of_done ht, (arbiter_afterTake _).blocks.run]
    exact .inr (.inr (.inr (.inr ⟨rfl, .inr ⟨tag, args, rfl⟩⟩)))
  | runStart tag args =>
    rcases runStart_run ht with h | ⟨standby, inspect⟩
    · exact kept h
    · exact .inr (.inl ⟨standby, inspect, tag, args, rfl⟩)
  | runStop tag args =>
    rcases runStop_run ht with h | ⟨inspect, left⟩
    · exact kept h
    · exact .inr (.inr (.inl ⟨inspect, left, tag, args, rfl⟩))
  | _ => exact kept (others nofun nofun nofun nofun)

end Sys2Proof.Machine
end

section
/-! The step, the commands' outcomes, and the state after reset (R1, R165, R168, R175). -/

namespace Sys2Proof.Machine

/-- Settles O1: the step's definition on a queue with a front. -/
theorem stepRunsTheFrontCommand : Obligations.StepRunsTheFrontCommand := by
  unfold Obligations.StepRunsTheFrontCommand
  intro s c rest front
  unfold step
  rw [front]

/-- The take answers a next state with the queue of commands and the clock as they were. -/
theorem done_next (u : State) : ∃ t, done u = .next t ∧ t.pending = u.pending ∧ t.msTime = u.msTime :=
  ⟨arbiter u, rfl, (arbiter_afterTake u).blocks.pending, (arbiter_afterTake u).blocks.msTime⟩

/-- Settles O2: `Kept` for every command but the resets, and the two resets. -/
theorem noCommandStops : Obligations.NoCommandStops := by
  unfold Obligations.NoCommandStops
  intro c s hl
  by_cases hpow : ∃ lv, c = .powerOnReset lv
  · obtain ⟨lv, rfl⟩ := hpow
    obtain ⟨t, ht, pending, -⟩ := done_next (powerOn lv s)
    exact ⟨t, ht, pending, fun other => absurd rfl (other lv)⟩
  by_cases hsoft : ∃ tag args, c = .partReset tag args
  · obtain ⟨tag, args, rfl⟩ := hsoft
    obtain ⟨t, ht, pending, time⟩ := done_next (softReset s)
    exact ⟨t, ht, pending, fun _ => time⟩
  obtain ⟨u, hu, kept⟩ := exec_kept c s hl (fun lv e => hpow ⟨lv, e⟩) (fun tag args e => hsoft ⟨tag, args, e⟩)
  obtain ⟨t, ht, pending, time⟩ := done_next u
  exact ⟨t, hu.trans ht, pending.trans kept.pending, fun _ => time.trans kept.msTime⟩

/-- Every lane of the state after reset is a lane after a reset. -/
theorem reset_lanes : State.reset.lanes = State.reset.lanes.map (Lane.afterReset false) := rfl

/-- Settles O53: each law on the reset values. -/
theorem resetKeepsTheLaws : Obligations.ResetKeepsTheLaws := by
  unfold Obligations.ResetKeepsTheLaws
  have lines : LinesOk State.reset := linesOk_of_reset (s := State.reset) false reset_lanes
  have pos : PosLaws State.reset := PosLaws.reset false false rfl
  have collections : CollectionLaws State.reset := CollectionLaws.of_reset rfl rfl rfl (by decide) rfl
  have tables : TableLaws State.reset := powerOn_tableLaws ⟨false, false, false, false⟩ State.reset
  have lanes := (laneLaws_iff State.reset).1 (laneLaws_of_reset (s := State.reset) false reset_lanes)
  exact ⟨lines, pos.position, pos.history, pos.schedule, collections.queues, collections.map, collections.planner,
    tables.banks, tables.masks, lanes.1, lanes.2⟩

end Sys2Proof.Machine
end

section
/-! The lane links' and the trunk link's frames, and the arbiter's order (R167, R168, R170, R172). -/

namespace Sys2Proof.Machine

/-- A command whose operation makes the state `u` ends in `u` after the take. -/
theorem takes_of_done {c : Instr} {s u v : State} (hc : exec c s = done v) (hv : v = u) :
    ∃ t, exec c s = .next t ∧ AfterTake u t := by
  rw [hc, hv]
  exact done_afterTake u

/-! ### Head frames (R170) -/

theorem headReplyArrives_holds {i : LaneId} {f : Frame} {s : State} (h : crcHolds f = true) (room : hasRoom s) :
    headReplyArrives i f s = s.withTrunk { s.trunk with urgent := s.trunk.urgent ++ [.headReply i f.body] } :=
  (if_pos h).trans (handRecord_room room)

theorem headReplyArrives_fails {i : LaneId} {f : Frame} {s : State} (h : crcHolds f = false) :
    headReplyArrives i f s = countMalformed i s := if_neg (by rw [h]; exact Bool.false_ne_true)

/-- Settles O46: the record that a good reply hands, and the lane's counter for the other frames. -/
theorem headFrames : Obligations.HeadFrames := by
  unfold Obligations.HeadFrames
  intro i f s x became counted
  exact ⟨fun h room => takes_of_done rfl (headReplyArrives_holds h room), fun h => takes_of_done rfl (headReplyArrives_fails h),
    takes_of_done rfl rfl, takes_of_done rfl rfl⟩

/-! ### Trunk frames (R167, R168) -/

section Frame
variable {f : Frame} {s : State}

theorem shapeHolds_iff : shapeHolds f = true ↔ f.len.toNat ≤ 8192 ∧ f.body.length = f.len.toNat := by
  simp [shapeHolds]

theorem trunkFrameArrives_crc (h : crcHolds f = false) :
    trunkFrameArrives f s = s.withTrunk { s.trunk with crcErrors := bump32 s.trunk.crcErrors } := by
  unfold trunkFrameArrives
  rw [h]
  rfl

theorem trunkFrameArrives_misshapen (h : crcHolds f = true) (bad : ¬shapeHolds f = true) :
    trunkFrameArrives f s = badFrame s := by
  unfold trunkFrameArrives
  rw [h, Bool.eq_false_iff.2 bad]
  rfl

theorem requestOf_short {body : List Byte} (h : body.length < 2) : requestOf body = none := by
  match body, h with
  | [], _ => rfl
  | [_], _ => rfl

theorem trunkFrameArrives_bad (h : crcHolds f = true)
    (bad : (f.ftype ≠ 16 ∧ f.ftype ≠ 17) ∨ 8192 < f.len.toNat ∨ f.body.length ≠ f.len.toNat ∨
      (f.ftype = 16 ∧ f.body.length < 2) ∨ (f.ftype = 17 ∧ f.body = [])) :
    trunkFrameArrives f s = badFrame s := by
  by_cases shape : shapeHolds f = true
  · obtain ⟨short, long⟩ := shapeHolds_iff.1 shape
    unfold trunkFrameArrives
    rcases bad with ⟨request, head⟩ | tooLong | unlike | ⟨request, few⟩ | ⟨head, empty⟩
    · simp only [h, shape, beq_eq_false_iff_ne.2 request, beq_eq_false_iff_ne.2 head, Bool.not_true, Bool.false_eq_true,
        if_false]
    · omega
    · exact absurd long unlike
    · simp [h, shape, request, requestOf_short few]
    · simp [h, shape, head, empty]
  · exact trunkFrameArrives_misshapen h shape

theorem trunkFrameArrives_request {tag kind : Byte} {args : List Byte} (h : crcHolds f = true) (shape : shapeHolds f = true)
    (request : f.ftype = 16) (body : f.body = tag :: kind :: args) :
    trunkFrameArrives f s = requestArrives ⟨tag, kind, args⟩ s := by
  unfold trunkFrameArrives
  simp [h, shape, request, body, requestOf]

theorem trunkFrameArrives_head {lane : Byte} {message : List Byte} (h : crcHolds f = true) (shape : shapeHolds f = true)
    (head : f.ftype = 17) (body : f.body = lane :: message) :
    trunkFrameArrives f s = headArrives lane.toNat message s := by
  unfold trunkFrameArrives
  simp [h, shape, head, body]

end Frame

section Request
variable {r : Request} {s : State}

theorem requestArrives_departs (idle : s.trunk.executing = none) (empty : s.trunk.requests = []) :
    requestArrives r s = s.withTrunk { s.trunk with executing := some r } := by
  unfold requestArrives depart
  simp only [State.withTrunk_trunk, idle, empty]
  rfl

theorem requestArrives_waits (busy : s.trunk.executing ≠ none) (room : s.trunk.requests.length < 4) :
    requestArrives r s = s.withTrunk { s.trunk with requests := s.trunk.requests ++ [r] } := by
  obtain ⟨other, executing⟩ := Option.ne_none_iff_exists'.1 busy
  unfold requestArrives depart
  rw [if_pos room]
  simp only [State.withTrunk_trunk, executing]

theorem requestArrives_busy (full : s.trunk.requests.length = 4) (room : hasRoom s) : requestArrives r s =
    s.withTrunk { s.trunk with urgent := s.trunk.urgent ++ [.response r.tag r.kind .busy []] } := by
  unfold requestArrives
  rw [if_neg (by rw [full]; decide), handRecord_room room]

end Request

section Head
variable {n : Nat} {message : List Byte} {i : LaneId} {s : State}

theorem headArrives_unknown (h : 4 ≤ n) : headArrives n message s = badFrame s := by
  unfold headArrives
  rw [laneOf?_none h]

theorem headArrives_dropped (h : (s.rx i).link = .down ∨ (s.rx i).headSending ≠ none) : headArrives i.val message s =
    s.withTrunk { s.trunk with headDrops := bump32 s.trunk.headDrops } := by
  have dropped : ((s.rx i).link == .down || (s.rx i).headSending.isSome) = true := by
    simpa [Option.isSome_iff_ne_none] using h
  unfold headArrives
  rw [laneOf?_val]
  exact if_pos dropped

theorem headArrives_sent (up : (s.rx i).link = .up) (free : (s.rx i).headSending = none) :
    headArrives i.val message s = s.modRx i fun x => { x with headSending := some message } := by
  unfold headArrives
  rw [laneOf?_val]
  exact if_neg (by rw [up, free]; decide)

end Head

/-- Settles O47: the checks in their order, and what becomes of a request and of a head command. -/
theorem trunkFrame : Obligations.TrunkFrame := by
  unfold Obligations.TrunkFrame
  intro f s tr bump leaves bad whole
  have leaves_of : ∀ {u}, trunkFrameArrives f s = u → leaves u := takes_of_done rfl
  have shape : whole → crcHolds f = true ∧ shapeHolds f = true := fun ⟨crc, body, short⟩ =>
    ⟨crc, shapeHolds_iff.2 ⟨short, body⟩⟩
  refine ⟨fun crc => leaves_of (trunkFrameArrives_crc crc), fun crc misshapen => leaves_of (trunkFrameArrives_bad crc misshapen),
    fun tag kind args ok request body => ?_, fun lane message ok head body => ?_⟩
  · obtain ⟨crc, ok⟩ := shape ok
    have arrives := trunkFrameArrives_request (s := s) crc ok request body
    exact ⟨fun idle empty => leaves_of (arrives.trans (requestArrives_departs idle empty)),
      fun busy room => leaves_of (arrives.trans (requestArrives_waits busy room)),
      fun full room => leaves_of (arrives.trans (requestArrives_busy full room))⟩
  · obtain ⟨crc, ok⟩ := shape ok
    have arrives := trunkFrameArrives_head (s := s) crc ok head body
    refine ⟨fun unknown => leaves_of (arrives.trans (headArrives_unknown unknown)), fun i known => ?_⟩
    rw [known] at arrives
    exact ⟨fun dropped => leaves_of (arrives.trans (headArrives_dropped dropped)),
      fun up free => leaves_of (arrives.trans (headArrives_sent up free))⟩

/-! ### The arbiter (R172) -/

section Arbiter
variable {s : State}

theorem arbiter_down (h : s.trunk.link = .down) : arbiter s = s := by
  unfold arbiter
  rw [h]
  rfl

theorem arbiter_urgent {r : Urgent} {rest : List Urgent} (up : s.trunk.link = .up) (idle : s.trunk.sending = none)
    (hu : s.trunk.urgent = r :: rest) :
    arbiter s = s.withTrunk { s.trunk with urgent := rest, sending := some (.urgent r) } := by
  unfold arbiter
  rw [up, idle, hu]
  rfl

theorem arbiter_flaw {r : FlawRecord} {rest : List FlawRecord} (up : s.trunk.link = .up) (idle : s.trunk.sending = none)
    (hu : s.trunk.urgent = []) (hf : s.trunk.flaws = r :: rest) :
    arbiter s = s.withTrunk { s.trunk with flaws := rest, sending := some (.flaw r) } := by
  unfold arbiter
  rw [up, idle, hu, hf]
  rfl

theorem arbiter_line {i : LaneId} {l : ForwardLine} (up : s.trunk.link = .up) (idle : s.trunk.sending = none)
    (hu : s.trunk.urgent = []) (hf : s.trunk.flaws = []) (next : nextForward s = some (i, l)) :
    arbiter s = (s.modRx i fun x => { x with slot := none }).withTrunk
      { s.trunk with lastLane := i, sending := some (.line l) } := by
  unfold arbiter
  rw [up, idle, hu, hf, next]
  rfl

theorem arbiter_nothing (idle : s.trunk.sending = none) (hu : s.trunk.urgent = []) (hf : s.trunk.flaws = [])
    (next : nextForward s = none) : arbiter s = s := by
  unfold arbiter
  rw [idle, hu, hf, next]
  simp

/-- The arbiter's search takes the first lane, from the one after the last served, whose slot holds a line. -/
theorem nextForward_first {k : Fin 4} {l : ForwardLine} (slot : (s.rx (s.trunk.lastLane + 1 + k)).slot = some l)
    (earlier : ∀ j : Fin 4, j < k → (s.rx (s.trunk.lastLane + 1 + j)).slot = none) :
    nextForward s = some (s.trunk.lastLane + 1 + k, l) := by
  have order : ∀ n : LaneId, n + 1 + 0 = n + 1 ∧ n + 1 + 1 = n + 2 ∧ n + 1 + 2 = n + 3 ∧ n + 1 + 3 = n := by decide
  obtain ⟨o0, o1, o2, o3⟩ := order s.trunk.lastLane
  have e0 := earlier 0
  have e1 := earlier 1
  have e2 := earlier 2
  rw [o0] at e0
  rw [o1] at e1
  rw [o2] at e2
  unfold nextForward
  match k with
  | 0 =>
    rw [o0] at slot ⊢
    simp only [slot]
  | 1 =>
    rw [o1] at slot ⊢
    simp only [e0 (by decide), slot]
  | 2 =>
    rw [o2] at slot ⊢
    simp only [e0 (by decide), e1 (by decide), slot]
  | 3 =>
    rw [o3] at slot ⊢
    simp only [e0 (by decide), e1 (by decide), e2 (by decide), slot]

theorem nextForward_empty (h : ∀ i, (s.rx i).slot = none) : nextForward s = none := by
  unfold nextForward
  simp only [h]

end Arbiter

/-- Settles O48: the take at each state of the queues and slots, and the link's two reports. -/
theorem arbiterOrder : Obligations.ArbiterOrder := by
  unfold Obligations.ArbiterOrder
  intro s tr free
  have sent : ∀ {u}, arbiter (s.withTrunk free) = u → exec .trunkSendDone s = .next u := fun h => congrArg _ h
  have down : ∀ x : Trunk, x.link = .down → trunkDown s = s.withTrunk x → exec .trunkLinkDown s = .next (s.withTrunk x) :=
    fun x hx hd => congrArg _ ((congrArg arbiter hd).trans (arbiter_down hx))
  refine ⟨fun off => sent (arbiter_down off), fun r rest up hu => sent (arbiter_urgent (s := s.withTrunk free) up rfl hu),
    fun r rest up hu hf => sent (arbiter_flaw (s := s.withTrunk free) up rfl hu hf), ?_,
    fun up hu hf empty => sent (arbiter_nothing rfl hu hf (nextForward_empty empty)), fun idle => ?_, fun busy => ?_,
    ⟨_, rfl, arbiter_afterTake _, fun r rest idle hu => ?_⟩⟩
  · intro k l up hu hf i slot earlier
    exact sent (arbiter_line (s := s.withTrunk free) up rfl hu hf (nextForward_first (s := s.withTrunk free) slot earlier))
  · refine down _ rfl ?_
    rw [trunkDown_eq, if_pos idle, ← idle]
  · refine down _ rfl ?_
    rw [trunkDown_eq, if_neg busy]
    rfl
  · rw [arbiter_urgent (s := s.withTrunk { tr with link := .up }) rfl idle hu]
    exact ⟨rfl, rfl⟩

end Sys2Proof.Machine
end

section
/-! Requests whose arguments are too short, unknown or bad (R116, R133, R134, R142, R169). -/

namespace Sys2Proof.Machine

/-! ### Codes without a meaning -/

theorem TableId.ofCodes?_none {g t : Nat} (h : 2 ≤ g ∨ (g = 0 ∧ 4 ≤ t) ∨ (g = 1 ∧ 6 ≤ t)) :
    TableId.ofCodes? g t = none := by
  unfold TableId.ofCodes?
  split
  all_goals first | rfl | omega

theorem bankOf?_none {v : Nat} (h : 2 ≤ v) : bankOf? v = none := dif_neg (by omega)

theorem Param.ofCode?_none {v : Nat} (h : 17 ≤ v) : Param.ofCode? v = none := by
  unfold Param.ofCode?
  split
  all_goals first | rfl | omega

theorem Output.ofCode?_none {v : Nat} (h : 6 ≤ v) : Output.ofCode? v = none := by
  unfold Output.ofCode?
  split
  all_goals first | rfl | omega

theorem markOf?_none {v : Nat} (h : 2 ≤ v) : markOf? v = none := by
  unfold markOf?
  split
  all_goals first | rfl | omega

/-! ### The requests that read their arguments as fields -/

section Fields
variable (tag : Byte) (s : State)

theorem exec_tableWrite_short {args : List Byte} (h : args.length < 3) :
    exec (.tableWrite tag args) s = respond tag 2 args .malformed [] s := by
  show execTableWrite tag args s = _
  unfold execTableWrite
  rw [readFields_none [1, 1, 1] args h]

theorem exec_tableRead_short {args : List Byte} (h : args.length < 4) :
    exec (.tableRead tag args) s = respond tag 3 args .malformed [] s := by
  show execTableRead tag args s = _
  unfold execTableRead
  rw [readFields_none [1, 1, 1, 1] args h]

theorem exec_bankCommit_short {args : List Byte} (h : args.length < 1) :
    exec (.bankCommit tag args) s = respond tag 4 args .malformed [] s := by
  show execBankCommit tag args s = _
  unfold execBankCommit
  rw [readFields_none [1] args h]

theorem exec_setupWrite_short {args : List Byte} (h : args.length < 1) :
    exec (.setupWrite tag args) s = respond tag 5 args .malformed [] s := by
  show execSetupWrite tag args s = _
  unfold execSetupWrite
  rw [readFields_none [1] args h]

theorem exec_setupRead_short {args : List Byte} (h : args.length < 1) :
    exec (.setupRead tag args) s = respond tag 6 args .malformed [] s := by
  show execSetupRead tag args s = _
  unfold execSetupRead
  rw [readFields_none [1] args h]

theorem exec_laneControl_short {args : List Byte} (h : args.length < 3) :
    exec (.laneControl tag args) s = respond tag 9 args .malformed [] s := by
  show execLaneControl tag args s = _
  unfold execLaneControl
  rw [readFields_none [1, 1, 1] args h]

theorem exec_reportGet_short {args : List Byte} (h : args.length < 1) :
    exec (.reportGet tag args) s = respond tag 13 args .malformed [] s := by
  show execReportGet tag args s = _
  unfold execReportGet
  rw [readFields_none [1] args h]

theorem exec_conditionClear_short {args : List Byte} (h : args.length < 1) :
    exec (.conditionClear tag args) s = respond tag 15 args .malformed [] s := by
  show execConditionClear tag args s = _
  unfold execConditionClear
  rw [readFields_none [1] args h]

variable {group bank table index code : Byte} {rest : List Byte}

/-- TABLE_WRITE by the table that its codes name. -/
theorem exec_tableWrite_unknown (h : TableId.ofCodes? group.toNat table.toNat = none) :
    exec (.tableWrite tag (group :: table :: index :: rest)) s =
      respond tag 2 (group :: table :: index :: rest) .malformed [] s := by
  show execTableWrite tag (group :: table :: index :: rest) s = _
  unfold execTableWrite
  rw [readFields_byte, readFields_byte, readFields_byte]
  simp [readFields, h]

theorem exec_tableWrite_beyond {id : TableId} (h : TableId.ofCodes? group.toNat table.toNat = some id)
    (beyond : id.size ≤ index.toNat ∨ rest.length < id.widths.sum) :
    exec (.tableWrite tag (group :: table :: index :: rest)) s =
      respond tag 2 (group :: table :: index :: rest) .malformed [] s := by
  show execTableWrite tag (group :: table :: index :: rest) s = _
  unfold execTableWrite
  rw [readFields_byte, readFields_byte, readFields_byte]
  simp only [readFields, Option.map_some, h, List.drop_succ_cons, List.drop_zero]
  rcases beyond with beyond | short
  · split
    · rfl
    · exact if_pos beyond
  · rw [readFields_none _ _ short]

theorem exec_tableRead_refused
    (h : TableId.ofCodes? group.toNat table.toNat = none ∨ bankOf? bank.toNat = none ∨
      ∃ id, TableId.ofCodes? group.toNat table.toNat = some id ∧ id.size ≤ index.toNat) :
    exec (.tableRead tag (group :: bank :: table :: index :: rest)) s =
      respond tag 3 (group :: bank :: table :: index :: rest) .malformed [] s := by
  show execTableRead tag (group :: bank :: table :: index :: rest) s = _
  unfold execTableRead
  rw [readFields_byte, readFields_byte, readFields_byte, readFields_byte]
  simp only [readFields, Option.map_some]
  split
  · next id b known known_bank =>
    rcases h with unknown | unknown | ⟨id', known', beyond⟩
    · rw [unknown] at known
      cases known
    · rw [unknown] at known_bank
      cases known_bank
    · obtain rfl : id' = id := Option.some.inj (known'.symm.trans known)
      exact if_pos beyond
  · rfl

theorem exec_setupWrite_refused
    (h : Param.ofCode? code.toNat = none ∨ ∃ p, Param.ofCode? code.toNat = some p ∧ rest.length < p.width) :
    exec (.setupWrite tag (code :: rest)) s = respond tag 5 (code :: rest) .malformed [] s := by
  show execSetupWrite tag (code :: rest) s = _
  unfold execSetupWrite
  rw [readFields_one]
  dsimp only
  rcases h with unknown | ⟨p, known, short⟩
  · rw [unknown]
  · have value : readFields [p.width] ((code :: rest).drop 1) = none := readFields_short p.width [] rest short
    rw [known]
    dsimp only
    rw [value]

theorem exec_setupRead_unknown (h : Param.ofCode? code.toNat = none) :
    exec (.setupRead tag (code :: rest)) s = respond tag 6 (code :: rest) .malformed [] s := by
  show execSetupRead tag (code :: rest) s = _
  unfold execSetupRead
  rw [readFields_one]
  dsimp only
  rw [h]

end Fields

/-! ### OUTPUT_SET and OUTPUT_OWNER (R116) -/

section Pairs
variable (tag : Byte) {args : List Byte} (s : State)

theorem exec_outputSet_refused (h : readOutputs args = none) :
    exec (.outputSet tag args) s = respond tag 16 args .malformed [] s := by
  show execOutputSet tag args s = _
  unfold execOutputSet
  rw [h]

theorem exec_outputOwner_refused (h : readOutputs args = none) :
    exec (.outputOwner tag args) s = respond tag 17 args .malformed [] s := by
  show execOutputOwner tag args s = _
  unfold execOutputOwner
  rw [h]

end Pairs

/-- Pairs read only where their first one is known and the rest read. -/
theorem readPairs_eq_none {n : Nat} {c v : Byte} {rest : List Byte}
    (h : Output.ofCode? c.toNat = none ∨ markOf? v.toNat = none ∨ readPairs n rest = none) :
    readPairs (n + 1) (c :: v :: rest) = none := by
  unfold readPairs
  split
  · next output mark pairs => simp_all
  · rfl

theorem readPairs_short {n : Nat} {bs : List Byte} (h : bs.length < 2 * n) : readPairs n bs = none := by
  induction n generalizing bs with
  | zero => simp at h
  | succ n ih =>
    match bs with
    | [] => rfl
    | [_] => rfl
    | c :: v :: rest =>
      refine readPairs_eq_none (.inr (.inr (ih ?_)))
      simp only [List.length_cons] at h
      omega

/-- A bad pair anywhere among the first `n` refuses them all. -/
theorem readPairs_bad {n : Nat} {pre post : List Byte} {code value : Byte} (even : pre.length % 2 = 0)
    (within : pre.length < 2 * n) (bad : 6 ≤ code.toNat ∨ 2 ≤ value.toNat) :
    readPairs n (pre ++ code :: value :: post) = none := by
  induction n generalizing pre with
  | zero => simp at within
  | succ n ih =>
    match pre with
    | [] => exact readPairs_eq_none (bad.imp Output.ofCode?_none fun h => .inl (markOf?_none h))
    | [_] => simp at even
    | c :: v :: pre =>
      simp only [List.length_cons] at even within
      exact readPairs_eq_none (.inr (.inr (ih (by omega) (by omega))))

theorem readOutputs_eq_none {n : Byte} {rest : List Byte}
    (h : n.toNat = 0 ∨ 6 < n.toNat ∨ readPairs n.toNat rest = none) : readOutputs (n :: rest) = none := by
  unfold readOutputs
  dsimp only
  split
  · next known => exact (h.resolve_left (by omega)).resolve_left (by omega)
  · rfl

/-! ### The tables (9.1) -/

/-- The ten tables by their group and code, with the number of their entries and the bytes of each (log entry 10). -/
def tableRows : List (Byte × Byte × TableId × Nat × Nat) :=
  [(0, 0, .lane, 4, 26), (0, 1, .boundary, 60, 2), (0, 2, .threshold, 64, 4), (0, 3, .cls, 16, 22), (1, 0, .zone, 3, 8),
    (1, 1, .limit, 192, 1), (1, 2, .fatal, 16, 1), (1, 3, .divert, 7, 1), (1, 4, .spec, 8, 6), (1, 5, .plan, 1, 5)]

theorem tableRows_known : ∀ x ∈ tableRows, TableId.ofCodes? x.1.toNat x.2.1.toNat = some x.2.2.1 ∧
    x.2.2.1.size = x.2.2.2.1 ∧ x.2.2.1.widths.sum = x.2.2.2.2 := by decide

/-- Settles O14: each bad form answers MALFORMED in the state as it stands. -/
theorem requestsWithBadArguments : Obligations.RequestsWithBadArguments := by
  unfold Obligations.RequestsWithBadArguments
  have malformed : ∀ {s : State} {c : Instr} {tag kind : Byte} {args : List Byte}, hasRoom s →
      exec c s = respond tag kind args .malformed [] s →
      ∃ t, exec c s = .next t ∧ Answered ⟨tag, kind, args⟩ .malformed [] s t := by
    intro s c tag kind args room he
    rw [he]
    exact respond_answered room
  refine ⟨fun s tag args room => ?_, ?_, ?_⟩
  · have none_read : args.length < 1 → readOutputs args = none := fun short => by
      rw [List.length_eq_zero_iff.1 (Nat.lt_one_iff.1 short)]
      rfl
    exact ⟨fun h => malformed room (exec_tableWrite_short tag s h), fun h => malformed room (exec_tableRead_short tag s h),
      fun h => malformed room (exec_bankCommit_short tag s h), fun h => malformed room (exec_setupWrite_short tag s h),
      fun h => malformed room (exec_setupRead_short tag s h), fun h => malformed room (exec_laneControl_short tag s h),
      fun h => malformed room (exec_reportGet_short tag s h), fun h => malformed room (exec_conditionClear_short tag s h),
      fun h => malformed room (exec_outputSet_refused tag s (none_read h)),
      fun h => malformed room (exec_outputOwner_refused tag s (none_read h))⟩
  · intro s tag n rest room args refused
    have refuse : readOutputs args = none → refused := fun h =>
      ⟨malformed room (exec_outputSet_refused tag s h), malformed room (exec_outputOwner_refused tag s h)⟩
    refine ⟨fun count => refuse (readOutputs_eq_none ?_),
      fun short => refuse (readOutputs_eq_none (.inr (.inr (readPairs_short short)))),
      fun pre post code value split even within bad => refuse (readOutputs_eq_none (.inr (.inr ?_)))⟩
    · exact count.imp id .inl
    · rw [split]
      exact readPairs_bad even within bad
  · intro s tag room tables unknown write read setupWrite setupRead
    refine ⟨fun group bank table index rest => ⟨fun h => ?_, fun h => ?_, fun id size bytes row => ?_⟩,
      fun code rest => ⟨fun h => ?_, fun p known short => ?_⟩⟩
    · have none_named := TableId.ofCodes?_none h
      exact ⟨malformed room (exec_tableWrite_unknown tag s none_named),
        malformed room (exec_tableRead_refused tag s (.inl none_named))⟩
    · exact malformed room (exec_tableRead_refused tag s (.inr (.inl (bankOf?_none h))))
    · obtain ⟨known, hsize, hbytes⟩ := tableRows_known _ row
      dsimp only at hsize hbytes
      refine ⟨known, hsize, hbytes, fun beyond => ?_, fun short => ?_⟩
      · rw [← hsize] at beyond
        exact ⟨malformed room (exec_tableWrite_beyond tag s known (.inl beyond)),
          malformed room (exec_tableRead_refused tag s (.inr (.inr ⟨id, known, beyond⟩)))⟩
      · rw [← hbytes] at short
        exact malformed room (exec_tableWrite_beyond tag s known (.inr short))
    · have none_named := Param.ofCode?_none h
      exact ⟨malformed room (exec_setupWrite_refused tag s (.inl none_named)),
        malformed room (exec_setupRead_unknown tag s none_named)⟩
    · exact malformed room (exec_setupWrite_refused tag s (.inr ⟨p, known, short⟩))

end Sys2Proof.Machine
end

section
/-! The part's own step: a request taken up, or a millisecond counted (00, R5, R30, R162, R168, R169). -/

namespace Sys2Proof.Machine

theorem step_empty {s : State} (h : s.pending = []) : step s = ownStep s := by
  unfold step
  rw [h]

section Request
variable {s : State} {r : Request}

theorem ownStep_executing (h : s.trunk.executing = some r) : ownStep s = done (takeUp r s) := by
  unfold ownStep
  rw [h]

theorem takeUp_known {c : Instr} (h : Instr.ofRequest r = some c) : takeUp r s = s.withPending (s.pending ++ [c]) := by
  unfold takeUp
  rw [h]

theorem takeUp_unknown (h : Instr.ofRequest r = none) : takeUp r s = answer r .malformed [] s := by
  unfold takeUp
  rw [h]

end Request

theorem ownStep_idle {s : State} (h : s.trunk.executing = none) : ownStep s = done (tick s) := by
  unfold ownStep
  rw [h]

/-! ### A millisecond -/

section Tick
variable (s : State)

theorem countMs_rx (i : LaneId) : (countMs s).rx i = (s.rx i).tick := by
  show ((s.lanes.map fun l : Lane => { l with rx := l.rx.tick }).get i).rx = _
  rw [PerLane.get_map]
  rfl

theorem Receiver.tick_silenceTimer (x : Receiver) : x.tick.silenceTimer =
    if x.state = .waiting ∨ x.state = .running then min 65535 (x.silenceTimer + 1) else x.silenceTimer := by
  unfold Receiver.tick
  by_cases h : x.listening = true
  · rw [if_pos h, if_pos ((listening_iff x).1 h)]
    rfl
  · rw [if_neg h, if_neg (fun k => h ((listening_iff x).2 k))]

theorem Receiver.tick_state (x : Receiver) : x.tick.state = x.state := by
  unfold Receiver.tick
  split <;> rfl

section Report
variable {n : Nat} {u : ReportUnit}

theorem ReportUnit.tick_off : u.tick 0 = u := if_pos rfl

theorem ReportUnit.tick_phase (on : 0 < n) (h : u.secondPhase < 999) :
    u.tick n = { u with secondPhase := u.secondPhase + 1 } := by
  unfold ReportUnit.tick
  rw [if_neg on.ne', if_pos (by omega)]

theorem ReportUnit.tick_second (on : 0 < n) (h : 999 ≤ u.secondPhase) :
    u.tick n = { u with secondPhase := 0, shiftTimer := u.shiftTimer - 1 } := by
  unfold ReportUnit.tick
  rw [if_neg on.ne', if_neg (by omega)]

end Report

theorem stall_mem_dueExpiries : Instr.stallTimerExpiry ∈ dueExpiries s ↔ stallDue s = true := by
  unfold dueExpiries
  cases stallDue s <;> cases shiftDue s <;> simp

theorem silence_mem_dueExpiries (i : LaneId) : Instr.silenceTimerExpiry i ∈ dueExpiries s ↔ silenceDue i s = true := by
  have every : i ∈ laneIds := by revert i; decide
  unfold dueExpiries
  cases stallDue s <;> cases shiftDue s <;> simp [every]

theorem shift_mem_dueExpiries : Instr.shiftTimerExpiry ∈ dueExpiries s ↔ shiftDue s = true := by
  unfold dueExpiries
  cases stallDue s <;> cases shiftDue s <;> simp

end Tick

/-- Settles O3: `takeUp` for an executing request, and the counters and the expiries of a millisecond. -/
theorem onAnEmptyQueue : Obligations.OnAnEmptyQueue := by
  unfold Obligations.OnAnEmptyQueue
  refine ⟨fun s r empty executing => ⟨fun c known => ?_, fun unknown room => ?_⟩, fun s empty idle => ?_⟩
  · rw [step_empty empty, ownStep_executing executing, takeUp_known known, empty]
    exact done_afterTake _
  · rw [step_empty empty, ownStep_executing executing, takeUp_unknown unknown]
    exact respond_answered room
  · obtain ⟨t, ht, take⟩ := done_afterTake (tick s)
    have pending : t.pending = dueExpiries (countMs s) := by
      rw [take.blocks.pending]
      exact congrArg (· ++ dueExpiries (countMs s)) empty
    have pos : t.pos = (countMs s).pos := take.blocks.pos
    have report : t.report = (countMs s).report := take.blocks.report
    have rx : ∀ i, t.rx i = { (s.rx i).tick with slot := (t.rx i).slot } := fun i => by
      rw [← countMs_rx]
      exact take_rx _ _ take i
    have timer : ∀ i, (t.rx i).silenceTimer = (s.rx i).tick.silenceTimer := fun i => by rw [rx]
    refine ⟨t, by rw [step_empty empty, ownStep_idle idle, ht], take.blocks.msTime, pos, fun i => ?_, ?_, fun i => ?_,
      fun off => ?_, fun on early => ?_, fun on last => ?_, ?_, take.blocks.map, take.blocks.plan, take.blocks.cutter,
      take.blocks.outputs, take.blocks.store⟩
    · rw [timer, Receiver.tick_silenceTimer]
    · rw [pending, stall_mem_dueExpiries, stallDue_iff, pos]
      exact Iff.rfl
    · rw [pending, silence_mem_dueExpiries, silenceDue_iff, countMs_rx, Receiver.tick_state, timer]
      exact Iff.rfl
    · rw [report]
      show s.report.tick s.setup.shiftPeriodS = _
      rw [off, ReportUnit.tick_off]
    · rw [report]
      exact ReportUnit.tick_phase on early
    · rw [report]
      exact ReportUnit.tick_second on last
    · rw [pending, shift_mem_dueExpiries, shiftDue_iff, report]
      exact Iff.rfl

end Sys2Proof.Machine
end

section
/-! The two resets: the values that both give, and what each gives or keeps of its own (R175). -/

namespace Sys2Proof.Machine

/-- The blocks' values that both resets give (R1, R19, R37, R52, R73, R85, R103, R113, R118, R132, R145, R165), with the
inputs' levels, the head command kept or not, and the records that the reset queues. -/
structure ResetBlocks (levels : InputLevels) (keepHead : Bool) (records : List Urgent) (s u : State) : Prop where
  pos : u.pos = PositionUnit.reset levels.encA levels.encB
  lanes : u.lanes = s.lanes.map (Lane.afterReset keepHead)
  flawId : u.flawId = 0
  map : u.map = FlawMap.reset
  plan : u.plan = Planner.reset
  cutter : u.cutter = Cutter.reset levels.cutterFault levels.cutAck
  divert : u.divert = Divert.reset
  grader : u.grader = Grader.reset
  cond : u.cond = ConditionUnit.reset
  trunk : u.trunk = Trunk.reset s.trunk.link records
  tSw : u.store.tSw = none
  pending : u.pending = s.pending

theorem powerOn_resetBlocks (lv : InputLevels) (s : State) :
    ResetBlocks lv false [.started .powerOn 0 0] s (powerOn lv s) :=
  ⟨rfl, rfl, rfl, rfl, rfl, rfl, rfl, rfl, rfl, rfl, rfl, rfl⟩

theorem softReset_resetBlocks (s : State) :
    ResetBlocks ⟨s.pos.encA, s.pos.encB, s.cutter.ackHigh, s.cutter.faultHigh⟩ true
      [.started .soft s.msTime s.trunk.requests.length, .report (closedReport .reset s)] s (softReset s) :=
  ⟨rfl, rfl, rfl, rfl, rfl, rfl, rfl, rfl, rfl, rfl, rfl, rfl⟩

section Take
variable {levels : InputLevels} {keepHead : Bool} {records : List Urgent} {s u : State}

theorem ResetBlocks.lane (h : ResetBlocks levels keepHead records s u) (i : LaneId) :
    u.lane i = (s.lane i).afterReset keepHead := by
  unfold State.lane
  rw [h.lanes, PerLane.get_map]

/-- The take finds no line in a forward slot. -/
theorem ResetBlocks.take_lane (h : ResetBlocks levels keepHead records s u) (i : LaneId) :
    (arbiter u).lane i = (s.lane i).afterReset keepHead := by
  have take := arbiter_afterTake u
  have empty : (u.rx i).slot = none := congrArg (fun l : Lane => l.rx.slot) (h.lane i)
  rw [(take.blocks.lanes i).1, take_slot_none take empty, ← h.lane i, ← empty]
  rfl

theorem ResetBlocks.take_rx (h : ResetBlocks levels keepHead records s u) (i : LaneId) :
    (arbiter u).rx i = ((s.lane i).afterReset keepHead).rx := congrArg Lane.rx (h.take_lane i)

theorem ResetBlocks.take_urgent (h : ResetBlocks levels keepHead records s u) :
    urgentInFlight (arbiter u) = records := by
  have idle : u.trunk.sending = none := congrArg Trunk.sending h.trunk
  exact (arbiter_afterTake u).inFlight.trans ((inFlight_of_idle idle).1.trans (congrArg Trunk.urgent h.trunk))

theorem ResetBlocks.take_flaws (h : ResetBlocks levels keepHead records s u) : flawsInFlight (arbiter u) = [] := by
  have idle : u.trunk.sending = none := congrArg Trunk.sending h.trunk
  exact (arbiter_afterTake u).blocks.flaws.trans ((inFlight_of_idle idle).2.trans (congrArg Trunk.flaws h.trunk))

theorem ResetBlocks.take_down (h : ResetBlocks levels keepHead records s u) (down : u.trunk.link = .down) :
    (arbiter u).trunk.sending = none := by
  rw [arbiter_down down]
  exact congrArg Trunk.sending h.trunk

/-- With the link UP the first of the queued records is being sent. -/
theorem ResetBlocks.take_up (h : ResetBlocks levels keepHead records s u) (up : u.trunk.link = .up)
    (some_record : records ≠ []) : (arbiter u).trunk.sending = records.head?.map Outbound.urgent := by
  obtain ⟨r, rest, rfl⟩ := List.exists_cons_of_ne_nil some_record
  rw [arbiter_urgent up (congrArg Trunk.sending h.trunk) (congrArg Trunk.urgent h.trunk)]
  rfl

theorem ResetBlocks.take_lastLane (h : ResetBlocks levels keepHead records s u) (some_record : records ≠ []) :
    (arbiter u).trunk.lastLane = 3 := by
  have last : u.trunk.lastLane = 3 := congrArg Trunk.lastLane h.trunk
  cases link : u.trunk.link with
  | down => rw [arbiter_down link, last]
  | up =>
    obtain ⟨r, rest, rfl⟩ := List.exists_cons_of_ne_nil some_record
    rw [arbiter_urgent link (congrArg Trunk.sending h.trunk) (congrArg Trunk.urgent h.trunk)]
    exact last

end Take

/-- A bank's state after a soft reset (R132). -/
theorem softReset_bank {α : Type} (g : Group α) (b : BankId) :
    (((g.toLoaded .committing).toLoaded .retiring).get b).tables = (g.get b).tables ∧
      (((g.toLoaded .committing).toLoaded .retiring).get b).state = (match (g.get b).state with
        | .committing => .loaded
        | .retiring => .loaded
        | x => x) := by
  refine ⟨by rw [toLoaded_tables, toLoaded_tables], ?_⟩
  rw [toLoaded_get, toLoaded_get]
  cases (g.get b).state <;> rfl

theorem powerOn_banks (lv : InputLevels) (s : State) (b : BankId) :
    (powerOn lv s).store.detect.get b = ⟨.empty, DetectTables.powerOn⟩ ∧
      (powerOn lv s).store.grade.get b = ⟨.empty, GradeTables.powerOn⟩ := by
  fin_cases b <;> exact ⟨rfl, rfl⟩

theorem Outputs.reset_get (o : Output) : Outputs.reset.get o = ⟨false, .manual⟩ := by
  cases o <;> rfl

/-- Settles O52: `ResetBlocks` for what both give, and the rest of each reset through the take. -/
theorem resets : Obligations.Resets := by
  unfold Obligations.Resets
  intro s opened common
  have common_of : ∀ {levels keepHead records u}, ResetBlocks levels keepHead records s u → records ≠ [] →
      common (arbiter u) := by
    intro levels keepHead records u h some_record
    have blocks := (arbiter_afterTake u).blocks
    have link : (arbiter u).trunk.link = u.trunk.link := blocks.link
    have trunk : ∀ {α : Type} (f : Trunk → α), f u.trunk = f (Trunk.reset s.trunk.link records) :=
      fun f => congrArg f h.trunk
    have take := arbiter_afterTake u
    dsimp only [common]
    rw [blocks.pos, h.pos, blocks.cutter, h.cutter, h.take_urgent]
    refine ⟨rfl, rfl, rfl, rfl, rfl, rfl, rfl, rfl, rfl, fun n => ?_, rfl, fun i => ?_, blocks.flawId.trans h.flawId,
      blocks.map.trans h.map, blocks.plan.trans h.plan, rfl, rfl, rfl, rfl, rfl, blocks.divert.trans h.divert,
      blocks.grader.trans h.grader, blocks.cond.trans h.cond, blocks.run.trans (trunk Trunk.run),
      blocks.stopEnd.trans (trunk Trunk.stopEnd), take.requests.trans (trunk Trunk.requests),
      take.executing.trans (trunk Trunk.executing), h.take_flaws, link.trans (trunk Trunk.link),
      h.take_lastLane some_record, fun down => h.take_down (link.symm.trans down),
      fun up => h.take_up (link.symm.trans up) some_record, blocks.headDrops.trans (trunk Trunk.headDrops),
      blocks.flawDrops.trans (trunk Trunk.flawDrops), blocks.sendAborts.trans (trunk Trunk.sendAborts),
      blocks.crcErrors.trans (trunk Trunk.crcErrors), blocks.badFrames.trans (trunk Trunk.badFrames),
      blocks.urgentDrops.trans (trunk Trunk.urgentDrops), (congrArg TableStore.tSw blocks.store).trans h.tSw,
      blocks.pending.trans h.pending⟩
    · simp [PositionUnit.reset]
    · rw [h.take_rx, h.take_lane]
      exact ⟨rfl, rfl, rfl, rfl, rfl, rfl, rfl, rfl, rfl, rfl, rfl, rfl, rfl, rfl, rfl, rfl, rfl, rfl, rfl, rfl, rfl⟩
  refine ⟨fun lv => ?_, fun tag args => ?_⟩
  · have h := powerOn_resetBlocks lv s
    have blocks := (arbiter_afterTake (powerOn lv s)).blocks
    refine ⟨_, rfl, common_of h (List.cons_ne_nil _ _), ?_⟩
    rw [blocks.pos, blocks.cutter, blocks.store, blocks.outputs, blocks.report, h.take_urgent]
    exact ⟨rfl, rfl, rfl, rfl, congrArg TableStore.setup blocks.store, powerOn_banks lv s, Outputs.reset_get, blocks.msTime, rfl, rfl⟩
  · have h := softReset_resetBlocks s
    have blocks := (arbiter_afterTake (softReset s)).blocks
    refine ⟨_, rfl, common_of h (List.cons_ne_nil _ _), ?_⟩
    rw [blocks.pos, blocks.cutter, blocks.outputs, blocks.report, h.take_urgent]
    refine ⟨rfl, rfl, rfl, (congrArg TableStore.setup blocks.store).trans rfl, rfl, blocks.msTime, fun b => ?_, rfl, rfl⟩
    rw [blocks.store]
    obtain ⟨detect, detect'⟩ := softReset_bank s.store.detect b
    obtain ⟨grade, grade'⟩ := softReset_bank s.store.grade b
    exact ⟨detect, grade, detect', grade'⟩

end Sys2Proof.Machine
end

section
/-! RUN_START: its checks, the lanes' part in it, and the state in which a run starts (R22, R82, R83, R88, R143, R173). -/

namespace Sys2Proof.Machine

/-! ### The checks (R143, R173) -/

section
variable {tag : Byte} {args : List Byte} {s : State}

theorem runStart_notNow (h : s.trunk.run ≠ .standby ∨ ¬(s.store.detect.active ≠ none ∧ s.store.grade.active ≠ none)) :
    exec (.runStart tag args) s = respond tag 7 args .notNow [] s := by
  show execRunStart tag args s = _
  unfold execRunStart
  by_cases run : s.trunk.run = .standby
  · have missing : (s.store.detect.active.isNone || s.store.grade.active.isNone) = true := by
      have actives := h.resolve_left (not_not.2 run)
      rw [Bool.or_eq_true, Option.isNone_iff_eq_none, Option.isNone_iff_eq_none]
      tauto
    rw [if_neg (by simpa using run), if_pos missing]
  · rw [if_pos (by simpa using run)]

theorem bothActive (actives : s.store.detect.active ≠ none ∧ s.store.grade.active ≠ none) :
    ¬(s.store.detect.active.isNone || s.store.grade.active.isNone) = true := by
  rw [Bool.or_eq_true, Option.isNone_iff_eq_none, Option.isNone_iff_eq_none]
  tauto

variable (run : s.trunk.run = .standby) (actives : s.store.detect.active ≠ none ∧ s.store.grade.active ≠ none)
include run actives

theorem runStart_invalid {f : Failure} {body : List Byte} (h : crossCheck s.setup = some f) (hb : f.bytes = body) :
    exec (.runStart tag args) s = respond tag 7 args .invalid body s := by
  show execRunStart tag args s = _
  unfold execRunStart
  rw [if_neg (by simpa using run), if_neg (bothActive actives), h, ← hb]

theorem runStart_starts (h : crossCheck s.setup = none) :
    exec (.runStart tag args) s = respond tag 7 args .ok (pos6 (newStart s)) (startRun s) := by
  show execRunStart tag args s = _
  unfold execRunStart
  rw [if_neg (by simpa using run), if_neg (bothActive actives), h]

end

section
variable {x : Setup}

theorem crossCheck_divert (h : x.dDiv ≤ x.dCut) : crossCheck x = some ⟨10, 0⟩ := if_pos h

theorem crossCheck_lead (divert : x.dCut < x.dDiv) (h : x.dCut ≤ x.cutLead + x.confirmWindow) :
    crossCheck x = some ⟨11, 0⟩ := (if_neg (Nat.not_le.2 divert)).trans (if_pos h)

theorem crossCheck_net (divert : x.dCut < x.dDiv) (lead : x.cutLead + x.confirmWindow < x.dCut) (h : x.netHi ≤ x.netLo) :
    crossCheck x = some ⟨12, 0⟩ :=
  (if_neg (Nat.not_le.2 divert)).trans ((if_neg (Nat.not_le.2 lead)).trans (if_pos h))

theorem crossCheck_passes (divert : x.dCut < x.dDiv) (lead : x.cutLead + x.confirmWindow < x.dCut)
    (net : x.netLo < x.netHi) : crossCheck x = none :=
  (if_neg (Nat.not_le.2 divert)).trans ((if_neg (Nat.not_le.2 lead)).trans (if_neg (Nat.not_le.2 net)))

end

/-! ### The lanes' part (R22) -/

/-- A lane's receiver after its part in RUN_START at `start`. -/
def Receiver.started (start : Nat) (x : Receiver) : Receiver :=
  if x.state = .idle then
    { x with
      lastTrigger := none
      lastPosition := none
      seeded := false
      silenceTimer := 0
      satRun := 0
      openGap := some (x.openGap.getD start)
      lastClosedGap := none
      lastGapStart := none
      state := .waiting }
  else x

theorem Receiver.started_idle {x : Receiver} (h : x.state = .idle) (start : Nat) :
    (x.started start).state = .waiting ∧ (x.started start).seeded = false ∧ (x.started start).lastPosition = none ∧
      (x.started start).openGap = some (x.openGap.getD start) := by
  unfold Receiver.started
  rw [if_pos h]
  exact ⟨rfl, rfl, rfl, rfl⟩

theorem Receiver.started_other {x : Receiver} (h : x.state ≠ .idle) (start : Nat) : x.started start = x := if_neg h

theorem Receiver.started_inHand (start : Nat) (x : Receiver) : (x.started start).inHand = x.inHand := by
  unfold Receiver.started
  split <;> rfl

/-- A gap opened where there is none, with room in the map, adds one GAP record at most. -/
theorem openGapIfNone_room {s : State} (start : Nat) (i : LaneId) (room : s.map.records.length < 2048) :
    ∃ m : FlawMap, m.h = s.map.h ∧ m.records.length ≤ s.map.records.length + 1 ∧
      openGapIfNone i start s = (s.withMap m).withRx i { s.rx i with openGap := some ((s.rx i).openGap.getD start) } := by
  rw [openGapIfNone_eq]
  cases gap : (s.rx i).openGap with
  | some g =>
    refine ⟨s.map, rfl, Nat.le_succ _, ?_⟩
    rw [if_neg nofun, Option.getD_some, ← gap]
    exact (withRx_self s i).symm
  | none =>
    refine ⟨{ s.map with records := placeRecord (.gap i start none) s.map.records }, rfl,
      (placeRecord_length _ _).le, ?_⟩
    have entered : enterOpenGap i start s = s.withRecords (placeRecord (.gap i start none) s.map.records) := if_pos room
    rw [if_pos rfl, openGap_eq, entered]
    rfl

/-- The start of a lane changes its receiver, and adds one GAP record to the map at most. -/
theorem startLane_eq {s : State} (start : Nat) (i : LaneId) (room : s.map.records.length < 2048) :
    ∃ m : FlawMap, m.h = s.map.h ∧ m.records.length ≤ s.map.records.length + 1 ∧
      startLane start s i = (s.withMap m).withRx i ((s.rx i).started start) := by
  by_cases idle : (s.rx i).state = .idle
  · obtain ⟨m, mh, grown, opened⟩ := openGapIfNone_room (s := s.withRx i { s.rx i with
      lastTrigger := none, lastPosition := none, seeded := false, silenceTimer := 0, satRun := 0 }) start i room
    refine ⟨m, mh, grown, ?_⟩
    unfold startLane Receiver.started
    have waiting := enterWaiting_withRx i start s (s.rx i)
    rw [withRx_self, opened, withRx_rx] at waiting
    rw [if_pos (beq_iff_eq.2 idle), if_pos idle, waiting]
    dsimp only
    rw [withRx_modRx]
    exact withRx_withRx (s.withMap m) i _ _
  · refine ⟨s.map, rfl, Nat.le_succ _, ?_⟩
    rw [Receiver.started_other idle]
    exact (if_neg (by simpa using idle)).trans (withRx_self s i).symm

/-- The lanes of a list started one after another: each lane's receiver is started once, and the trackers stay. -/
theorem startLanes_eq (start : Nat) (ids : List LaneId) (nodup : ids.Nodup) :
    ∀ s : State, s.map.records.length + ids.length ≤ 2048 → ∃ (m : FlawMap) (lanes : PerLane Lane), m.h = s.map.h ∧
      ids.foldl (startLane start) s = (s.withMap m).withLanes lanes ∧
      ∀ i, (lanes.get i).tracker = (s.lane i).tracker ∧
        (lanes.get i).rx = if i ∈ ids then (s.rx i).started start else s.rx i := by
  induction ids with
  | nil => exact fun s _ => ⟨s.map, s.lanes, rfl, rfl, fun i => ⟨rfl, rfl⟩⟩
  | cons j ids ih =>
    intro s room
    rw [List.length_cons] at room
    obtain ⟨fresh, nodup⟩ := List.nodup_cons.1 nodup
    obtain ⟨m, mh, grown, started⟩ := startLane_eq (s := s) start j (by omega)
    obtain ⟨m', lanes, mh', rest, each⟩ := ih nodup (startLane start s j) (by rw [started]; show m.records.length + _ ≤ _; omega)
    have first : ∀ i, (startLane start s j).lane i =
        if i = j then { s.lane j with rx := (s.rx j).started start } else s.lane i := fun i => by
      rw [started]
      exact State.setLane_lane _ _ _ _
    refine ⟨m', lanes, ?_, ?_, fun i => ?_⟩
    · rw [mh', started]
      exact mh
    · rw [List.foldl_cons, rest, started]
      rfl
    · obtain ⟨tracker, rx⟩ := each i
      unfold State.rx at rx ⊢
      rw [tracker, rx, first]
      by_cases hi : i = j
      · subst hi
        rw [if_pos rfl, if_neg fresh, if_pos List.mem_cons_self]
        exact ⟨rfl, rfl⟩
      · simp [hi]

/-! ### The state in which the run starts (R88, R173) -/

/-- The release of a RETIRING DETECT bank touches the DETECT group and T_sw alone. -/
theorem settleDetect_eq (s : State) :
    ∃ d w, settleDetect s = s.withStore { s.store with detect := d, tSw := w } := by
  unfold settleDetect
  split
  · split
    · exact ⟨_, _, rfl⟩
    · exact ⟨s.store.detect, s.store.tSw, rfl⟩
  · exact ⟨s.store.detect, s.store.tSw, rfl⟩

/-- The trackers empty and H at 0, the first of the blocks' start values. -/
def State.cleared (s : State) : State :=
  let u := s.withLanes (s.lanes.map fun l => { l with tracker := Tracker.empty })
  u.withMap { u.map with h := 0 }

/-- No last divert position. -/
def State.undiverted (s : State) : State := s.withDivert { s.divert with last := none }

/-- The state before the lanes start, with the Table Store as the emptied trackers leave it. -/
def startBase (store : TableStore) (s : State) : State :=
  ((s.cleared.withStore store).undiverted.withPlan { s.plan with
      cLast := newStart s
      cursor := firstEnabled store.grade.activeTables
      startCut := some ⟨newStart s, .planned, none, none, none⟩
      trailing := ⟨.planned, newStart s⟩
      complete := false
      wait := .none }).withPos { s.pos with schedule := [⟨cutFire store.setup (newStart s), .cut, 0⟩] }

/-- The state with the run control of a run that has started. -/
def State.inspecting (s : State) : State := s.withTrunk { s.trunk with run := .inspect, stopEnd := none }

/-- The start of a run: the blocks' start values with the start cut scheduled, then the lanes, then the horizon. -/
theorem startRun_eq {s : State} (empty : s.pos.schedule = []) (above : s.pos.p < cutFire s.setup (newStart s)) :
    ∃ d w, startRun s = planningAttempt (recomputeH (laneIds.foldl (startLane (newStart s))
      (startBase { s.store with detect := d, tSw := w } s)).inspecting) := by
  obtain ⟨d, w, settled⟩ := settleDetect_eq s.cleared
  refine ⟨d, w, ?_⟩
  have scheduled : insertEntry ⟨cutFire s.setup (newStart s), .cut, 0⟩
      ((startBase { s.store with detect := d, tSw := w } s).withPos s.pos) =
        .held (startBase { s.store with detect := d, tSw := w } s) := by
    rw [insertEntry_room (by exact above) (by show roomFor .cut s.pos.schedule.length = true; rw [empty]; rfl)]
    show Insertion.held (State.withPos _ { s.pos with schedule := placeEntry _ s.pos.schedule }) = _
    rw [empty]
    rfl
  have cut : insertStartCut (newStart s) ((startBase { s.store with detect := d, tSw := w } s).withPos s.pos) =
      startBase { s.store with detect := d, tSw := w } s := by
    unfold insertStartCut
    dsimp only
    rw [show cutFire ((startBase { s.store with detect := d, tSw := w } s).withPos s.pos).setup (newStart s) =
      cutFire s.setup (newStart s) from rfl, scheduled]
  have steps : startRun s = planningAttempt (recomputeH (laneIds.foldl (startLane (newStart s)) (insertStartCut (newStart s)
      (startPlanner (newStart s) (settleDetect s.cleared).undiverted))).inspecting) := by
    unfold startRun State.inspecting State.undiverted State.cleared
    with_reducible rfl
  rw [steps, settled]
  exact congrArg (fun u => planningAttempt (recomputeH (laneIds.foldl (startLane (newStart s)) u).inspecting)) cut

/-- The lanes as a run starts them. -/
theorem startBase_lanes {s : State} (store : TableStore) (empty : s.map.records = []) :
    ∃ (m : FlawMap) (lanes : PerLane Lane), m.h = 0 ∧
      laneIds.foldl (startLane (newStart s)) (startBase store s) = ((startBase store s).withMap m).withLanes lanes ∧
      ∀ i, (lanes.get i).tracker = Tracker.empty ∧ (lanes.get i).rx = (s.rx i).started (newStart s) := by
  obtain ⟨m, lanes, mh, folded, each⟩ := startLanes_eq (newStart s) laneIds (by decide) (startBase store s)
    (by show s.map.records.length + 4 ≤ 2048; rw [empty]; decide)
  have every : ∀ i : LaneId, i ∈ laneIds := by decide
  have cleared : ∀ i, (startBase store s).lane i = { s.lane i with tracker := Tracker.empty } := fun i =>
    PerLane.get_map _ _ _
  refine ⟨m, lanes, mh, folded, fun i => ?_⟩
  obtain ⟨tracker, rx⟩ := each i
  rw [if_pos (every i)] at rx
  unfold State.rx at rx ⊢
  rw [tracker, rx, cleared]
  exact ⟨rfl, rfl⟩

/-! ### The horizon of a start (R81 to R83) -/

section
variable {u : State} (fresh : ∀ i, (u.rx i).inHand = none)
  (ready : ∀ i, ((u.rx i).state = .waiting ∧ (u.rx i).lastPosition = none) ∨ (u.rx i).state = .disabled)
include fresh ready

/-- Each WAITING lane's horizon is the start, and no other lane is considered. -/
theorem laneHorizonIs_start (i : LaneId) (v : Nat) :
    u.LaneHorizonIs i v ↔ (u.rx i).state = .waiting ∧ v = startPosition u := by
  rw [← laneHorizon_eq_some_iff, laneHorizon_eq, Option.map_eq_some_iff]
  have kept : ∀ w, (u.rx i).heldBack w = w := fun w => by
    unfold Receiver.heldBack
    rw [fresh i]
  simp only [kept, exists_eq_right, tableHorizon_eq_some_iff, State.TableHorizonIs]
  rcases ready i with ⟨waiting, untaken⟩ | disabled
  · have glass : lastGlass i u = startPosition u := by
      unfold lastGlass
      rw [untaken]
    simp [waiting, glass]
  · simp [disabled]

theorem lowestHorizonIs_start (h : ∃ i, (u.rx i).state = .waiting) : u.LowestHorizonIs (startPosition u) := by
  obtain ⟨i, waiting⟩ := h
  have lane := laneHorizonIs_start fresh ready
  exact .inl ⟨⟨i, (lane i _).2 ⟨waiting, rfl⟩⟩, fun j v hv => ((lane j v).1 hv).2.ge⟩

omit fresh ready in
theorem lowestHorizonIs_disabled (h : ∀ i, (u.rx i).state = .disabled) : u.LowestHorizonIs u.pos.p :=
  .inr ⟨fun i => by rw [h i]; exact not_or.2 ⟨nofun, nofun⟩, rfl⟩

end

/-- A new run's H, below the end of its first candidate: the attempts that follow wait on the horizon. -/
theorem planningAttempt_start {u : State} {m : Nat} (run : u.trunk.run = .inspect)
    (settled : ∀ b, (u.store.grade.get b).state ≠ .committing) (incomplete : u.plan.complete = false)
    (zero : u.map.h = 0) (lowest : u.LowestHorizonIs m) (fits : m < 2 ^ 48) (beyond : m < u.candidateEnd) :
    planningAttempt (recomputeH u) = setWait .horizon (u.withMap { u.map with h := m }) := by
  have raised : planningAttempt (u.withMap { u.map with h := m }) = setWait .horizon (u.withMap { u.map with h := m }) :=
    planningAttempt_wait (s := u.withMap { u.map with h := m }) settled incomplete (by rw [State.withMap_trunk, run]; exact nofun)
      (planStep_horizon run beyond)
  have again : planningAttempt (setWait .horizon (u.withMap { u.map with h := m })) =
      setWait .horizon (u.withMap { u.map with h := m }) :=
    planningAttempt_wait (s := setWait .horizon (u.withMap { u.map with h := m })) settled incomplete
      (by show u.trunk.run ≠ .standby; rw [run]; exact nofun) (planStep_horizon run beyond)
  obtain ⟨same, grows⟩ := recomputeH_spec run lowest
  rcases Nat.eq_zero_or_pos m with rfl | positive
  · rw [same (Nat.zero_le _)]
    have stays : u.withMap { u.map with h := 0 } = u := by
      rw [← zero]
      rfl
    rw [stays] at raised ⊢
    exact raised
  · rw [(grows (by omega) fits).1, raised, again]

/-- What RUN_START leaves of the state `s`, where the run's H is `m`. -/
structure RunStarted (s : State) (m : Nat) (u : State) : Prop where
  trunk : u.trunk = { s.trunk with run := .inspect, stopEnd := none }
  pos : u.pos = { s.pos with schedule := [⟨cutFire s.setup (newStart s), .cut, 0⟩] }
  plan : u.plan = { s.plan with
    cLast := newStart s
    cursor := firstEnabled s.store.grade.activeTables
    startCut := some ⟨newStart s, .planned, none, none, none⟩
    trailing := ⟨.planned, newStart s⟩
    complete := false
    wait := .horizon }
  divert : u.divert = { s.divert with last := none }
  h : u.map.h = m
  lanes : ∀ i, (u.lane i).tracker = Tracker.empty ∧ u.rx i = (s.rx i).started (newStart s)

/-- A run started in STANDBY as a run leaves it. -/
theorem startRun_started {s : State} {m : Nat} (states : ∀ i, (s.rx i).state = .idle ∨ (s.rx i).state = .disabled)
    (fresh : ∀ i, (s.rx i).inHand = none) (schedule : s.pos.schedule = []) (records : s.map.records = [])
    (settled : s.store.grade.find .committing = none)
    (order : 1 ≤ (s.store.grade.activeTables.specs.getD (firstEnabled s.store.grade.activeTables) default).length)
    (lead : s.setup.cutLead + s.setup.confirmWindow < s.setup.dCut) (fits : newStart s < 2 ^ 48)
    (above : s.pos.p ≤ newStart s)
    (hm : ((∃ i, (s.rx i).state = .idle) ∧ m = newStart s) ∨ ((∀ i, (s.rx i).state = .disabled) ∧ m = s.pos.p)) :
    RunStarted s m (startRun s) := by
  have fire : s.pos.p < cutFire s.setup (newStart s) := by
    unfold cutFire
    omega
  obtain ⟨d, w, started⟩ := startRun_eq schedule fire
  obtain ⟨map, lanes, zero, folded, each⟩ := startBase_lanes { s.store with detect := d, tSw := w } records
  rw [folded] at started
  generalize hu : (((startBase { s.store with detect := d, tSw := w } s).withMap map).withLanes lanes).inspecting = u
    at started
  have rx : ∀ i, u.rx i = (s.rx i).started (newStart s) := fun i => hu ▸ (each i).2
  have tracker : ∀ i, (u.lane i).tracker = Tracker.empty := fun i => hu ▸ (each i).1
  have position : startPosition u = newStart s := hu ▸ rfl
  have p : u.pos.p = s.pos.p := hu ▸ rfl
  have ready : ∀ i, ((u.rx i).state = .waiting ∧ (u.rx i).lastPosition = none) ∨ (u.rx i).state = .disabled := fun i => by
    rw [rx i]
    rcases states i with idle | disabled
    · obtain ⟨waiting, -, untaken, -⟩ := Receiver.started_idle idle (newStart s)
      exact .inl ⟨waiting, untaken⟩
    · rw [Receiver.started_other (by rw [disabled]; exact nofun)]
      exact .inr disabled
  have lowest : u.LowestHorizonIs m := by
    rcases hm with ⟨⟨i, idle⟩, rfl⟩ | ⟨disabled, rfl⟩
    · rw [← position]
      exact lowestHorizonIs_start (fun i => by rw [rx i, Receiver.started_inHand, fresh i]) ready
        ⟨i, by rw [rx i]; exact (Receiver.started_idle idle _).1⟩
    · rw [← p]
      exact lowestHorizonIs_disabled fun i => by
        rw [rx i, Receiver.started_other (by rw [disabled i]; exact nofun), disabled i]
  have bound : m ≤ newStart s := hm.elim (fun h => h.2.le) fun h => h.2.le.trans above
  have candidate : u.candidateEnd = newStart s +
      (s.store.grade.activeTables.specs.getD (firstEnabled s.store.grade.activeTables) default).length := hu ▸ rfl
  rw [started, planningAttempt_start (by rw [← hu]; rfl) (fun b => by rw [← hu]; exact find_none settled b)
    (by rw [← hu]; rfl) (by rw [← hu]; exact zero) lowest (by omega) (by omega)]
  subst hu
  exact ⟨rfl, rfl, rfl, rfl, rfl, fun i => ⟨tracker i, rx i⟩⟩

/-! ### The statement -/

/-- The lanes, the urgent records and the requests, once the start is answered. -/
theorem RunStarted.answered {s u t : State} {m : Nat} {r : Request} {status : Status} {body : List Byte}
    (h : RunStarted s m u) (ha : Answered r status body u t) :
    (∀ i, (t.lane i).tracker = Tracker.empty) ∧
    (∀ i, (s.rx i).state = .idle → (t.rx i).state = .waiting ∧ (t.rx i).seeded = false ∧ (t.rx i).lastPosition = none ∧
      (t.rx i).openGap = some ((s.rx i).openGap.getD (newStart s))) ∧
    (∀ i, (s.rx i).state = .disabled → (t.rx i).state = .disabled) ∧
    urgentInFlight t = urgentInFlight s ++ [.response r.tag r.kind status body] ∧ requestOver r s t := by
  have lane : ∀ i, t.lane i = { u.lane i with rx := { u.rx i with slot := (t.rx i).slot } } :=
    fun i => (ha.blocks.lanes i).1
  have rx : ∀ i, ∃ slot, t.rx i = { (s.rx i).started (newStart s) with slot := slot } := fun i => by
    rw [← (h.lanes i).2]
    exact ⟨(t.rx i).slot, congrArg Lane.rx (lane i)⟩
  refine ⟨fun i => ?_, fun i idle => ?_, fun i disabled => ?_, ?_, ?_⟩
  · rw [lane i]
    exact (h.lanes i).1
  · obtain ⟨slot, hr⟩ := rx i
    rw [hr]
    exact Receiver.started_idle idle _
  · obtain ⟨slot, hr⟩ := rx i
    rw [hr, Receiver.started_other (by rw [disabled]; exact nofun)]
    exact disabled
  · have inFlight : urgentInFlight u = urgentInFlight s := by
      unfold urgentInFlight sendingUrgent
      rw [h.trunk]
    rw [ha.inFlight, inFlight]
  · have executing : u.trunk.executing = s.trunk.executing := by rw [h.trunk]
    have requests : u.trunk.requests = s.trunk.requests := by rw [h.trunk]
    unfold requestOver
    rw [← executing, ← requests]
    exact ha.finished

/-- Settles O50: the checks in their order, and the state in which the run starts. -/
theorem runStart : Obligations.RunStart := by
  unfold Obligations.RunStart
  intro s tag args room st s0 cmd answers actives tables
  have refused : ∀ {status body}, cmd = respond tag 7 args status body s → answers status body := fun h => by
    show ∃ t, cmd = _ ∧ _
    rw [h]
    exact respond_answered room
  refine ⟨fun h => refused (runStart_notNow h), fun run act => ⟨fun h => ?_, fun div h => ?_, fun div lead h => ?_, ?_⟩⟩
  · exact refused (runStart_invalid run act (crossCheck_divert h) (by decide))
  · exact refused (runStart_invalid run act (crossCheck_lead div h) (by decide))
  · exact refused (runStart_invalid run act (crossCheck_net div lead h) (by decide))
  intro div lead net states fresh schedule firing records queue settled order fits
  have start : newStart s = s0 := heldSum_of_lt fits
  have started : ∀ m, (((∃ i, (s.rx i).state = .idle) ∧ m = s0) ∨ ((∀ i, (s.rx i).state = .disabled) ∧ m = s.pos.p)) →
      RunStarted s m (startRun s) := fun m hm =>
    startRun_started states fresh schedule records settled order lead (by rw [start]; exact fits)
      (by rw [start]; exact Nat.le_add_right _ _) (by rw [start]; exact hm)
  have someH : ∃ m, ((∃ i, (s.rx i).state = .idle) ∧ m = s0) ∨ ((∀ i, (s.rx i).state = .disabled) ∧ m = s.pos.p) := by
    by_cases idle : ∃ i, (s.rx i).state = .idle
    · exact ⟨_, .inl ⟨idle, rfl⟩⟩
    · exact ⟨_, .inr ⟨fun i => (states i).resolve_left fun h => idle ⟨i, h⟩, rfl⟩⟩
  obtain ⟨m, hm⟩ := someH
  have base := started m hm
  obtain ⟨t, ht, ha⟩ := respond_answered (tag := tag) (kind := 7) (args := args) (body := pos6 (newStart s))
    (status := .ok) (u := startRun s) (by unfold hasRoom; rw [base.trunk]; exact room)
  obtain ⟨trackers, idles, disabled, inFlight, finished⟩ := base.answered ha
  have blocks := ha.blocks
  have h : t.map.h = m := by rw [blocks.map, base.h]
  rw [start] at idles inFlight
  refine ⟨t, (runStart_starts run act (crossCheck_passes div lead net)).trans ht, ?_, ?_, ?_, ?_, ?_, ?_, ?_, ?_, ?_, ?_,
    ?_, ?_, trackers, idles, disabled, fun idle => ?_, fun all => ?_, inFlight, finished⟩
  · rw [blocks.run, base.trunk]
  · rw [blocks.stopEnd, base.trunk]
  · rw [blocks.pos, base.pos]
  · rw [blocks.plan, base.plan, start]
  · rw [blocks.plan, base.plan, start]
  · rw [blocks.plan, base.plan, start]
  · rw [blocks.plan, base.plan]
  · rw [blocks.plan, base.plan]
  · rw [blocks.plan, base.plan]
    exact queue
  · rw [blocks.plan, base.plan]
  · rw [blocks.pos, base.pos, start]
    rfl
  · rw [blocks.divert, base.divert]
  · rw [h]
    rcases hm with ⟨-, rfl⟩ | ⟨none, -⟩
    · rfl
    · obtain ⟨i, hi⟩ := idle
      rw [none i] at hi
      cases hi
  · rw [h]
    rcases hm with ⟨⟨i, hi⟩, -⟩ | ⟨-, rfl⟩
    · rw [all i] at hi
      cases hi
    · rfl

end Sys2Proof.Machine
end

section
/-! RUN_STOP: the lanes' part, the planner's attempt and the answer (R32, R34, R83, R174). -/

namespace Sys2Proof.Machine

/-! ### One lane's part of a fold over the lanes -/

section
variable {α : Type} {f : State → LaneId → State} {view : State → α}

theorem foldl_view_others {ids : List LaneId} (others : ∀ j ∈ ids, ∀ u, view (f u j) = view u) (s : State) :
    view (ids.foldl f s) = view s := by
  induction ids generalizing s with
  | nil => rfl
  | cons j ids ih =>
    rw [List.foldl_cons, ih fun k hk => others k (List.mem_cons_of_mem j hk)]
    exact others j List.mem_cons_self s

/-- What one lane's step alone changes is, after a step for every lane, what that step made of the value before. -/
theorem foldl_view {i : LaneId} (others : ∀ j, j ≠ i → ∀ u, view (f u j) = view u) (s : State) :
    ∃ u, view u = view s ∧ view (laneIds.foldl f s) = view (f u i) := by
  have every : ∀ j : LaneId, j ∈ laneIds := by decide
  have once : laneIds.Nodup := by decide
  obtain ⟨pre, post, ids⟩ := List.append_of_mem (every i)
  rw [ids] at once ⊢
  obtain ⟨-, fresh, apart⟩ := List.nodup_append.1 once
  rw [List.foldl_append, List.foldl_cons]
  refine ⟨pre.foldl f s, foldl_view_others (fun j hj => others j (apart j hj i List.mem_cons_self)) s,
    foldl_view_others (fun j hj => others j fun h => ?_) _⟩
  exact (List.nodup_cons.1 fresh).1 (h ▸ hj)

end

/-! ### A flush leaves the other lanes' trackers (R64) -/

theorem closeSlot_tracker_other {i k : LaneId} (h : k ≠ i) (seg : Bool) (s : State) (j : Nat) :
    ((closeSlot i seg s j).lane k).tracker = (s.lane k).tracker := by
  cases hb : (s.lane i).tracker.slot j with
  | free => unfold closeSlot; rw [hb]
  | continuation c => unfold closeSlot; rw [hb]
  | blob b =>
    rw [closeSlot_blob seg hb, lane_of_lanes (recomputeH_lanes _), lane_of_lanes (settleDetect_lanes _),
      State.setLane_lane, if_neg h, lane_of_lanes (settleBlob_lanes i b seg s)]

theorem flush_tracker_other {i k : LaneId} (h : k ≠ i) (s : State) :
    ((flush i s).lane k).tracker = (s.lane k).tracker := by
  have closed : ∀ (js : List Nat) (u : State),
      ((js.foldl (closeSlot i false) u).lane k).tracker = (u.lane k).tracker := by
    intro js
    induction js with
    | nil => exact fun u => rfl
    | cons j js ih => exact fun u => (ih _).trans (closeSlot_tracker_other h false u j)
  unfold flush State.setTracker
  dsimp only
  rw [State.setLane_lane, if_neg h, closed]

/-! ### The planner's attempt, H and the trackers (R73, R101) -/

theorem giveLineBindings_tracker (old : BankId) (s : State) (i : LaneId) :
    ((giveLineBindings old s).lane i).tracker = (s.lane i).tracker := by
  rw [giveLineBindings_lane]

theorem switchDetect_tracker (t : Option Nat) (s : State) (i : LaneId) :
    ((switchDetect t s).lane i).tracker = (s.lane i).tracker := by
  unfold switchDetect
  split
  · rfl
  · split
    · rfl
    · exact giveLineBindings_tracker _ s i

theorem banksAtStandby_tracker (s : State) (i : LaneId) :
    ((banksAtStandby s).lane i).tracker = (s.lane i).tracker := by
  let lanes := (switchGrade (switchDetect none s)).lanes
  show ((lanes.map fun l : Lane => { l with rx := { l.rx with lineBinding := none } }).get i).tracker = _
  rw [PerLane.get_map]
  exact (congrArg Lane.tracker (lane_of_lanes (switchGrade_lanes _) i)).trans (switchDetect_tracker none s i)

theorem enterStandby_tracker (s : State) (i : LaneId) : ((enterStandby s).lane i).tracker = (s.lane i).tracker := by
  rw [enterStandby_eq, setWait, lane_of_lanes (State.withPlan_lanes _ _), banksAtStandby_tracker, abandonBoth_frame s]
  rfl

theorem checkStopEnd_tracker (s : State) (i : LaneId) : ((checkStopEnd s).lane i).tracker = (s.lane i).tracker := by
  rcases checkStopEnd_cases s with stays | ⟨-, ends⟩
  · rw [stays]
  · rw [ends, enterStandby_tracker]

theorem checkStopEnd_h (s : State) : (checkStopEnd s).map.h = s.map.h := by
  rcases checkStopEnd_cases s with stays | ⟨-, ends⟩
  · rw [stays]
  · rw [ends, enterStandby_map]

theorem planningAttempt_tracker (s : State) (i : LaneId) :
    ((planningAttempt s).lane i).tracker = (s.lane i).tracker := by
  by_cases run : s.trunk.run = .standby
  · rw [planningAttempt_standby run]
  · rw [planningAttempt_run run, checkStopEnd_tracker]
    split
    · rw [lane_of_lanes (takeGradeSwitch_lanes s)]
    · rw [lane_of_lanes (planLoop_lanes _ _), lane_of_lanes (takeGradeSwitch_lanes s)]

/-- No planning attempt moves H, not even one that ends the stop. -/
theorem planningAttempt_h (s : State) : (planningAttempt s).map.h = s.map.h := by
  by_cases run : s.trunk.run = .standby
  · rw [planningAttempt_standby run]
  · rw [planningAttempt_run run, checkStopEnd_h]
    split
    · rw [takeGradeSwitch_map]
    · rw [planLoop_map, takeGradeSwitch_map]

/-! ### The stop end (R34) -/

section
variable {s : State} (glass : ∀ i, (s.rx i).state = .running →
  ∃ x, (s.rx i).lastPosition = some x ∧ x + s.setup.linePitch < 2 ^ 48)

theorem stopEndOf_none (h : ∀ i, (s.rx i).state ≠ .running) : stopEndOf s = s.pos.p := by
  have none_running : (laneIds.filterMap fun i => if (s.rx i).state == .running then some (lastGlass i s) else none) = [] :=
    List.filterMap_eq_nil_iff.2 fun i _ => if_neg (by simpa using h i)
  unfold stopEndOf
  dsimp only
  rw [none_running]

include glass

/-- E is the lowest end of the RUNNING lanes' last glass. -/
theorem stopEndOf_least (h : ∃ i, (s.rx i).state = .running) :
    (∃ i, (s.rx i).state = .running ∧ stopEndOf s = lastGlass i s) ∧
      ∀ i, (s.rx i).state = .running → stopEndOf s ≤ lastGlass i s := by
  have every : ∀ i : LaneId, i ∈ laneIds := by decide
  have mem : ∀ v, (v ∈ laneIds.filterMap fun i => if (s.rx i).state == .running then some (lastGlass i s) else none) ↔
      ∃ i, (s.rx i).state = .running ∧ v = lastGlass i s := fun v => by
    rw [List.mem_filterMap]
    simp only [every, true_and, Option.ite_none_right_eq_some, beq_iff_eq, Option.some.injEq, eq_comm (b := v)]
  have value : ∀ m, (laneIds.filterMap fun i => if (s.rx i).state == .running then some (lastGlass i s) else none).min? =
      some m → stopEndOf s = heldSum m := fun m hm => by
    unfold stopEndOf
    dsimp only
    split
    · next empty => rw [empty] at hm; cases hm
    · next x xs ends =>
      rw [ends, List.min?_cons'] at hm
      rw [← Option.some.inj hm]
  generalize (laneIds.filterMap fun i => if (s.rx i).state == .running then some (lastGlass i s) else none) = ends
    at mem value
  cases hm : ends.min? with
  | none =>
    obtain ⟨i, running⟩ := h
    have lane := (mem _).2 ⟨i, running, rfl⟩
    rw [List.min?_eq_none_iff.1 hm] at lane
    cases lane
  | some m =>
    obtain ⟨least, below⟩ := List.min?_eq_some_iff.1 hm
    obtain ⟨i, running, rfl⟩ := (mem m).1 least
    obtain ⟨x, last, fits⟩ := glass i running
    have held : stopEndOf s = lastGlass i s := (value _ hm).trans (heldSum_of_lt (by rw [lastGlass_some last]; exact fits))
    exact ⟨⟨i, running, held⟩, fun j hj => held ▸ below _ ((mem _).2 ⟨j, hj, rfl⟩)⟩

end

/-! ### The lanes' part (R34) -/

/-- The RUNNING lanes' blob tables flushed, in ascending order. -/
def flushLanes (s : State) : State := laneIds.foldl (fun u i => flushRunning i u) s

/-- Every lane's open gap closed at E. -/
def closeGaps (stop : Nat) (s : State) : State := laneIds.foldl (fun u i => closeGap i stop u) s

/-- Every lane's move to IDLE. -/
def idleLanes (s : State) : State := laneIds.foldl (fun u i => u.modRx i idleLane) s

theorem stopLanes_eq (s : State) : stopLanes s =
    (settleDetect (idleLanes (closeGaps (stopEndOf (flushLanes s)) (flushLanes s))), stopEndOf (flushLanes s)) := by
  have flushed : laneIds.foldl (fun u i => if (u.rx i).state == .running then flush i u else u) s = flushLanes s :=
    congrArg (fun f => laneIds.foldl f s) (funext fun u => funext fun i => if_congr beq_iff_eq rfl rfl)
  unfold stopLanes
  dsimp only
  rw [flushed]
  rfl

theorem flushLanes_quiet (s : State) : Quiet s (flushLanes s) := by
  have folded : ∀ (ids : List LaneId) (u : State), Quiet u (ids.foldl (fun u i => flushRunning i u) u) := by
    intro ids
    induction ids with
    | nil => exact Quiet.refl
    | cons i ids ih => exact fun u => (flushRunning_quiet i u).trans (ih _)
  exact folded laneIds s

theorem flushLanes_inner (s : State) : Inner s (flushLanes s) := Inner.foldl (fun u i => flushRunning_inner i u) _ _

theorem flushLanes_state (s : State) (i : LaneId) : ((flushLanes s).rx i).state = (s.rx i).state := by
  rw [quiet_rx (flushLanes_quiet s) i]

/-- No flush changes a lane's state, so the lanes that flush are those that were RUNNING. -/
theorem flushLanes_eq (s : State) :
    flushLanes s = laneIds.foldl (fun u i => if (s.rx i).state = .running then flush i u else u) s := by
  have folded : ∀ (ids : List LaneId) (u : State), (∀ i, (u.rx i).state = (s.rx i).state) →
      ids.foldl (fun u i => flushRunning i u) u =
        ids.foldl (fun u i => if (s.rx i).state = .running then flush i u else u) u := by
    intro ids
    induction ids with
    | nil => exact fun u _ => rfl
    | cons i ids ih =>
      intro u same
      have first : (if (s.rx i).state = .running then flush i u else u) = flushRunning i u := by
        unfold flushRunning
        rw [same i]
      rw [List.foldl_cons, List.foldl_cons, first]
      exact ih _ fun k => by rw [quiet_rx (flushRunning_quiet i u) k]; exact same k
  exact folded laneIds s fun _ => rfl

/-- A RUNNING lane's tracker is empty after the flushes where its law held; every other lane's stays. -/
theorem flushLanes_tracker (s : State) (i : LaneId) :
    ((s.rx i).state = .running → (s.lane i).tracker.Ok → ((flushLanes s).lane i).tracker = Tracker.empty) ∧
      ((s.rx i).state ≠ .running → ((flushLanes s).lane i).tracker = (s.lane i).tracker) := by
  rw [flushLanes_eq]
  obtain ⟨u, before, after⟩ := foldl_view (i := i) (view := fun u => (u.lane i).tracker)
    (f := fun u j => if (s.rx j).state = .running then flush j u else u)
    (fun j hj u => by split; exacts [flush_tracker_other hj.symm u, rfl]) s
  rw [after]
  refine ⟨fun running ok => ?_, fun idle => ?_⟩
  · rw [if_pos running, flush_spec (by rw [before]; exact ok)]
    exact congrArg Lane.tracker (State.setLane_lane_same _ _ _)
  · rw [if_neg idle]
    exact before

/-! ### The gaps and the moves to IDLE -/

theorem closeGap_h (i : LaneId) (z : Nat) (s : State) : (closeGap i z s).map.h = s.map.h := by
  have closed : ∀ a, (s.map.closed i a z).h = s.map.h := fun a => by
    unfold FlawMap.closed
    split <;> rfl
  cases gap : (s.rx i).openGap with
  | none => rw [closeGap_none gap]
  | some a =>
    rcases Nat.lt_or_ge a z with hz | hz
    · rw [closeGap_ended gap hz]
      exact closed a
    · rw [closeGap_withdrawn gap hz]
      exact closed a

theorem closeGap_tracker (i j : LaneId) (z : Nat) (s : State) :
    ((closeGap i z s).lane j).tracker = (s.lane j).tracker := by
  have set : ∀ (u : State) (y : Receiver), u.lanes = s.lanes → ((u.withRx i y).lane j).tracker = (s.lane j).tracker :=
    fun u y same => by
      unfold State.withRx
      rw [State.setLane_lane, lane_of_lanes same, lane_of_lanes same]
      split
      · next h => rw [h]
      · rfl
  cases gap : (s.rx i).openGap with
  | none => rw [closeGap_none gap]
  | some a =>
    rcases Nat.lt_or_ge a z with hz | hz
    · rw [closeGap_ended gap hz]
      exact set (s.withMap _) _ rfl
    · rw [closeGap_withdrawn gap hz]
      exact set (s.withMap _) _ rfl

/-- A lane after the close of the gaps at E and the moves to IDLE. -/
theorem idleLanes_closeGaps (stop : Nat) (s : State) (i : LaneId) :
    ((idleLanes (closeGaps stop s)).lane i).tracker = (s.lane i).tracker ∧
      ∃ b, (idleLanes (closeGaps stop s)).rx i = idleLane
        { s.rx i with openGap := none, lastClosedGap := (s.rx i).closedAt stop, lastGapStart := b } := by
  have tracker : ((idleLanes (closeGaps stop s)).lane i).tracker = (s.lane i).tracker :=
    (foldl_view_others (view := fun u => (u.lane i).tracker) (fun j _ u => State.modRx_tracker u j i idleLane) _).trans
      (foldl_view_others (view := fun u => (u.lane i).tracker) (fun j _ u => closeGap_tracker j i stop u) s)
  obtain ⟨u, before, after⟩ := foldl_view (i := i) (view := fun u => u.rx i) (f := fun u j => closeGap j stop u)
    (fun j hj u => by rw [closeGap_rx, if_neg hj.symm]) s
  obtain ⟨v, before', after'⟩ := foldl_view (i := i) (view := fun u => u.rx i) (f := fun u j => u.modRx j idleLane)
    (fun j hj u => by rw [State.modRx_rx, if_neg hj.symm]) (closeGaps stop s)
  obtain ⟨b, closed⟩ := closeGap_rx_same i stop u
  refine ⟨tracker, b, ?_⟩
  unfold idleLanes
  rw [after', State.modRx_rx_same, before']
  unfold closeGaps
  rw [after, closed, before]

theorem idleLanes_closeGaps_h (stop : Nat) (s : State) : (idleLanes (closeGaps stop s)).map.h = s.map.h :=
  (foldl_view_others (view := fun u => u.map.h) (f := fun u j => u.modRx j idleLane) (fun _ _ _ => rfl) _).trans
    (foldl_view_others (view := fun u => u.map.h) (fun j _ u => closeGap_h j stop u) s)

/-- A lane that listens or is SILENT becomes IDLE with no line taken; an IDLE or DISABLED lane stays as it is. -/
theorem idleLane_moves {x : Receiver} (h : x.state = .waiting ∨ x.state = .running ∨ x.state = .silent) :
    (idleLane x).state = .idle ∧ (idleLane x).lastTrigger = none ∧ (idleLane x).lastPosition = none := by
  unfold idleLane
  rcases h with h | h | h <;> rw [h] <;> exact ⟨rfl, rfl, rfl⟩

theorem idleLane_stays {x : Receiver} (h : x.state = .idle ∨ x.state = .disabled) : idleLane x = x := by
  unfold idleLane
  rcases h with h | h <;> rw [h]

theorem idleLane_gaps (x : Receiver) :
    (idleLane x).openGap = x.openGap ∧ (idleLane x).lastClosedGap = x.lastClosedGap := by
  unfold idleLane
  split <;> exact ⟨rfl, rfl⟩

/-! ### The answer, with room for it or without -/

/-- Handing a record changes the notices and the outbound side alone. -/
theorem handRecord_frame (r : Urgent) (s : State) : NoticeFrame s (handRecord r s) := by
  unfold handRecord
  dsimp only
  split
  · exact (handUrgent_frame r s).trans (raise_frame _ _ _ _ _)
  · exact handUrgent_frame r s

theorem NoticeFrame.outside {s t : State} (h : NoticeFrame s t) : t.pos = s.pos ∧ t.map = s.map ∧ t.store = s.store ∧
    t.outputs = s.outputs ∧ t.trunk.run = s.trunk.run ∧ t.trunk.stopEnd = s.trunk.stopEnd := by
  unfold NoticeFrame at h
  rw [h]
  exact ⟨rfl, rfl, rfl, rfl, rfl, rfl⟩

/-- What an answer leaves alone whether or not its RESPONSE finds room. -/
structure AnswerFrame (u t : State) : Prop where
  pos : t.pos = u.pos
  lanes : ∀ i, ∃ slot, t.lane i = { u.lane i with rx := { u.rx i with slot := slot } }
  map : t.map = u.map
  store : t.store = u.store
  outputs : t.outputs = u.outputs
  run : t.trunk.run = u.trunk.run
  stopEnd : t.trunk.stopEnd = u.trunk.stopEnd

theorem respond_frame (tag kind : Byte) (args body : List Byte) (st : Status) (u : State) :
    ∃ t, respond tag kind args st body u = .next t ∧ AnswerFrame u t ∧
      (hasRoom u → Answered ⟨tag, kind, args⟩ st body u t) := by
  obtain ⟨t, ht, take⟩ := done_afterTake (answer ⟨tag, kind, args⟩ st body u)
  have blocks := take.blocks
  have handed := (handRecord_frame (.response tag kind st body) u).outside
  obtain ⟨e, q, completed, -, -⟩ := complete_cases ⟨tag, kind, args⟩ (handRecord (.response tag kind st body) u)
  have form : answer ⟨tag, kind, args⟩ st body u = _ := completed
  generalize handRecord (.response tag kind st body) u = v at handed form
  obtain ⟨pos, map, store, outputs, run, stopEnd⟩ := handed
  refine ⟨t, ht, ⟨?_, fun i => ⟨(t.rx i).slot, ?_⟩, ?_, ?_, ?_, ?_, ?_⟩, fun room => ?_⟩
  · rw [blocks.pos, form, State.withTrunk_pos, pos]
  · have lanes := answer_lanes ⟨tag, kind, args⟩ st body u
    have kept := (blocks.lanes i).1
    rw [lane_of_lanes lanes, rx_of_lanes lanes] at kept
    exact kept
  · rw [blocks.map, form, State.withTrunk_map, map]
  · rw [blocks.store, form, State.withTrunk_store, store]
  · rw [blocks.outputs, form, State.withTrunk_outputs, outputs]
  · rw [blocks.run, form, State.withTrunk_trunk, run]
  · rw [blocks.stopEnd, form, State.withTrunk_trunk, stopEnd]
  · obtain ⟨t', ht', answered⟩ :=
      respond_answered (tag := tag) (kind := kind) (args := args) (body := body) (status := st) room
    cases ht.symm.trans ht'
    exact answered

/-! ### RUN_STOP's effect in INSPECT (R174) -/

theorem stopEnd_spec {s : State} (glass : ∀ i, (s.rx i).state = .running →
    ∃ x, (s.rx i).lastPosition = some x ∧ x + s.setup.linePitch < 2 ^ 48) :
    ((∀ i, (s.rx i).state ≠ .running) → stopEndOf (flushLanes s) = s.pos.p) ∧
    (∀ i x, (s.rx i).state = .running → (s.rx i).lastPosition = some x →
      stopEndOf (flushLanes s) ≤ x + s.setup.linePitch) ∧
    ((∃ i, (s.rx i).state = .running) → ∃ i x, (s.rx i).state = .running ∧ (s.rx i).lastPosition = some x ∧
      stopEndOf (flushLanes s) = x + s.setup.linePitch) := by
  have state := flushLanes_state s
  have last : ∀ i, ((flushLanes s).rx i).lastPosition = (s.rx i).lastPosition := fun i => by
    rw [quiet_rx (flushLanes_quiet s) i]
  have setup : (flushLanes s).setup = s.setup := (flushLanes_inner s).setup
  have p : (flushLanes s).pos.p = s.pos.p := (flushLanes_inner s).p
  have ends : ∀ {i x}, (s.rx i).lastPosition = some x → lastGlass i (flushLanes s) = x + s.setup.linePitch := fun h => by
    rw [lastGlass_some ((last _).trans h), setup]
  have least := stopEndOf_least (s := flushLanes s) fun i running => by
    rw [last, setup]
    exact glass i (state i ▸ running)
  simp only [state] at least
  refine ⟨fun h => ?_, fun i x running hx => ?_, fun h => ?_⟩
  · rw [stopEndOf_none fun i => by rw [state]; exact h i, p]
  · exact ends hx ▸ (least ⟨i, running⟩).2 i running
  · obtain ⟨⟨i, running, value⟩, -⟩ := least h
    obtain ⟨x, hx, -⟩ := glass i running
    exact ⟨i, x, running, hx, value.trans (ends hx)⟩

/-- The receiver of a lane before and after RUN_STOP at the stop end. -/
structure Receiver.StoppedAt (stop : Nat) (x y : Receiver) : Prop where
  moves : x.state = .waiting ∨ x.state = .running ∨ x.state = .silent →
    y.state = .idle ∧ y.lastTrigger = none ∧ y.lastPosition = none
  stays : x.state = .idle ∨ x.state = .disabled → y.state = x.state
  openGap : y.openGap = none
  lastClosedGap : y.lastClosedGap = x.closedAt stop

theorem Receiver.stoppedAt_idleLane (stop : Nat) (x : Receiver) (b : Option Nat) : Receiver.StoppedAt stop x (idleLane
    { x with openGap := none, lastClosedGap := x.closedAt stop, lastGapStart := b }) := by
  obtain ⟨gap, closed⟩ := idleLane_gaps { x with openGap := none, lastClosedGap := x.closedAt stop, lastGapStart := b }
  refine ⟨fun h => idleLane_moves h, fun h => ?_, gap, closed⟩
  rw [idleLane_stays (by exact h)]

/-- The line bindings and the forward slot have no part in it. -/
theorem Receiver.StoppedAt.quiet {stop : Nat} {x x' y y' : Receiver} (h : Receiver.StoppedAt stop x' y)
    (before : rxSame x x') (after : rxSame y y') : Receiver.StoppedAt stop x y' := by
  unfold rxSame at before after
  rw [before] at h
  rw [after]
  exact ⟨h.moves, h.stays, h.openGap, h.lastClosedGap⟩

theorem Receiver.StoppedAt.taken {stop : Nat} {x y : Receiver} (h : Receiver.StoppedAt stop x y)
    (slot : Option ForwardLine) : Receiver.StoppedAt stop x { y with slot := slot } :=
  ⟨h.moves, h.stays, h.openGap, h.lastClosedGap⟩

/-- The state in which RUN_STOP's planning attempt is made, from the state that the lanes leave. -/
def State.stoppingAt (w : State) (stop : Nat) : State :=
  (w.withMap { w.map with h := max w.map.h stop }).withTrunk { w.trunk with run := .stopping, stopEnd := some stop }

theorem stopLanes_stop (s : State) : (stopLanes s).2 = stopEndOf (flushLanes s) := by rw [stopLanes_eq]

theorem stopRun_snd (s : State) : (stopRun s).2 = stopEndOf (flushLanes s) := by
  rw [← stopLanes_stop]
  unfold stopRun
  generalize stopLanes s = r
  rfl

theorem stopRun_fst (s : State) :
    (stopRun s).1 = planningAttempt ((stopLanes s).1.stoppingAt (stopEndOf (flushLanes s))) := by
  rw [← stopLanes_stop]
  unfold stopRun
  generalize stopLanes s = r
  rfl

/-- What the lanes' part leaves, but for the release of a RETIRING DETECT bank. -/
theorem stopLanes_base (s : State) : ∃ d w, (stopLanes s).1 =
    (idleLanes (closeGaps (stopEndOf (flushLanes s)) (flushLanes s))).withStore
      { (idleLanes (closeGaps (stopEndOf (flushLanes s)) (flushLanes s))).store with detect := d, tSw := w } := by
  rw [congrArg Prod.fst (stopLanes_eq s)]
  dsimp only
  generalize idleLanes (closeGaps (stopEndOf (flushLanes s)) (flushLanes s)) = u
  exact settleDetect_eq u

theorem stoppingAt_lanes (s : State) (stop : Nat) : ((stopLanes s).1.stoppingAt stop).lanes =
    (idleLanes (closeGaps (stopEndOf (flushLanes s)) (flushLanes s))).lanes := by
  obtain ⟨d, w, base⟩ := stopLanes_base s
  rw [base]
  rfl

theorem stopRun_rx (s : State) (i : LaneId) :
    Receiver.StoppedAt (stopEndOf (flushLanes s)) (s.rx i) ((stopRun s).1.rx i) := by
  obtain ⟨-, b, stopped⟩ := idleLanes_closeGaps (stopEndOf (flushLanes s)) (flushLanes s) i
  have flushed := (flushLanes_quiet s).rx i
  have attempt := (planningAttempt_quiet ((stopLanes s).1.stoppingAt (stopEndOf (flushLanes s)))).rx i
  rw [rx_of_lanes (stoppingAt_lanes s _), stopped] at attempt
  rw [stopRun_fst]
  exact (Receiver.stoppedAt_idleLane _ _ b).quiet flushed attempt

theorem stopRun_tracker (s : State) (i : LaneId) : ((stopRun s).1.lane i).tracker = ((flushLanes s).lane i).tracker := by
  rw [stopRun_fst, planningAttempt_tracker, lane_of_lanes (stoppingAt_lanes s _)]
  exact (idleLanes_closeGaps _ _ i).1

theorem stopRun_h (s : State) : (stopRun s).1.map.h = max (flushLanes s).map.h (stopEndOf (flushLanes s)) := by
  have raised : ∀ (w : State) (stop : Nat), (w.stoppingAt stop).map.h = max w.map.h stop := fun _ _ => rfl
  obtain ⟨d, w, base⟩ := stopLanes_base s
  rw [stopRun_fst, planningAttempt_h, raised, base, State.withStore_map, idleLanes_closeGaps_h]

theorem stopRun_stopEnd (s : State) : (stopRun s).1.trunk.stopEnd = some (stopEndOf (flushLanes s)) := by
  have stored : ∀ (w : State) (stop : Nat), (w.stoppingAt stop).trunk.stopEnd = some stop := fun _ _ => rfl
  rw [stopRun_fst, (planningAttempt_inner _).stopEnd, stored]

theorem stopRun_p (s : State) : (stopRun s).1.pos.p = s.pos.p := by
  have same : ∀ (w : State) (stop : Nat), (w.stoppingAt stop).pos = w.pos := fun _ _ => rfl
  rw [stopRun_fst, (planningAttempt_inner _).p, same, (stopLanes_inner s).p]

/-- Settles O51: the lanes' part, the stop end, H and the answer. -/
theorem runStop : Obligations.RunStop := by
  unfold Obligations.RunStop
  intro s tag args cmd
  refine ⟨fun room outside => ?_, fun inspect glass => ?_⟩
  · have refused : cmd = respond tag 8 args .notNow [] s := if_neg (by simpa using outside)
    rw [refused]
    exact respond_answered room
  have stops : cmd = respond tag 8 args .ok (pos6 (stopRun s).2) (stopRun s).1 := if_pos (beq_iff_eq.2 inspect)
  have value : (stopRun s).2 = stopEndOf (flushLanes s) := stopRun_snd s
  obtain ⟨t, ht, frame, answered⟩ := respond_frame tag 8 args (pos6 (stopRun s).2) .ok (stopRun s).1
  obtain ⟨noneRunning, below, attained⟩ := stopEnd_spec glass
  have settings := stopRun_settingsKept s
  have horizon : t.map.h = max (flushLanes s).map.h (stopEndOf (flushLanes s)) := by rw [frame.map, stopRun_h]
  have flushed : (flushLanes s).map.h =
      (laneIds.foldl (fun u i => if (s.rx i).state = .running then flush i u else u) s).map.h := by rw [flushLanes_eq]
  have tracker : ∀ i, (t.lane i).tracker = ((flushLanes s).lane i).tracker := fun i => by
    obtain ⟨slot, lane⟩ := frame.lanes i
    rw [lane]
    exact stopRun_tracker s i
  have rx : ∀ i, Receiver.StoppedAt (stopEndOf (flushLanes s)) (s.rx i) (t.rx i) := fun i => by
    obtain ⟨slot, lane⟩ := frame.lanes i
    have taken : t.rx i = { (stopRun s).1.rx i with slot := slot } := congrArg Lane.rx lane
    rw [taken]
    exact (stopRun_rx s i).taken slot
  refine ⟨stopEndOf (flushLanes s), t, stops.trans ht, ?_, noneRunning, below, attained, fun i => (rx i).moves,
    fun i => (rx i).stays, fun i => (rx i).openGap, fun i g gap => ?_, fun i => ?_, ?_, ?_, fun room => ?_, ?_, ?_, ?_, ?_⟩
  · rw [frame.stopEnd, stopRun_stopEnd]
  · rw [(rx i).lastClosedGap]
    unfold Receiver.closedAt
    rw [gap]
  · rw [tracker]
    exact flushLanes_tracker s i
  · exact horizon.trans (congrArg (fun high => max high (stopEndOf (flushLanes s))) flushed)
  · rw [frame.map]
    exact stopRun_horizon s
  · rw [value, stopRun_fst] at answered
    exact answered room
  · rw [frame.run]
    exact stopRun_run s
  · rw [frame.pos, stopRun_p]
  · rw [State.setup, frame.store]
    exact settings.setup
  · rw [frame.outputs, settings.outputs]

end Sys2Proof.Machine
end
